-- ==== Sys2Proof/Word.lean ====
section
/-! DEFINITION. The words of the machine bus and of the store: bytes and 16-bit words (spec 00_scope 6.1, 09 9.1). -/

namespace Sys2Proof

/-- One byte of a bus frame or of the store. -/
abbrev Byte := BitVec 8

/-- One 16-bit bus field or store word; s16 fields are read with `toInt`. -/
abbrev Word := BitVec 16

/-- The low byte of a word (multi-byte fields are little-endian, 00_scope 6.1). -/
def Word.low (w : Word) : Byte := w.setWidth 8

/-- The high byte of a word. -/
def Word.high (w : Word) : Byte := (w >>> 8).setWidth 8

/-- The word of a low and a high byte. -/
def Word.ofBytes (lo hi : Byte) : Word := hi ++ lo

end Sys2Proof
end

