-- ==== Sys2Proof/Syntax.lean ====
section
/-! DEFINITION. The commands: one constructor of `Instr` per row of spec/opcode_table.json.

`dt` is the time in µs that has passed since the command before this one (assumption 1). A timer's expiry and a
store operation's completion carry no time: they come about at the deadline that was set when they were started.
`order` is the order in which the blocks and the channels concerned take an event, where the spec leaves that
order open (R22, R50, R95, R98, R155; assumption 4). -/

namespace Sys2Proof

/-- The six settings, numbered 0 to 5 (00_scope section 4). -/
inductive Channel where
  | drum | concave | upperSieve | lowerSieve | fan | louver
  deriving DecidableEq, Repr

/-- The positional channels, with feedback inputs F1, F2, F3 and F5. -/
inductive PosChannel where
  | concave | upperSieve | lowerSieve | louver
  deriving DecidableEq, Repr

/-- The speed channels, with inputs DRUM_SPD and FAN_SPD. -/
inductive SpeedChannel where
  | drum | fan
  deriving DecidableEq, Repr

/-- LOSS_L, LOSS_R and LOSS_W. -/
inductive LossInput where
  | left | right | walker
  deriving DecidableEq, Repr

/-- ROLL, PITCH and FEEDER. -/
inductive PwmInput where
  | roll | pitch | feeder
  deriving DecidableEq, Repr

/-- The two kinds of edge of a line. -/
inductive Edge where
  | rising | falling
  deriving DecidableEq, Repr

/-- The blocks, or parts of a block's work, that take one event beside one another. -/
inductive Task where
  /-- The Window Unit's close (R11, R12). -/
  | windowUnit
  /-- The judgement of the harvesting condition (R9). -/
  | harvesting
  /-- The Setting Book's reaction (R77, R78, R81, R165). -/
  | settingBook
  /-- The Override Unit's reaction (R145, R155). -/
  | overrideUnit
  /-- The Drive Arbiter's reaction to new parameters (R130). -/
  | arbiter
  /-- The clamp of louver_trim to a new limit (R94). -/
  | louverLimit
  /-- The Window Unit's PARAMS_APPLIED (R14). -/
  | paramsApplied
  /-- The forming of the Evaluation (R34 to R44). -/
  | evaluation
  /-- The Feed Restrain's judgement of a record (R46 to R49). -/
  | feedRestrain
  /-- The louver feed-forward (R91, R92). -/
  | louverFeed
  /-- The fan pitch offset (R96). -/
  | fanOffset
  /-- Speed regulation (R125). -/
  | regulation
  /-- The six BOOK_STATUS frames (R178). -/
  | bookStatus
  /-- The Trim Engine, on the Evaluation (R84 to R88). -/
  | trim
  /-- The imbalance trim, on the Evaluation (R93). -/
  | imbalance
  /-- The three WINDOW_REPORT frames, on the Evaluation (R178). -/
  | windowReport
  deriving DecidableEq, Repr

/-- The order in which blocks and channels take an event: those listed first, in the listed order, then the
others in the order of their definition. Every order of the blocks is given by some list. -/
structure Order where
  tasks : List Task
  channels : List Channel
  deriving DecidableEq, Repr

/-- A received frame's identifier fields beside the kind (10 10.1), and the number of data bytes it carries. -/
structure FrameHeader where
  priority : BitVec 3
  destination : Byte
  source : Byte
  length : Nat
  deriving DecidableEq, Repr

/-- The data of a SETTING_REQUEST beside its kind byte (10 10.6). -/
structure SettingFields where
  channel : Byte
  value : Word
  cycles : Byte
  tag : Byte
  deriving DecidableEq, Repr

/-- The data of a MODE_REQUEST beside its operation byte (10 10.1). -/
structure ModeFields where
  channel : Byte
  tag : Byte
  deriving DecidableEq, Repr

/-- The data of a PRESET_REQUEST beside its operation byte (10 10.1). -/
structure PresetFields where
  slot : Byte
  includeCalibration : Byte
  tag : Byte
  deriving DecidableEq, Repr

/-- The data of a PARAM_REQUEST beside its operation byte (10 10.1). -/
structure ParamFields where
  number : Word
  value : Word
  tag : Byte
  deriving DecidableEq, Repr

/-- A request of a known kind whose kind or operation code `op` lies outside its range (R171). -/
inductive UnknownRequest where
  | setting (op : Byte) (f : SettingFields)
  | mode (op : Byte) (f : ModeFields)
  | preset (op : Byte) (f : PresetFields)
  | param (op : Byte) (f : ParamFields)
  | service (op : Byte) (tag : Byte)
  deriving DecidableEq, Repr

/-- What a page physically reads at the end of an operation: `none` when it reads as the operation meant,
otherwise its words (assumption 9). -/
abbrev ReadBack := Option (List Word)

/-- The commands, in the order of spec/opcode_table.json. `releaseFirst` says that a drive-off or an abort which releases a slot falls
together with the entry of a RELIEF move to WAITING and is taken before its preemption (R142; assumption 45); where it is not
given, the preemption is. -/
inductive Instr where
  | lossEdge (dt : Nat) (input : LossInput)
  | speedEdge (dt : Nat) (input : SpeedChannel) (edge : Edge)
  | pwmEdge (dt : Nat) (input : PwmInput) (edge : Edge)
  | tailChange (dt : Nat) (active : Bool)
  | sepLevelChange (dt : Nat) (engaged : Bool)
  | sepQualifyExpiry (order : Order)
  | feedbackPulse (dt : Nat) (input : PosChannel)
  | keyFalls (dt : Nat) (order : Order)
  | keyReturns (dt : Nat)
  | powerOn (dt : Nat)
  | supplyDip (dt : Nat)
  | windowTimerExpiry (order : Order)
  | holdTimerExpiry (channel : Channel)
  | jogRefreshExpiry (channel : Channel)
  | groundSpeedFreshnessExpiry (order : Order)
  | coastTimerExpiry (channel : PosChannel) (releaseFirst : Bool := false)
  | settleTimerExpiry (channel : SpeedChannel)
  | stallTimerExpiry (channel : PosChannel)
  | maximumDriveTimeExpiry (channel : SpeedChannel)
  | drumWatchTimerExpiry
  | confirmTimerExpiry (releaseFirst : Bool := false)
  | recoverTimerExpiry
  | giveUpTimerExpiry
  | deadlineTimerExpiry
  | positionWriteStart
  | saveCompletes (readBack : ReadBack)
  | eraseCompletes (readBack : ReadBack)
  | wipeCompletes (readBack : List (Nat × List Word))
  | saveCalCompletes (readBack : ReadBack)
  | lockCalCompletes (readBack : ReadBack)
  | positionWriteCompletes (readBack : ReadBack)
  | positionEraseCompletes (readBack : ReadBack)
  | set (dt : Nat) (header : FrameHeader) (fields : SettingFields)
  | jogStart (dt : Nat) (header : FrameHeader) (fields : SettingFields)
  | jogStop (dt : Nat) (header : FrameHeader) (fields : SettingFields)
  | home (dt : Nat) (header : FrameHeader) (fields : SettingFields)
  | shake (dt : Nat) (header : FrameHeader) (fields : SettingFields)
  | auto (dt : Nat) (header : FrameHeader) (fields : ModeFields)
  | manual (dt : Nat) (header : FrameHeader) (fields : ModeFields)
  | releaseHold (dt : Nat) (header : FrameHeader) (fields : ModeFields)
  | load (dt : Nat) (header : FrameHeader) (fields : PresetFields)
  | save (dt : Nat) (header : FrameHeader) (fields : PresetFields)
  | erase (dt : Nat) (header : FrameHeader) (fields : PresetFields)
  | wipe (dt : Nat) (header : FrameHeader) (fields : PresetFields)
  | lockCal (dt : Nat) (header : FrameHeader) (fields : PresetFields)
  | inhibit (dt : Nat) (header : FrameHeader) (fields : PresetFields)
  | saveCal (dt : Nat) (header : FrameHeader) (fields : PresetFields)
  | paramRead (dt : Nat) (header : FrameHeader) (fields : ParamFields)
  | paramWrite (dt : Nat) (header : FrameHeader) (fields : ParamFields)
  | enter (dt : Nat) (header : FrameHeader) (tag : Byte) (order : Order)
  | leave (dt : Nat) (header : FrameHeader) (tag : Byte)
  | restart (dt : Nat) (header : FrameHeader) (tag : Byte) (order : Order)
  | clearCauses (dt : Nat) (header : FrameHeader) (tag : Byte)
  | windowRestart (dt : Nat) (header : FrameHeader) (tag : Byte) (order : Order)
  | bookQuery (dt : Nat) (header : FrameHeader)
  | motionStatus (dt : Nat) (header : FrameHeader) (speed : Word) (order : Order)
  | qualityReport (dt : Nat) (header : FrameHeader) (broken foreign samples : Word)
  | unknownKindFrame (dt : Nat) (header : FrameHeader) (kind : BitVec 10)
  | frameTransmitted (dt : Nat)
  | transmissionFailure (dt : Nat)
  | busOff (dt : Nat)
  | busOffSilenceExpiry
  | powerLoss (dt : Nat)
  | unknownOperation (dt : Nat) (header : FrameHeader) (request : UnknownRequest)
  deriving DecidableEq, Repr

end Sys2Proof
end

