-- ==== Sys2Proof/Decode.lean ====
section
/-! DEFINITION. Decoding of the table's words. No row of spec/opcode_table.json gives bits, for the part has no instruction words. -/

namespace Sys2Proof

/-- The command a word of the table spells: none, since no row of the table gives bits. -/
def decodeTableWord (_nbits _w : Nat) : Option Instr := none

end Sys2Proof
end

