-- ==== Sys2Proof/Config.lean ====
section
/-! DEFINITION. The free values: what the spec leaves open and the part nevertheless fixes at each use.
Each is a constant without a body, so no proof can use a particular value. -/

namespace Sys2Proof.Config

/-- What the words of a page read when an operation on it was interrupted (R159), at the k-th use.
The store keeps it to DAMAGED or EMPTY as R159 says (assumption 8). -/
opaque tornPage : Nat → List Word

/-- The rpm of a speed period of 0 µs, for which R5 and R26 give no quotient, at the k-th use (assumption 13). -/
opaque zeroPeriodRpm : Nat → Nat

/-- The mean rpm of a window whose closed periods add to 0 µs (R26), at the k-th use (assumption 13). -/
opaque zeroSumRpm : Nat → Nat

/-- The position record's number that follows 4,294,967,295 (R166 gives the range only), less one (assumption 27). -/
opaque recordNumberWrap : Nat

/-- The destination byte of a frame of a sent kind that answers no request (BOOK_STATUS 0x190,
WINDOW_REPORT 0x191, RESTRAIN_NOTICE 0x192, EVENT_NOTICE 0x193), by the kind's code (assumption 14). -/
opaque reportDestination : BitVec 10 → Byte

end Sys2Proof.Config
end

