-- ==== Sys2Proof/Machine/Containers.lean ====
section
/-! DEFINITION. Finite families: one value for each channel, input or symptom, with reading and writing of one member. -/

namespace Sys2Proof

/-- The channels in the order of their numbers. -/
def Channel.all : List Channel := [.drum, .concave, .upperSieve, .lowerSieve, .fan, .louver]

/-- A channel's number, 0 to 5 (00_scope section 4). -/
def Channel.index : Channel → Nat
  | .drum => 0
  | .concave => 1
  | .upperSieve => 2
  | .lowerSieve => 3
  | .fan => 4
  | .louver => 5

/-- The channel of a channel byte, none outside 0..5. -/
def Channel.ofCode : Nat → Option Channel
  | 0 => some .drum
  | 1 => some .concave
  | 2 => some .upperSieve
  | 3 => some .lowerSieve
  | 4 => some .fan
  | 5 => some .louver
  | _ => none

/-- The positional channels in the order of their numbers. -/
def PosChannel.all : List PosChannel := [.concave, .upperSieve, .lowerSieve, .louver]

/-- The speed channels in the order of their numbers. -/
def SpeedChannel.all : List SpeedChannel := [.drum, .fan]

/-- A positional channel among the six. -/
def PosChannel.channel : PosChannel → Channel
  | .concave => .concave
  | .upperSieve => .upperSieve
  | .lowerSieve => .lowerSieve
  | .louver => .louver

/-- A speed channel among the six. -/
def SpeedChannel.channel : SpeedChannel → Channel
  | .drum => .drum
  | .fan => .fan

/-- The two kinds of channel. -/
inductive ChannelKind where
  | positional (p : PosChannel)
  | speed (v : SpeedChannel)
  deriving DecidableEq, Repr

/-- A channel's kind (00_scope section 4). -/
def Channel.kind : Channel → ChannelKind
  | .drum => .speed .drum
  | .concave => .positional .concave
  | .upperSieve => .positional .upperSieve
  | .lowerSieve => .positional .lowerSieve
  | .fan => .speed .fan
  | .louver => .positional .louver

/-- The loss inputs in the order of R19's detail. -/
def LossInput.all : List LossInput := [.left, .right, .walker]

end Sys2Proof

namespace Sys2Proof.Machine

/-- The seven symptoms, in the order of R37. -/
inductive Symptom where
  | sieveLoss | walkerLoss | tailingsHigh | drumDroop | sideImbalance | grainDirty | grainBroken
  deriving DecidableEq, Repr

/-- One value for each of the six channels. -/
structure PerChannel (α : Type) where
  (drum concave upperSieve lowerSieve fan louver : α)
  deriving DecidableEq, Repr

namespace PerChannel

variable {α : Type}

/-- The member named. -/
def get (t : PerChannel α) : Channel → α
  | .drum => t.drum
  | .concave => t.concave
  | .upperSieve => t.upperSieve
  | .lowerSieve => t.lowerSieve
  | .fan => t.fan
  | .louver => t.louver

/-- The family with the member named replaced. -/
def set (t : PerChannel α) (i : Channel) (v : α) : PerChannel α :=
  match i with
  | .drum => { t with drum := v }
  | .concave => { t with concave := v }
  | .upperSieve => { t with upperSieve := v }
  | .lowerSieve => { t with lowerSieve := v }
  | .fan => { t with fan := v }
  | .louver => { t with louver := v }

/-- The same value for every member. -/
def const (v : α) : PerChannel α :=
  ⟨v, v, v, v, v, v⟩

/-- The family of the values of a function. -/
def build (f : Channel → α) : PerChannel α :=
  ⟨f .drum, f .concave, f .upperSieve, f .lowerSieve, f .fan, f .louver⟩

end PerChannel

/-- One value for each positional channel. -/
structure PerPos (α : Type) where
  (concave upperSieve lowerSieve louver : α)
  deriving DecidableEq, Repr

namespace PerPos

variable {α : Type}

/-- The member named. -/
def get (t : PerPos α) : PosChannel → α
  | .concave => t.concave
  | .upperSieve => t.upperSieve
  | .lowerSieve => t.lowerSieve
  | .louver => t.louver

/-- The family with the member named replaced. -/
def set (t : PerPos α) (i : PosChannel) (v : α) : PerPos α :=
  match i with
  | .concave => { t with concave := v }
  | .upperSieve => { t with upperSieve := v }
  | .lowerSieve => { t with lowerSieve := v }
  | .louver => { t with louver := v }

/-- The same value for every member. -/
def const (v : α) : PerPos α :=
  ⟨v, v, v, v⟩

/-- The family of the values of a function. -/
def build (f : PosChannel → α) : PerPos α :=
  ⟨f .concave, f .upperSieve, f .lowerSieve, f .louver⟩

end PerPos

/-- One value for each speed channel, or for its input. -/
structure PerSpeed (α : Type) where
  (drum fan : α)
  deriving DecidableEq, Repr

namespace PerSpeed

variable {α : Type}

/-- The member named. -/
def get (t : PerSpeed α) : SpeedChannel → α
  | .drum => t.drum
  | .fan => t.fan

/-- The family with the member named replaced. -/
def set (t : PerSpeed α) (i : SpeedChannel) (v : α) : PerSpeed α :=
  match i with
  | .drum => { t with drum := v }
  | .fan => { t with fan := v }

/-- The same value for every member. -/
def const (v : α) : PerSpeed α :=
  ⟨v, v⟩

/-- The family of the values of a function. -/
def build (f : SpeedChannel → α) : PerSpeed α :=
  ⟨f .drum, f .fan⟩

end PerSpeed

/-- One value for each loss input. -/
structure PerLoss (α : Type) where
  (left right walker : α)
  deriving DecidableEq, Repr

namespace PerLoss

variable {α : Type}

/-- The member named. -/
def get (t : PerLoss α) : LossInput → α
  | .left => t.left
  | .right => t.right
  | .walker => t.walker

/-- The family with the member named replaced. -/
def set (t : PerLoss α) (i : LossInput) (v : α) : PerLoss α :=
  match i with
  | .left => { t with left := v }
  | .right => { t with right := v }
  | .walker => { t with walker := v }

/-- The same value for every member. -/
def const (v : α) : PerLoss α :=
  ⟨v, v, v⟩

/-- The family of the values of a function. -/
def build (f : LossInput → α) : PerLoss α :=
  ⟨f .left, f .right, f .walker⟩

end PerLoss

/-- One value for each PWM input. -/
structure PerPwm (α : Type) where
  (roll pitch feeder : α)
  deriving DecidableEq, Repr

namespace PerPwm

variable {α : Type}

/-- The member named. -/
def get (t : PerPwm α) : PwmInput → α
  | .roll => t.roll
  | .pitch => t.pitch
  | .feeder => t.feeder

/-- The family with the member named replaced. -/
def set (t : PerPwm α) (i : PwmInput) (v : α) : PerPwm α :=
  match i with
  | .roll => { t with roll := v }
  | .pitch => { t with pitch := v }
  | .feeder => { t with feeder := v }

/-- The same value for every member. -/
def const (v : α) : PerPwm α :=
  ⟨v, v, v⟩

/-- The family of the values of a function. -/
def build (f : PwmInput → α) : PerPwm α :=
  ⟨f .roll, f .pitch, f .feeder⟩

end PerPwm

/-- One value for each symptom, in the order of R37. -/
structure PerSymptom (α : Type) where
  (sieveLoss walkerLoss tailingsHigh drumDroop sideImbalance grainDirty grainBroken : α)
  deriving DecidableEq, Repr

namespace PerSymptom

variable {α : Type}

/-- The member named. -/
def get (t : PerSymptom α) : Symptom → α
  | .sieveLoss => t.sieveLoss
  | .walkerLoss => t.walkerLoss
  | .tailingsHigh => t.tailingsHigh
  | .drumDroop => t.drumDroop
  | .sideImbalance => t.sideImbalance
  | .grainDirty => t.grainDirty
  | .grainBroken => t.grainBroken

/-- The family with the member named replaced. -/
def set (t : PerSymptom α) (i : Symptom) (v : α) : PerSymptom α :=
  match i with
  | .sieveLoss => { t with sieveLoss := v }
  | .walkerLoss => { t with walkerLoss := v }
  | .tailingsHigh => { t with tailingsHigh := v }
  | .drumDroop => { t with drumDroop := v }
  | .sideImbalance => { t with sideImbalance := v }
  | .grainDirty => { t with grainDirty := v }
  | .grainBroken => { t with grainBroken := v }

/-- The same value for every member. -/
def const (v : α) : PerSymptom α :=
  ⟨v, v, v, v, v, v, v⟩

/-- The family of the values of a function. -/
def build (f : Symptom → α) : PerSymptom α :=
  ⟨f .sieveLoss, f .walkerLoss, f .tailingsHigh, f .drumDroop, f .sideImbalance, f .grainDirty, f .grainBroken⟩

end PerSymptom

/-- The symptoms in the order of R37. -/
def Symptom.all : List Symptom :=
  [.sieveLoss, .walkerLoss, .tailingsHigh, .drumDroop, .sideImbalance, .grainDirty, .grainBroken]

/-- A symptom's place in the table of R37, from 0 (R82). -/
def Symptom.index : Symptom → Nat
  | .sieveLoss => 0
  | .walkerLoss => 1
  | .tailingsHigh => 2
  | .drumDroop => 3
  | .sideImbalance => 4
  | .grainDirty => 5
  | .grainBroken => 6

/-- The symptom at a place of the table of R37. -/
def Symptom.ofCode : Nat → Option Symptom
  | 0 => some .sieveLoss
  | 1 => some .walkerLoss
  | 2 => some .tailingsHigh
  | 3 => some .drumDroop
  | 4 => some .sideImbalance
  | 5 => some .grainDirty
  | 6 => some .grainBroken
  | _ => none

/-- A list arranged by preference: the preferred members first, each once, then the other members in the order of `all`. -/
def arrange {α : Type} [DecidableEq α] (preferred all : List α) : List α :=
  let first := (preferred.filter (all.contains ·)).dedup
  first ++ all.filter (!first.contains ·)

end Sys2Proof.Machine
end

