-- ==== Sys2Proof/Machine/Operands.lean ====
section
/-! DEFINITION. The arithmetic of the manual (00_scope 6.3, 6.4), its fixed figures, and the reading of bus fields. -/

namespace Sys2Proof.Machine

/-! ### Rounding and clamping (00_scope 6.4) -/

/-- round_half_up of the quotient num / den: the nearest integer, one half upward. -/
def roundHalfUp (num den : Nat) : Nat := (2 * num + den) / (2 * den)

/-- The quotient num / den with its magnitude rounded half up and the sign of the exact quotient. -/
def roundSigned (num : Int) (den : Nat) : Int := num.sign * (roundHalfUp num.natAbs den : Nat)

/-- clamp(a..b, x). -/
def clamp (a b x : Int) : Int := if x < a then a else if b < x then b else x

/-- clamp(a..b, x) of natural numbers. -/
def clampNat (a b x : Nat) : Nat := if x < a then a else if b < x then b else x

/-! ### Units and counts (00_scope 6.3, R56) -/

/-- counts = sign(v) × round_half_up(|v| × cal16 / 16). -/
def unitsToCounts (cal16 : Nat) (v : Int) : Int := roundSigned (v * (cal16 : Int)) 16

/-- units = sign(c) × round_half_up(|c| × 16 / cal16). -/
def countsToUnits (cal16 : Nat) (c : Int) : Int := roundSigned (c * 16) cal16

/-- The range of a position count, −32768..32767 (00_scope 6.2). -/
def clampCount (c : Int) : Int := clamp (-32768) 32767 c

/-! ### Times: the state counts µs; durations of the manual are in ms (00_scope 6.2) -/

/-- A duration of ms in µs. -/
def ms (n : Nat) : Nat := n * 1000

/-! ### Window numbers (R13) -/

/-- The last window number, after which 1 follows. -/
def lastWindowNumber : Nat := 4294967295

/-- The number following a window number. -/
def nextWindowNumber (n : Nat) : Nat := if n = lastWindowNumber then 1 else n + 1

/-- How many windows a window number stands above an earlier one, counting over the wrap (R72, assumption 28). -/
def windowsAbove (later earlier : Nat) : Nat :=
  if earlier ≤ later then later - earlier else later + lastWindowNumber - earlier

/-! ### Node addresses (10 10.1) -/

/-- The Cab Terminal's address. -/
def cabAddress : Byte := 0x20

/-- The Propulsion Controller's address. -/
def propulsionAddress : Byte := 0x28

/-- The Grain Quality Node's address. -/
def qualityAddress : Byte := 0x30

/-- The Service Tool's address. -/
def serviceAddress : Byte := 0x70

/-- The broadcast destination. -/
def broadcastAddress : Byte := 0xFF

/-! ### Kinds and priorities (10 10.1) -/

/-- SETTING_REQUEST's kind code. -/
def kindSetting : BitVec 10 := 0x101

/-- MODE_REQUEST's kind code. -/
def kindMode : BitVec 10 := 0x102

/-- PRESET_REQUEST's kind code. -/
def kindPreset : BitVec 10 := 0x103

/-- PARAM_REQUEST's kind code. -/
def kindParam : BitVec 10 := 0x104

/-- SERVICE_REQUEST's kind code. -/
def kindService : BitVec 10 := 0x105

/-- BOOK_QUERY's kind code. -/
def kindBookQuery : BitVec 10 := 0x106

/-- The low byte of a kind code, as a REPLY carries it (R173). -/
def kindLow (kind : BitVec 10) : Byte := kind.setWidth 8

/-! ### Fixed durations, in µs -/

/-- The separator qualification, 50 ms (R8). -/
def sepQualifyTime : Nat := ms 50

/-- A hold's timer, one second (R63). -/
def holdTick : Nat := ms 1000

/-- The jog refresh timer, 300 ms (R175). -/
def jogRefreshTime : Nat := ms 300

/-- The ground speed freshness timer, 1000 ms (R174). -/
def freshnessTime : Nat := ms 1000

/-- The bus-off silence, 1000 ms (R177). -/
def busOffTime : Nat := ms 1000

/-- The shutdown deadline, 3000 ms (R167). -/
def deadlineTime : Nat := ms 3000

/-- The longest closed speed period, 1,000,000 µs (R3). -/
def longestPeriod : Nat := 1000000

/-- The longest complete PWM period, 100,000 µs (R6). -/
def longestPwmPeriod : Nat := 100000

/-! ### Absolute differences -/

/-- |a − b|. -/
def distance (a b : Int) : Nat := (a - b).natAbs

end Sys2Proof.Machine
end

