-- ==== Sys2Proof/Machine/Params.lean ====
section
/-! DEFINITION. The parameters: the calibration and the preset parameter set with their numbers, ranges, defaults
and write checks (09 9.3, R82, R83, R129, R144, R156, R164). -/

namespace Sys2Proof.Machine

/-! ### Choices -/

/-- The direction of a drive: `up` is EXTEND (count rising) or RAISE, `down` is RETRACT or LOWER (R102). -/
inductive Direction where
  | up | down
  deriving DecidableEq, Repr

/-- The opposite direction. -/
def Direction.flip : Direction → Direction
  | .up => .down
  | .down => .up

/-- +1 or −1. -/
def Direction.sign : Direction → Int
  | .up => 1
  | .down => -1

/-- A channel's mode (R55). -/
inductive Mode where
  | auto | manual
  deriving DecidableEq, Repr

/-- A speed input's edge selection (R3). -/
inductive EdgeSelection where
  | rising | falling | both
  deriving DecidableEq, Repr

/-- The arbiter mode (R129). -/
inductive ArbiterMode where
  | fixed | rotating
  deriving DecidableEq, Repr

/-! ### The two sets -/

/-- A minimum and a maximum in channel units. -/
structure Limits where
  min : Int
  max : Int
  deriving DecidableEq, Repr

/-- The calibration figures of a speed input and its channel (0x020.., 0x025..). -/
structure SpeedCal where
  teeth : Nat
  ratio16 : Nat
  edges : EdgeSelection
  /-- ms (R123) -/
  settleTime : Nat
  /-- ms (R123) -/
  maxDriveTime : Nat
  deriving DecidableEq, Repr

/-- The calibration figures of a positional channel (0x030..). -/
structure PosCal where
  cal16 : Nat
  homeDirection : Direction
  homeValue : Int
  /-- channel units (R108) -/
  deadband : Nat
  /-- counts (R115) -/
  homeTravel : Nat
  /-- ms (R107) -/
  coastTime : Nat
  /-- ms (R111) -/
  stallTime : Nat
  parkValue : Int
  inParkMask : Bool
  deriving DecidableEq, Repr

/-- The calibration, the contents of page 0 (09 9.3). -/
structure Calibration where
  nodeAddress : Byte
  /-- µs (R1) -/
  deadTime : Nat
  gain : PerLoss Nat
  rollZero : Int
  pitchZero : Int
  feedZero : Nat
  feedSpan : Nat
  factory : PerChannel Limits
  speed : PerSpeed SpeedCal
  pos : PerPos PosCal
  deriving DecidableEq, Repr

/-- A symptom's set and clear threshold (R37). -/
structure ThresholdPair where
  setAt : Nat
  clearAt : Nat
  deriving DecidableEq, Repr

/-- One entry of the Trim Table (R82). -/
structure TrimEntry where
  enabled : Bool
  required : Symptom
  excluded : Option Symptom
  channel : Channel
  step : Int
  deriving DecidableEq, Repr

/-- The Feed Restrain's parameters (R45). -/
structure RestrainParams where
  setAt : Nat
  clearAt : Nat
  confirm : Nat
  minHold : Nat
  reduction : Nat
  deriving DecidableEq, Repr

/-- The relief parameters (R144); times in ms. -/
structure ReliefParams where
  enable : Bool
  enterPercent : Nat
  recoverPercent : Nat
  confirmTime : Nat
  recoverTime : Nat
  giveUpTime : Nat
  gap : Int
  deriving DecidableEq, Repr

/-- The Slope Follower's parameters (R90). -/
structure SlopeParams where
  louverGain16 : Int
  louverDeadband : Nat
  louverTrimStep : Nat
  louverTrimMax : Nat
  fanPitchGain16 : Int
  deriving DecidableEq, Repr

/-- A speed channel's approach band and hold band in rpm (R123). -/
structure SpeedBands where
  approach : Nat
  hold : Nat
  deriving DecidableEq, Repr

/-- The preset parameters, the contents of a preset page (09 9.3). -/
structure Preset where
  cropCode : Word
  cropName : List Word
  initialSetpoint : PerChannel Int
  envelope : PerChannel Limits
  initialMode : PerChannel Mode
  /-- W, 0.1 s (R10) -/
  windowLength : Nat
  /-- A (R34) -/
  averagingDepth : Nat
  /-- S (R84) -/
  settleCount : Nat
  /-- s (R62) -/
  holdTime : Nat
  thresholds : PerSymptom ThresholdPair
  restrain : RestrainParams
  relief : ReliefParams
  slope : SlopeParams
  qualityMaxAge : Nat
  qualityMinSamples : Nat
  stint : Nat
  minHarvestSpeed : Nat
  arbiterMode : ArbiterMode
  rank : PerChannel Nat
  bands : PerSpeed SpeedBands
  trimTable : List TrimEntry
  deriving DecidableEq, Repr

/-! ### Names and numbers of the parameters (09 9.3) -/

/-- The calibration parameters. -/
inductive CalParam where
  | nodeAddress | deadTime | gain (i : LossInput) | rollZero | pitchZero | feedZero | feedSpan
  | factoryMin (c : Channel) | factoryMax (c : Channel)
  | teeth (v : SpeedChannel) | ratio16 (v : SpeedChannel) | edges (v : SpeedChannel)
  | settleTime (v : SpeedChannel) | maxDriveTime (v : SpeedChannel)
  | cal16 (p : PosChannel) | homeDirection (p : PosChannel) | homeValue (p : PosChannel) | deadband (p : PosChannel)
  | homeTravel (p : PosChannel) | coastTime (p : PosChannel) | stallTime (p : PosChannel)
  | parkValue (p : PosChannel) | inParkMask (p : PosChannel)
  deriving DecidableEq, Repr

/-- A field of a Trim Table entry. -/
inductive TrimField where
  | enabled | required | excluded | channel | step
  deriving DecidableEq, Repr

/-- The preset parameters. -/
inductive PresetParam where
  | cropCode | cropName (i : Nat) | initialSetpoint (c : Channel) | envelopeMin (c : Channel) | envelopeMax (c : Channel)
  | initialMode (c : Channel) | windowLength | averagingDepth | settleCount | holdTime
  | setThreshold (k : Symptom) | clearThreshold (k : Symptom)
  | restrainSet | restrainClear | restrainConfirm | restrainMinHold | restrainReduction
  | reliefEnable | enterPercent | recoverPercent | confirmTime | recoverTime | giveUpTime | reliefGap
  | louverGain16 | louverDeadband | louverTrimStep | louverTrimMax | fanPitchGain16
  | qualityMaxAge | qualityMinSamples | stint | minHarvestSpeed | arbiterMode | rank (c : Channel)
  | approachBand (v : SpeedChannel) | holdBand (v : SpeedChannel) | trim (i : Nat) (f : TrimField)
  deriving DecidableEq, Repr

/-- A parameter of either set. -/
inductive Param where
  | cal (p : CalParam)
  | preset (p : PresetParam)
  deriving DecidableEq, Repr

/-- The first number of a speed input's five figures. -/
def speedBase : SpeedChannel → Nat
  | .drum => 0x020
  | .fan => 0x025

/-- The first number of a positional channel's nine figures. -/
def posBase : PosChannel → Nat
  | .concave => 0x030
  | .upperSieve => 0x040
  | .lowerSieve => 0x050
  | .louver => 0x060

/-- A calibration parameter's number. -/
def CalParam.number : CalParam → Nat
  | .nodeAddress => 0x000
  | .deadTime => 0x001
  | .gain .left => 0x002
  | .gain .right => 0x003
  | .gain .walker => 0x004
  | .rollZero => 0x005
  | .pitchZero => 0x006
  | .feedZero => 0x007
  | .feedSpan => 0x008
  | .factoryMin c => 0x010 + 2 * c.index
  | .factoryMax c => 0x011 + 2 * c.index
  | .teeth v => speedBase v
  | .ratio16 v => speedBase v + 1
  | .edges v => speedBase v + 2
  | .settleTime v => speedBase v + 3
  | .maxDriveTime v => speedBase v + 4
  | .cal16 p => posBase p
  | .homeDirection p => posBase p + 1
  | .homeValue p => posBase p + 2
  | .deadband p => posBase p + 3
  | .homeTravel p => posBase p + 4
  | .coastTime p => posBase p + 5
  | .stallTime p => posBase p + 6
  | .parkValue p => posBase p + 7
  | .inParkMask p => posBase p + 8

/-- A Trim Table field's offset in its entry. -/
def TrimField.offset : TrimField → Nat
  | .enabled => 0
  | .required => 1
  | .excluded => 2
  | .channel => 3
  | .step => 4

/-- A preset parameter's number. -/
def PresetParam.number : PresetParam → Nat
  | .cropCode => 0x100
  | .cropName i => 0x101 + i
  | .initialSetpoint c => 0x110 + c.index
  | .envelopeMin c => 0x118 + 2 * c.index
  | .envelopeMax c => 0x119 + 2 * c.index
  | .initialMode c => 0x128 + c.index
  | .windowLength => 0x130
  | .averagingDepth => 0x131
  | .settleCount => 0x132
  | .holdTime => 0x133
  | .setThreshold k => 0x140 + 2 * k.index
  | .clearThreshold k => 0x141 + 2 * k.index
  | .restrainSet => 0x150
  | .restrainClear => 0x151
  | .restrainConfirm => 0x152
  | .restrainMinHold => 0x153
  | .restrainReduction => 0x154
  | .reliefEnable => 0x158
  | .enterPercent => 0x159
  | .recoverPercent => 0x15A
  | .confirmTime => 0x15B
  | .recoverTime => 0x15C
  | .giveUpTime => 0x15D
  | .reliefGap => 0x15E
  | .louverGain16 => 0x160
  | .louverDeadband => 0x161
  | .louverTrimStep => 0x162
  | .louverTrimMax => 0x163
  | .fanPitchGain16 => 0x164
  | .qualityMaxAge => 0x168
  | .qualityMinSamples => 0x169
  | .stint => 0x16A
  | .minHarvestSpeed => 0x16B
  | .arbiterMode => 0x170
  | .rank c => 0x171 + c.index
  | .approachBand .drum => 0x178
  | .holdBand .drum => 0x179
  | .approachBand .fan => 0x17A
  | .holdBand .fan => 0x17B
  | .trim i f => 0x200 + 8 * i + f.offset

/-- The calibration parameters in the order of their numbers. -/
def CalParam.all : List CalParam :=
  [.nodeAddress, .deadTime] ++ LossInput.all.map .gain ++ [.rollZero, .pitchZero, .feedZero, .feedSpan]
    ++ Channel.all.flatMap (fun c => [.factoryMin c, .factoryMax c])
    ++ SpeedChannel.all.flatMap (fun v => [.teeth v, .ratio16 v, .edges v, .settleTime v, .maxDriveTime v])
    ++ PosChannel.all.flatMap (fun p => [.cal16 p, .homeDirection p, .homeValue p, .deadband p, .homeTravel p,
        .coastTime p, .stallTime p, .parkValue p, .inParkMask p])

/-- The preset parameters in the order of their numbers. -/
def PresetParam.all : List PresetParam :=
  [.cropCode] ++ (List.range 6).map .cropName ++ Channel.all.map .initialSetpoint
    ++ Channel.all.flatMap (fun c => [.envelopeMin c, .envelopeMax c]) ++ Channel.all.map .initialMode
    ++ [.windowLength, .averagingDepth, .settleCount, .holdTime]
    ++ Symptom.all.flatMap (fun k => [.setThreshold k, .clearThreshold k])
    ++ [.restrainSet, .restrainClear, .restrainConfirm, .restrainMinHold, .restrainReduction]
    ++ [.reliefEnable, .enterPercent, .recoverPercent, .confirmTime, .recoverTime, .giveUpTime, .reliefGap]
    ++ [.louverGain16, .louverDeadband, .louverTrimStep, .louverTrimMax, .fanPitchGain16]
    ++ [.qualityMaxAge, .qualityMinSamples, .stint, .minHarvestSpeed, .arbiterMode] ++ Channel.all.map .rank
    ++ SpeedChannel.all.flatMap (fun v => [.approachBand v, .holdBand v])
    ++ (List.range 16).flatMap (fun i => [.trim i .enabled, .trim i .required, .trim i .excluded, .trim i .channel,
        .trim i .step])

/-- The parameter of a number, none where the number is not defined (09 9.3 note 1). -/
def Param.ofNumber (n : Nat) : Option Param :=
  match CalParam.all.find? (fun p => p.number = n) with
  | some p => some (.cal p)
  | none => (PresetParam.all.find? (fun p => p.number = n)).map .preset

/-! ### Ranges (09 9.3 note 3 and the tables of the chapters) -/

/-- A parameter's range. `choice`: the parameter names one of a set of choices and is refused outside it, not clamped (R164). -/
structure ParamRange where
  lo : Int
  hi : Int
  choice : Bool
  deriving DecidableEq, Repr

/-- A range to which a written value is clamped. -/
def ParamRange.clamped (lo hi : Int) : ParamRange := ⟨lo, hi, false⟩

/-- A set of choices, numbered lo..hi. -/
def ParamRange.choices (lo hi : Int) : ParamRange := ⟨lo, hi, true⟩

/-- Setpoints, limits and envelope ends of a channel (09 9.3 note 3; envelope ends: assumption 11). -/
def ParamRange.ofChannel (c : Channel) : ParamRange :=
  match c.kind with
  | .speed _ => .clamped 0 4095
  | .positional _ => .clamped (-1000) 1000

/-- A calibration parameter's range. -/
def CalParam.range : CalParam → ParamRange
  | .nodeAddress => .clamped 0x01 0xFE
  | .deadTime => .clamped 50 2000
  | .gain _ => .clamped 1 255
  | .rollZero | .pitchZero => .clamped (-50) 50
  | .feedZero => .clamped 0 500
  | .feedSpan => .clamped 100 900
  | .factoryMin c | .factoryMax c => .ofChannel c
  | .teeth _ => .clamped 1 255
  | .ratio16 _ => .clamped 1 1023
  | .edges _ => .choices 0 2
  | .settleTime _ => .clamped 50 2000
  | .maxDriveTime _ => .clamped 500 10000
  | .cal16 _ => .clamped 1 1024
  | .homeDirection _ => .choices 0 1
  | .homeValue _ | .parkValue _ => .clamped (-1000) 1000
  | .deadband _ => .clamped 1 50
  | .homeTravel _ => .clamped 100 65535
  | .coastTime _ => .clamped 20 500
  | .stallTime _ => .clamped 100 2000
  | .inParkMask _ => .choices 0 1

/-- A symptom's set threshold range; the clear threshold's is one lower at both ends (R37). -/
def setThresholdTop : Symptom → Int
  | .sieveLoss | .walkerLoss => 65535
  | .tailingsHigh | .drumDroop | .sideImbalance | .grainDirty | .grainBroken => 1000

/-- A preset parameter's range. -/
def PresetParam.range : PresetParam → ParamRange
  | .cropCode | .cropName _ => .clamped 0 65535
  | .initialSetpoint c | .envelopeMin c | .envelopeMax c => .ofChannel c
  | .initialMode _ => .choices 0 1
  | .windowLength => .clamped 5 100
  | .averagingDepth => .clamped 1 8
  | .settleCount => .clamped 2 30
  | .holdTime => .clamped 0 600
  | .setThreshold k => .clamped 1 (setThresholdTop k)
  | .clearThreshold k => .clamped 0 (setThresholdTop k - 1)
  | .restrainSet => .clamped 100 1000
  | .restrainClear => .clamped 0 999
  | .restrainConfirm => .clamped 1 4
  | .restrainMinHold => .clamped 1 30
  | .restrainReduction => .clamped 50 500
  | .reliefEnable => .choices 0 1
  | .enterPercent => .clamped 50 90
  | .recoverPercent => .clamped 0 98
  | .confirmTime => .clamped 100 2000
  | .recoverTime => .clamped 500 10000
  | .giveUpTime => .clamped 5000 60000
  | .reliefGap => .clamped 0 1000
  | .louverGain16 | .fanPitchGain16 => .clamped (-64) 64
  | .louverDeadband => .clamped 1 50
  | .louverTrimStep => .clamped 1 20
  | .louverTrimMax => .clamped 0 150
  | .qualityMaxAge => .clamped 1 20
  | .qualityMinSamples => .clamped 1 500
  | .stint => .clamped 5 500
  | .minHarvestSpeed => .clamped 0 100
  | .arbiterMode => .choices 0 1
  | .rank _ => .clamped 0 5
  | .approachBand _ => .clamped 5 25
  | .holdBand _ => .clamped 30 200
  | .trim _ .enabled => .choices 0 1
  | .trim _ .required => .choices 0 6
  | .trim _ .excluded => .choices (-1) 6
  | .trim _ .channel => .choices 0 4
  | .trim _ .step => .clamped (-255) 255

/-- The value a 16-bit field gives a parameter: u16 where the range has no negative values, otherwise s16 (09 9.3 note 2). -/
def ParamRange.read (r : ParamRange) (w : Word) : Int := if r.lo < 0 then w.toInt else (w.toNat : Int)

/-- A value brought into its range, none where a choice lies outside (R164). -/
def ParamRange.accept (r : ParamRange) (v : Int) : Option Int :=
  if r.choice then (if r.lo ≤ v ∧ v ≤ r.hi then some v else none) else some (clamp r.lo r.hi v)

/-! ### Reading and writing a set by parameter -/

/-- 1 for YES, 0 for NO. -/
def ofFlag (b : Bool) : Int := if b then 1 else 0

/-- The code of a direction: 0 RETRACT, 1 EXTEND. -/
def Direction.code : Direction → Int
  | .down => 0
  | .up => 1

/-- The direction of a code. -/
def Direction.ofCode (n : Int) : Direction := if n = 0 then .down else .up

/-- The code of an edge selection. -/
def EdgeSelection.code : EdgeSelection → Int
  | .rising => 0
  | .falling => 1
  | .both => 2

/-- The edge selection of a code. -/
def EdgeSelection.ofCode (n : Int) : EdgeSelection := if n = 0 then .rising else if n = 1 then .falling else .both

/-- The code of a mode: 0 MANUAL, 1 AUTO. -/
def Mode.code : Mode → Int
  | .manual => 0
  | .auto => 1

/-- The mode of a code. -/
def Mode.ofCode (n : Int) : Mode := if n = 0 then .manual else .auto

/-- The code of an arbiter mode: 0 FIXED, 1 ROTATING (R129). -/
def ArbiterMode.code : ArbiterMode → Int
  | .fixed => 0
  | .rotating => 1

/-- The arbiter mode of a code. -/
def ArbiterMode.ofCode (n : Int) : ArbiterMode := if n = 0 then .fixed else .rotating

/-- A calibration parameter's value. -/
def Calibration.get (s : Calibration) : CalParam → Int
  | .nodeAddress => (s.nodeAddress.toNat : Int)
  | .deadTime => s.deadTime
  | .gain i => s.gain.get i
  | .rollZero => s.rollZero
  | .pitchZero => s.pitchZero
  | .feedZero => s.feedZero
  | .feedSpan => s.feedSpan
  | .factoryMin c => (s.factory.get c).min
  | .factoryMax c => (s.factory.get c).max
  | .teeth v => (s.speed.get v).teeth
  | .ratio16 v => (s.speed.get v).ratio16
  | .edges v => (s.speed.get v).edges.code
  | .settleTime v => (s.speed.get v).settleTime
  | .maxDriveTime v => (s.speed.get v).maxDriveTime
  | .cal16 p => (s.pos.get p).cal16
  | .homeDirection p => (s.pos.get p).homeDirection.code
  | .homeValue p => (s.pos.get p).homeValue
  | .deadband p => (s.pos.get p).deadband
  | .homeTravel p => (s.pos.get p).homeTravel
  | .coastTime p => (s.pos.get p).coastTime
  | .stallTime p => (s.pos.get p).stallTime
  | .parkValue p => (s.pos.get p).parkValue
  | .inParkMask p => ofFlag (s.pos.get p).inParkMask

/-- The calibration with one parameter replaced. -/
def Calibration.put (s : Calibration) (param : CalParam) (n : Int) : Calibration :=
  let speed := fun v (f : SpeedCal → SpeedCal) => { s with speed := s.speed.set v (f (s.speed.get v)) }
  let pos := fun p (f : PosCal → PosCal) => { s with pos := s.pos.set p (f (s.pos.get p)) }
  match param with
  | .nodeAddress => { s with nodeAddress := BitVec.ofInt 8 n }
  | .deadTime => { s with deadTime := n.toNat }
  | .gain i => { s with gain := s.gain.set i n.toNat }
  | .rollZero => { s with rollZero := n }
  | .pitchZero => { s with pitchZero := n }
  | .feedZero => { s with feedZero := n.toNat }
  | .feedSpan => { s with feedSpan := n.toNat }
  | .factoryMin c => { s with factory := s.factory.set c { s.factory.get c with min := n } }
  | .factoryMax c => { s with factory := s.factory.set c { s.factory.get c with max := n } }
  | .teeth v => speed v fun f => { f with teeth := n.toNat }
  | .ratio16 v => speed v fun f => { f with ratio16 := n.toNat }
  | .edges v => speed v fun f => { f with edges := .ofCode n }
  | .settleTime v => speed v fun f => { f with settleTime := n.toNat }
  | .maxDriveTime v => speed v fun f => { f with maxDriveTime := n.toNat }
  | .cal16 p => pos p fun f => { f with cal16 := n.toNat }
  | .homeDirection p => pos p fun f => { f with homeDirection := .ofCode n }
  | .homeValue p => pos p fun f => { f with homeValue := n }
  | .deadband p => pos p fun f => { f with deadband := n.toNat }
  | .homeTravel p => pos p fun f => { f with homeTravel := n.toNat }
  | .coastTime p => pos p fun f => { f with coastTime := n.toNat }
  | .stallTime p => pos p fun f => { f with stallTime := n.toNat }
  | .parkValue p => pos p fun f => { f with parkValue := n }
  | .inParkMask p => pos p fun f => { f with inParkMask := n ≠ 0 }

/-- The disabled Trim Table entry of R83's indexes 6 to 15. -/
def TrimEntry.unused : TrimEntry := ⟨false, .sieveLoss, none, .drum, 1⟩

/-- A Trim Table entry's field as a parameter value; an absent excluded symptom is −1 (R82). -/
def TrimEntry.get (e : TrimEntry) : TrimField → Int
  | .enabled => ofFlag e.enabled
  | .required => e.required.index
  | .excluded => match e.excluded with
    | none => -1
    | some k => k.index
  | .channel => e.channel.index
  | .step => e.step

/-- A Trim Table entry with one field replaced. -/
def TrimEntry.put (e : TrimEntry) (f : TrimField) (n : Int) : TrimEntry :=
  match f with
  | .enabled => { e with enabled := n ≠ 0 }
  | .required => { e with required := (Symptom.ofCode n.toNat).getD e.required }
  | .excluded => { e with excluded := if n < 0 then none else Symptom.ofCode n.toNat }
  | .channel => { e with channel := (Channel.ofCode n.toNat).getD e.channel }
  | .step => { e with step := n }

/-- Entry i of a preset's Trim Table. -/
def Preset.trimEntry (s : Preset) (i : Nat) : TrimEntry := s.trimTable.getD i .unused

/-- A preset parameter's value. -/
def Preset.get (s : Preset) : PresetParam → Int
  | .cropCode => (s.cropCode.toNat : Int)
  | .cropName i => ((s.cropName.getD i 0).toNat : Int)
  | .initialSetpoint c => s.initialSetpoint.get c
  | .envelopeMin c => (s.envelope.get c).min
  | .envelopeMax c => (s.envelope.get c).max
  | .initialMode c => (s.initialMode.get c).code
  | .windowLength => s.windowLength
  | .averagingDepth => s.averagingDepth
  | .settleCount => s.settleCount
  | .holdTime => s.holdTime
  | .setThreshold k => (s.thresholds.get k).setAt
  | .clearThreshold k => (s.thresholds.get k).clearAt
  | .restrainSet => s.restrain.setAt
  | .restrainClear => s.restrain.clearAt
  | .restrainConfirm => s.restrain.confirm
  | .restrainMinHold => s.restrain.minHold
  | .restrainReduction => s.restrain.reduction
  | .reliefEnable => ofFlag s.relief.enable
  | .enterPercent => s.relief.enterPercent
  | .recoverPercent => s.relief.recoverPercent
  | .confirmTime => s.relief.confirmTime
  | .recoverTime => s.relief.recoverTime
  | .giveUpTime => s.relief.giveUpTime
  | .reliefGap => s.relief.gap
  | .louverGain16 => s.slope.louverGain16
  | .louverDeadband => s.slope.louverDeadband
  | .louverTrimStep => s.slope.louverTrimStep
  | .louverTrimMax => s.slope.louverTrimMax
  | .fanPitchGain16 => s.slope.fanPitchGain16
  | .qualityMaxAge => s.qualityMaxAge
  | .qualityMinSamples => s.qualityMinSamples
  | .stint => s.stint
  | .minHarvestSpeed => s.minHarvestSpeed
  | .arbiterMode => s.arbiterMode.code
  | .rank c => s.rank.get c
  | .approachBand v => (s.bands.get v).approach
  | .holdBand v => (s.bands.get v).hold
  | .trim i f => (s.trimEntry i).get f

/-- The preset set with one parameter replaced. -/
def Preset.put (s : Preset) (param : PresetParam) (n : Int) : Preset :=
  match param with
  | .cropCode => { s with cropCode := BitVec.ofInt 16 n }
  | .cropName i => { s with cropName := s.cropName.set i (BitVec.ofInt 16 n) }
  | .initialSetpoint c => { s with initialSetpoint := s.initialSetpoint.set c n }
  | .envelopeMin c => { s with envelope := s.envelope.set c { s.envelope.get c with min := n } }
  | .envelopeMax c => { s with envelope := s.envelope.set c { s.envelope.get c with max := n } }
  | .initialMode c => { s with initialMode := s.initialMode.set c (.ofCode n) }
  | .windowLength => { s with windowLength := n.toNat }
  | .averagingDepth => { s with averagingDepth := n.toNat }
  | .settleCount => { s with settleCount := n.toNat }
  | .holdTime => { s with holdTime := n.toNat }
  | .setThreshold k => { s with thresholds := s.thresholds.set k { s.thresholds.get k with setAt := n.toNat } }
  | .clearThreshold k => { s with thresholds := s.thresholds.set k { s.thresholds.get k with clearAt := n.toNat } }
  | .restrainSet => { s with restrain := { s.restrain with setAt := n.toNat } }
  | .restrainClear => { s with restrain := { s.restrain with clearAt := n.toNat } }
  | .restrainConfirm => { s with restrain := { s.restrain with confirm := n.toNat } }
  | .restrainMinHold => { s with restrain := { s.restrain with minHold := n.toNat } }
  | .restrainReduction => { s with restrain := { s.restrain with reduction := n.toNat } }
  | .reliefEnable => { s with relief := { s.relief with enable := n ≠ 0 } }
  | .enterPercent => { s with relief := { s.relief with enterPercent := n.toNat } }
  | .recoverPercent => { s with relief := { s.relief with recoverPercent := n.toNat } }
  | .confirmTime => { s with relief := { s.relief with confirmTime := n.toNat } }
  | .recoverTime => { s with relief := { s.relief with recoverTime := n.toNat } }
  | .giveUpTime => { s with relief := { s.relief with giveUpTime := n.toNat } }
  | .reliefGap => { s with relief := { s.relief with gap := n } }
  | .louverGain16 => { s with slope := { s.slope with louverGain16 := n } }
  | .louverDeadband => { s with slope := { s.slope with louverDeadband := n.toNat } }
  | .louverTrimStep => { s with slope := { s.slope with louverTrimStep := n.toNat } }
  | .louverTrimMax => { s with slope := { s.slope with louverTrimMax := n.toNat } }
  | .fanPitchGain16 => { s with slope := { s.slope with fanPitchGain16 := n } }
  | .qualityMaxAge => { s with qualityMaxAge := n.toNat }
  | .qualityMinSamples => { s with qualityMinSamples := n.toNat }
  | .stint => { s with stint := n.toNat }
  | .minHarvestSpeed => { s with minHarvestSpeed := n.toNat }
  | .arbiterMode => { s with arbiterMode := .ofCode n }
  | .rank c => { s with rank := s.rank.set c n.toNat }
  | .approachBand v => { s with bands := s.bands.set v { s.bands.get v with approach := n.toNat } }
  | .holdBand v => { s with bands := s.bands.set v { s.bands.get v with hold := n.toNat } }
  | .trim i f => { s with trimTable := s.trimTable.set i ((s.trimEntry i).put f n) }

/-! ### Orders between parameters (R164, R82) -/

/-- The addresses of the other nodes, which the part may not take (R164, 10 10.1). -/
def takenAddresses : List Byte := [cabAddress, propulsionAddress, qualityAddress, serviceAddress]

/-- What R164 requires of a calibration beside its ranges, for the parameter written. -/
def Calibration.ordered (s : Calibration) : CalParam → Bool
  | .factoryMin c | .factoryMax c => (s.factory.get c).min ≤ (s.factory.get c).max
  | .nodeAddress => !takenAddresses.contains s.nodeAddress
  | _ => true

/-- What R82 requires of a Trim Table entry: a step that is not 0 and an excluded symptom other than the required one. -/
def TrimEntry.ordered (e : TrimEntry) : Bool := e.step ≠ 0 && e.excluded ≠ some e.required

/-- What R164 and R82 require of a preset set beside its ranges, for the parameter written. -/
def Preset.ordered (s : Preset) : PresetParam → Bool
  | .setThreshold k | .clearThreshold k => (s.thresholds.get k).clearAt < (s.thresholds.get k).setAt
  | .restrainSet | .restrainClear => s.restrain.clearAt < s.restrain.setAt
  | .envelopeMin c | .envelopeMax c => (s.envelope.get c).min ≤ (s.envelope.get c).max
  | .enterPercent | .recoverPercent => s.relief.enterPercent < s.relief.recoverPercent
  | .trim i _ => (s.trimEntry i).ordered
  | _ => true

/-- The calibration after a PARAM_WRITE of value v, none where R164 refuses it with INCONSISTENT. -/
def Calibration.write (s : Calibration) (p : CalParam) (v : Int) : Option Calibration :=
  match p.range.accept v with
  | none => none
  | some n => let s' := s.put p n; if s'.ordered p then some s' else none

/-- The preset set after a PARAM_WRITE of value v, none where R164 refuses it with INCONSISTENT. -/
def Preset.write (s : Preset) (p : PresetParam) (v : Int) : Option Preset :=
  match p.range.accept v with
  | none => none
  | some n => let s' := s.put p n; if s'.ordered p then some s' else none

/-! ### Defaults -/

/-- The factory limits of the default calibration (00_scope section 4). -/
def defaultFactory : PerChannel Limits where
  drum := ⟨250, 1400⟩
  concave := ⟨30, 450⟩
  upperSieve := ⟨0, 220⟩
  lowerSieve := ⟨0, 180⟩
  fan := ⟨350, 1300⟩
  louver := ⟨-250, 250⟩

/-- A default positional channel: home at its factory minimum in RETRACT (R169); cal16 of the worked cases (assumption 10). -/
def defaultPos (cal16 : Nat) (homeValue : Int) (deadband : Nat) (parkValue : Int) (inParkMask : Bool) : PosCal where
  cal16 := cal16
  homeDirection := .down
  homeValue := homeValue
  deadband := deadband
  homeTravel := 4000
  coastTime := 120
  stallTime := 400
  parkValue := parkValue
  inParkMask := inParkMask

/-- The default calibration (R169). -/
def Calibration.default : Calibration where
  nodeAddress := 0x44
  deadTime := 300
  gain := .const 64
  rollZero := 0
  pitchZero := 0
  feedZero := 200
  feedSpan := 600
  factory := defaultFactory
  speed := { drum := ⟨4, 24, .rising, 300, 4000⟩, fan := ⟨2, 16, .rising, 300, 4000⟩ }
  pos := { concave := defaultPos 64 30 3 250 true, upperSieve := defaultPos 30 0 3 100 false,
           lowerSieve := defaultPos 30 0 3 80 false, louver := defaultPos 32 (-250) 5 0 true }

/-- The Trim Table of the fallback preset (R83). -/
def defaultTrimTable : List TrimEntry :=
  [⟨true, .grainBroken, none, .drum, -30⟩, ⟨true, .walkerLoss, some .grainBroken, .concave, -10⟩,
   ⟨true, .grainDirty, some .sieveLoss, .fan, 30⟩, ⟨true, .sieveLoss, some .grainDirty, .upperSieve, 10⟩,
   ⟨true, .tailingsHigh, some .grainDirty, .lowerSieve, 10⟩, ⟨true, .grainDirty, none, .upperSieve, -10⟩]
    ++ List.replicate 10 .unused

/-- The fallback preset, its envelopes equal to the factory limits given (R169 step 3). -/
def Preset.fallback (factory : PerChannel Limits) : Preset where
  cropCode := 0
  cropName := List.replicate 6 0
  initialSetpoint := { drum := 850, concave := 140, upperSieve := 120, lowerSieve := 80, fan := 1050, louver := 0 }
  envelope := factory
  initialMode := .const .manual
  windowLength := 20
  averagingDepth := 3
  settleCount := 6
  holdTime := 120
  thresholds := { sieveLoss := ⟨1200, 900⟩, walkerLoss := ⟨600, 400⟩, tailingsHigh := ⟨350, 200⟩, drumDroop := ⟨60, 30⟩,
                  sideImbalance := ⟨300, 150⟩, grainDirty := ⟨25, 15⟩, grainBroken := ⟨20, 12⟩ }
  restrain := ⟨600, 400, 2, 3, 200⟩
  relief := ⟨true, 75, 92, 300, 2000, 20000, 350⟩
  slope := ⟨12, 10, 5, 60, 40⟩
  qualityMaxAge := 5
  qualityMinSamples := 50
  stint := 40
  minHarvestSpeed := 15
  arbiterMode := .fixed
  rank := { drum := 1, concave := 0, upperSieve := 3, lowerSieve := 4, fan := 2, louver := 5 }
  bands := .const ⟨15, 30⟩
  trimTable := defaultTrimTable

/-- The preset rank list: the channels by rank, lowest first, equal ranks by channel number (R129). -/
def Preset.rankList (s : Preset) : List Channel :=
  (List.range 6).flatMap fun r => Channel.all.filter fun c => s.rank.get c = r

/-- A preset set with every envelope clamped to the factory limits (R59, R165 step 1, R169 step 3). -/
def Preset.clampEnvelopes (s : Preset) (factory : PerChannel Limits) : Preset :=
  { s with envelope := .build fun c =>
      ⟨clamp (factory.get c).min (factory.get c).max (s.envelope.get c).min,
       clamp (factory.get c).min (factory.get c).max (s.envelope.get c).max⟩ }

end Sys2Proof.Machine
end

