-- ==== Sys2Proof/Machine/Pages.lean ====
section
/-! DEFINITION. The nonvolatile store as memory (09 9.1, R158): 18 pages of 512 bytes, page p at byte addresses
512·p to 512·p + 511, each read as 256 little-endian words; and the contents of its pages (R161, R162, R166).
Which word of a page holds which figure is not in the spec: the layout is the model's (assumption 7). -/

namespace Sys2Proof.Machine

/-! ### The memory -/

/-- The store's bytes: rising addresses, no byte equal to the erased value. -/
abbrev Memory := List Host.Cell

/-- What an unlisted address reads as: the erased value (R158: an EMPTY page reads 0xFFFF in every word). -/
def erasedByte : Byte := 0xFF

/-- The number of pages (09 9.1). -/
def pageCount : Nat := 18

/-- The bytes of a page. -/
def pageBytes : Nat := 512

/-- The words of a page. -/
def pageWords : Nat := 256

/-- The bytes of the store. -/
def storeBytes : Nat := pageCount * pageBytes

/-- The canonical form of the store. -/
abbrev Memory.wf (m : Memory) : Prop :=
  m.Pairwise (fun a b => a.1 < b.1) ∧ ∀ c ∈ m, c.2 ≠ erasedByte ∧ c.1 < storeBytes

/-- The byte at an address. -/
def Memory.byte (m : Memory) (address : Nat) : Byte :=
  match m.find? (fun c => c.1 = address) with
  | some c => c.2
  | none => erasedByte

/-- Word i of a page, little-endian (09 9.1). -/
def Memory.word (m : Memory) (page i : Nat) : Word :=
  Word.ofBytes (m.byte (page * pageBytes + 2 * i)) (m.byte (page * pageBytes + 2 * i + 1))

/-- The 256 words of a page. -/
def Memory.page (m : Memory) (page : Nat) : List Word :=
  let cells := m.filter (fun c => page * pageBytes ≤ c.1 && c.1 < (page + 1) * pageBytes)
  (List.range pageWords).map (Memory.word cells page)

/-- Byte k of a page's words; a word that is not given reads erased. -/
def byteOfWords (words : List Word) (k : Nat) : Byte :=
  let w := words.getD (k / 2) 0xFFFF
  if k % 2 = 0 then w.low else w.high

/-- The cells of a page that reads the words given. -/
def pageCells (page : Nat) (words : List Word) : Memory :=
  ((List.range pageBytes).map fun k => (page * pageBytes + k, byteOfWords words k)).filter (fun c => c.2 ≠ erasedByte)

/-- The store with one page reading the words given: the one operation that changes the store. A page that does not
exist is left alone. -/
def Memory.setPage (m : Memory) (page : Nat) (words : List Word) : Memory :=
  if page < pageCount then
    m.filter (fun c => c.1 < page * pageBytes) ++ pageCells page words
      ++ m.filter (fun c => (page + 1) * pageBytes ≤ c.1)
  else m

/-- The words of an erased page. -/
def erasedWords : List Word := List.replicate pageWords 0xFFFF

/-! ### The page states (R158) -/

/-- A page state. -/
inductive PageState where
  | empty | valid | damaged
  deriving DecidableEq, Repr

/-- The word of page 0 that LOCK_CAL programs (R162); its place is the model's (assumption 7). -/
def lockWordIndex : Nat := 254

/-- The lock mark that LOCK_CAL programs; its value is the model's (assumption 7). -/
def lockMarkWord : Word := 0x0000

/-- The words that enter a page's sum: all but the last, the lock word of page 0 as 0xFFFF (R158). -/
def summedWords (page : Nat) (words : List Word) : List Word :=
  (if page = 0 then words.set lockWordIndex 0xFFFF else words).take (pageWords - 1)

/-- The check value of a page: the low 16 bits of the sum of its other 255 words plus 0x5A5A (R158). -/
def checkValue (page : Nat) (words : List Word) : Word :=
  BitVec.ofNat 16 ((summedWords page words).foldl (fun n w => n + w.toNat) 0 + 0x5A5A)

/-- The state of a page that reads the words given (R158). -/
def judgePage (page : Nat) (words : List Word) : PageState :=
  if words.all (· = 0xFFFF) then .empty
  else if words.getD (pageWords - 1) 0xFFFF = checkValue page words then .valid
  else .damaged

/-- The states of all pages, as start-up reads them (R158, R169 step 1). -/
def Memory.judge (m : Memory) : List PageState := (List.range pageCount).map fun p => judgePage p (m.page p)

/-- A page image: the contents, erased words up to the last, and the check value. -/
def pageImage (page : Nat) (contents : List Word) : List Word :=
  let body := (contents ++ List.replicate (pageWords - 1) 0xFFFF).take (pageWords - 1)
  body ++ [checkValue page body]

/-- What a page reads after an interrupted operation: a free value kept to DAMAGED or EMPTY, the limit R159 sets. -/
def tornWords (page k : Nat) : List Word :=
  let words := (Config.tornPage k ++ erasedWords).take pageWords
  if judgePage page words = .valid then erasedWords else words

/-! ### The contents of the calibration and preset pages -/

/-- A value as a store word. -/
def wordOf (v : Int) : Word := BitVec.ofInt 16 v

/-- The page of a calibration, the lock word left erased (R162 SAVE_CAL). -/
def calibrationPage (s : Calibration) : List Word := pageImage 0 (CalParam.all.map fun p => wordOf (s.get p))

/-- The page of a slot: slot n lies in page n + 2. -/
def slotPage (slot : Nat) : Nat := slot + 2

/-- The page of a preset set (R161 SAVE). -/
def presetPage (page : Nat) (s : Preset) : List Word := pageImage page (PresetParam.all.map fun p => wordOf (s.get p))

/-- The value stored for a parameter, none for a choice outside its choices (R160 check 10). -/
def storedValue (r : ParamRange) (w : Word) : Option Int := r.accept (r.read w)

/-- A calibration whose parameters keep the orders of R164: factory limits out of order are taken from the default, and so is a node
address that another node has (assumption 12). -/
def Calibration.repair (s : Calibration) : Calibration :=
  { s with
    nodeAddress := if takenAddresses.contains s.nodeAddress then Calibration.default.nodeAddress else s.nodeAddress
    factory := .build fun c =>
      if (s.factory.get c).min ≤ (s.factory.get c).max then s.factory.get c else defaultFactory.get c }

/-- The calibration a page holds: values clamped to their ranges, a choice outside its choices taken from the default, the orders of
R164 kept (assumption 12). -/
def readCalibration (words : List Word) : Calibration :=
  ((CalParam.all.zipIdx).foldl (fun s p =>
    match storedValue p.1.range (words.getD p.2 0xFFFF) with
    | some n => s.put p.1 n
    | none => s) Calibration.default).repair

/-- A preset set with one parameter taken from a page, none where check 10 of R160 refuses the value. -/
def takeStored (words : List Word) (s : Option Preset) (p : PresetParam × Nat) : Option Preset :=
  match s, storedValue p.1.range (words.getD p.2 0xFFFF) with
  | some t, some n => some (t.put p.1 n)
  | _, _ => none

/-- The preset set a page holds, each value clamped to its range; none where check 10 of R160 refuses it. -/
def readPreset (words : List Word) : Option Preset :=
  match PresetParam.all.zipIdx.foldl (takeStored words) (some (Preset.fallback defaultFactory)) with
  | some t => if PresetParam.all.all (fun p => t.ordered p) then some t else none
  | none => none

/-! ### The position record (R166) -/

/-- Who last committed a setpoint (R55). -/
inductive Origin where
  | service | operator | preset | trim | follow
  deriving DecidableEq, Repr

/-- An origin's code (10 10.6). -/
def Origin.code : Origin → Nat
  | .service => 0
  | .operator => 1
  | .preset => 2
  | .trim => 3
  | .follow => 4

/-- The origin of a code. The record is written with 0..4 only; that any other word reads as PRESET is the model's choice
(assumption 48). -/
def Origin.ofCode : Nat → Origin
  | 0 => .service
  | 1 => .operator
  | 3 => .trim
  | 4 => .follow
  | _ => .preset

/-- The content of page 1 (R166). -/
structure PositionRecord where
  number : Nat
  slot : Option Nat
  position : PerPos Int
  referenced : PerPos Bool
  setpoint : PerChannel Int
  origin : PerChannel Origin
  deriving DecidableEq, Repr

/-- The page of a position record. -/
def recordPage (r : PositionRecord) : List Word :=
  pageImage 1
    ([BitVec.ofNat 16 r.number, BitVec.ofNat 16 (r.number / 65536), match r.slot with
        | none => 0xFFFF
        | some n => BitVec.ofNat 16 n]
      ++ PosChannel.all.map (fun p => wordOf (r.position.get p))
      ++ PosChannel.all.map (fun p => wordOf (ofFlag (r.referenced.get p)))
      ++ Channel.all.map (fun c => wordOf (r.setpoint.get c))
      ++ Channel.all.map (fun c => BitVec.ofNat 16 (r.origin.get c).code))

/-- The place of a positional channel among the positional channels. -/
def PosChannel.place : PosChannel → Nat
  | .concave => 0
  | .upperSieve => 1
  | .lowerSieve => 2
  | .louver => 3

/-- The position record that page 1 holds. What a VALID page of values out of range gives is the model's choice: a slot word of 16
or more is no slot, a referenced word other than 1 is clear, and a record number of 0 stands (assumption 48). -/
def readRecord (words : List Word) : PositionRecord :=
  let w := fun i => words.getD i 0xFFFF
  { number := (w 0).toNat + 65536 * (w 1).toNat
    slot := if (w 2).toNat < 16 then some (w 2).toNat else none
    position := .build fun p => (w (3 + PosChannel.place p)).toInt
    referenced := .build fun p => w (7 + PosChannel.place p) = 1
    setpoint := .build fun c => (w (11 + c.index)).toInt
    origin := .build fun c => .ofCode (w (17 + c.index)).toNat }

end Sys2Proof.Machine
end

