-- ==== Sys2Proof/Machine/State.lean ====
section
/-! DEFINITION. The state: `Part` holds what the spec gives the part, block by block (00_scope section 3), and
`State` adds the queue of waiting commands. Times are µs on the part's 1 µs timebase; a running timer is held as the
time at which it runs out. -/

namespace Sys2Proof.Machine

/-! ### Sensor Capture (chapter 1) -/

/-- One loss input's accumulators (R1, R2). -/
structure LossCapture where
  hits : Nat
  doubleHits : Nat
  saturated : Bool
  lastHit : Option Nat
  deriving DecidableEq, Repr

/-- One speed input's accumulators and timing (R3 to R5). -/
structure SpeedCapture where
  count : Nat
  periodSum : Nat
  lastEdge : Option Nat
  rpm : Nat
  deriving DecidableEq, Repr

/-- A PWM period that has opened: its rising edge, its first falling edge and how many falling edges it has (R6). -/
structure OpenPwm where
  rise : Nat
  fall : Nat
  falls : Nat
  deriving DecidableEq, Repr

/-- One PWM input's sums and open period (R6). -/
structure PwmCapture where
  sumHigh : Nat
  sumTotal : Nat
  opened : Option OpenPwm
  deriving DecidableEq, Repr

/-- The tailings gate (R7): the time since which it is open, the tail-active ms, the carried part-millisecond in µs. -/
structure TailGate where
  openSince : Option Nat
  activeMs : Nat
  carry : Nat
  deriving DecidableEq, Repr

/-- Sensor Capture. -/
structure Capture where
  loss : PerLoss LossCapture
  speed : PerSpeed SpeedCapture
  pwm : PerPwm PwmCapture
  tail : TailGate
  /-- The separator state is ENGAGED (R8). -/
  engaged : Bool
  /-- The 50 ms qualification of a new SEP level (R8). -/
  sepQualifyAt : Option Nat
  deriving DecidableEq, Repr

/-! ### Window Unit (chapters 1 and 2) -/

/-- A window's close cause (R10, R11). -/
inductive CloseCause where
  | full | partialClose
  deriving DecidableEq, Repr

/-- A record's tag set (R15). -/
structure Tags where
  short : Bool
  shifted : Bool
  notHarvesting : Bool
  saturated : Bool
  sensorSilent : Bool
  speedFault : Bool
  tiltFault : Bool
  relief : Bool
  deriving DecidableEq, Repr

/-- A window record (R15); `tags.short` is the tag PARTIAL. -/
structure WindowRecord where
  number : Nat
  elapsed : Nat
  cause : CloseCause
  hits : PerLoss Nat
  tailActiveMs : Nat
  speedCount : PerSpeed Nat
  periodSum : PerSpeed Nat
  duty : PerPwm (Option Nat)
  lossIndex : PerLoss Nat
  sl : Nat
  imb : Int
  rpm : PerSpeed Nat
  tailPm : Nat
  roll : Int
  pitch : Int
  feederPm : Nat
  droopPm : Nat
  load : Nat
  tags : Tags
  deriving DecidableEq, Repr

/-- The observation marks of the window in progress (R16, R17). -/
structure Marks where
  shifted : Bool
  notHarvesting : Bool
  relief : Bool
  deriving DecidableEq, Repr

/-- A loss input's silent run count and silent flag (R19). -/
structure SilentRun where
  count : Nat
  silent : Bool
  deriving DecidableEq, Repr

/-- The Window Unit. -/
structure WindowUnit where
  number : Nat
  startedAt : Nat
  /-- W of the window in progress, 0.1 s (R10). -/
  length : Nat
  /-- The separator state of the window in progress (R11, R20). -/
  engaged : Bool
  marks : Marks
  silentRun : PerLoss SilentRun
  faultRun : PerSpeed Nat
  heldRoll : Int
  heldPitch : Int
  history : List WindowRecord
  deriving DecidableEq, Repr

/-! ### Evaluator (chapters 2 and 3) -/

/-- The averaged figures of a valid Evaluation (R35). -/
structure Averages where
  sl : Nat
  liW : Nat
  tailPm : Nat
  droopPm : Nat
  imb : Int
  deriving DecidableEq, Repr

/-- The side of SIDE_IMBALANCE (R40). -/
inductive Side where
  | left | right
  deriving DecidableEq, Repr

/-- The Evaluation record (R36); it is valid when the averages are present. `symptoms` holds which are SET;
`grainAvailable` is the availability of the two grain symptoms (R37). -/
structure Evaluation where
  number : Nat
  averages : Option Averages
  symptoms : PerSymptom Bool
  grainAvailable : Bool
  side : Side
  deriving DecidableEq, Repr

/-- A quality report after the clamp of R41. -/
structure QualityReport where
  broken : Nat
  foreignPm : Nat
  samples : Nat
  deriving DecidableEq, Repr

/-- The held fresh report and its age in windows (R41, R42). -/
structure FreshReport where
  report : QualityReport
  age : Nat
  deriving DecidableEq, Repr

/-- Why the feed is restrained (R45). -/
inductive RestrainCause where
  | load | relief
  deriving DecidableEq, Repr

/-- The Feed Restrain state (R45). -/
inductive Restrain where
  | opened
  | pending (count : Nat)
  | restrained (cause : RestrainCause) (held : Nat)
  deriving DecidableEq, Repr

/-- The Evaluator. -/
structure Evaluator where
  evaluation : Evaluation
  lastReport : Option QualityReport
  freshReport : Option FreshReport
  restrain : Restrain
  latestLoad : Nat
  /-- The reduction last sent in a RESTRAIN_NOTICE (R53). -/
  sentReduction : Nat
  /-- A record has been appended since reset (R53 case 1). -/
  appended : Bool
  deriving DecidableEq, Repr

/-! ### Setting Book (chapter 4) -/

/-- The cause of an AUTOMATIC request (R64). -/
inductive Cause where
  | trim | follow | regulate | restore
  deriving DecidableEq, Repr

/-- The requesters (R64); AUTOMATIC carries its cause. -/
inductive Requester where
  | service
  | operator
  | automatic (cause : Cause)
  deriving DecidableEq, Repr

/-- On whose behalf a move runs: the Override Unit, or a requester (R102). -/
inductive Owner where
  | override
  | request (r : Requester)
  deriving DecidableEq, Repr

/-- The outcomes (R75). -/
inductive OutcomeCode where
  | complete | completeOff | limit | stalled | aborted | superseded | replaced | deferred | faulted
  deriving DecidableEq, Repr

/-- A channel's last outcome (R75). -/
structure LastOutcome where
  outcome : OutcomeCode
  owner : Owner
  window : Nat
  deriving DecidableEq, Repr

/-- Who holds a channel (R62). -/
inductive Holder where
  | operator | service
  deriving DecidableEq, Repr

/-- How long a hold lasts: the remaining seconds with the one-second timer, or UNTIL_RELEASE (R63). -/
inductive HoldTime where
  | seconds (left expiresAt : Nat)
  | untilRelease
  deriving DecidableEq, Repr

/-- A hold (R62). -/
structure Hold where
  holder : Holder
  time : HoldTime
  deriving DecidableEq, Repr

/-- What a request asks for (R64): a SET with its clamped target, absent for RESTORE and REGULATE until the take. -/
inductive RequestKind where
  | set (target : Option Int)
  | jog (direction : Direction)
  | home
  | shake (amplitude cycles : Nat)
  deriving DecidableEq, Repr

/-- An entry of a Request List (R64). -/
structure Entry where
  requester : Requester
  kind : RequestKind
  arrival : Nat
  tag : Option Byte
  /-- The entry is a preset SET, of origin PRESET. -/
  preset : Bool
  deriving DecidableEq, Repr

/-- A channel entry of the Setting Book (R55); the envelope is held with the active preset parameters. -/
structure BookEntry where
  setpoint : Int
  origin : Origin
  mode : Mode
  hold : Option Hold
  requests : List Entry
  last : Option LastOutcome
  deriving DecidableEq, Repr

/-! ### Motion Engine (chapter 6) -/

/-- A fault cause (R101). -/
inductive FaultCause where
  | stall | homeFailed | noCalibration
  deriving DecidableEq, Repr

/-- The motion states (R101). -/
inductive Phase where
  | idle | waiting | driving | coasting
  | faulted (cause : FaultCause)
  deriving DecidableEq, Repr

/-- The kinds of move (R102). -/
inductive MoveKind where
  | set | jog | home | shake | relief | returning | park
  deriving DecidableEq, Repr

/-- The scheduling modes (R134). -/
inductive Scheduling where
  | stepwise | whole | held
  deriving DecidableEq, Repr

/-- How a move's drive last turned off (R107): at its own end (terminal count, target band, drive time), at a stall, at the
end of a jog, or with work left (end of a stint, preemption). -/
inductive DriveEnd where
  | ownEnd | stall | jogEnd | workLeft
  deriving DecidableEq, Repr

/-- The move record (R102). -/
structure Move where
  owner : Owner
  kind : MoveKind
  scheduling : Scheduling
  /-- Counts or rpm; of a SHAKE the half target (R122). -/
  target : Option Int
  /-- None before a speed move's first grant, and for a move begun in COASTING. -/
  direction : Option Direction
  base : Nat
  remaining : Nat
  stintCount : Nat
  /-- Of a JOG: its envelope edge in counts or rpm, as read at its hand-over and at each re-grant (R126). -/
  edge : Int
  shakeStart : Int
  /-- The half target of the outward halves. -/
  shakeOut : Int
  shakeAmplitude : Nat
  halfMoves : Nat
  corrected : Bool
  /-- µs spent in DRIVING before the present drive (R124). -/
  driveTime : Nat
  limit : Bool
  tag : Option Byte
  /-- The move has been granted a slot (R70, R118). -/
  granted : Bool
  driveEnd : DriveEnd
  /-- The move was handed to a coasting channel and takes its counts at the coast expiry (R103). -/
  begunCoasting : Bool
  deriving DecidableEq, Repr

/-- A channel of the Motion Engine (R101). Position count and referenced flag are a positional channel's; on a speed
channel they stay 0 and clear. -/
structure Motion where
  phase : Phase
  move : Option Move
  lastDirection : Option Direction
  stallCount : Nat
  strayCount : Nat
  position : Int
  referenced : Bool
  /-- The standing fault cause of a HOME taken from FAULTED (R115). -/
  standing : Option FaultCause
  /-- The coast timer, or the settle timer of a speed channel (R107, R124). -/
  coastEndsAt : Option Nat
  /-- The coast under no move is that of an aborted setpoint-bearing move (R16). -/
  coastShifts : Bool
  /-- The stall timer (R111). -/
  stallAt : Option Nat
  /-- When the present DRIVING interval began (R124). -/
  drivingSince : Nat
  deriving DecidableEq, Repr

/-! ### Drive Arbiter (chapter 7) -/

/-- A held drive slot: its holder and the moment of its grant (R127). -/
structure Slot where
  channel : Channel
  grantedAt : Nat
  deriving DecidableEq, Repr

/-! ### Override Unit (chapter 8) -/

/-- The Plug Relief state (R143). -/
inductive Relief where
  | disarmed | spinup | armed | suspect | opening
  | openHeld (failed : Bool)
  | returning
  deriving DecidableEq, Repr

/-- The Override Unit (R143). -/
structure Override where
  relief : Relief
  confirmAt : Option Nat
  recoverAt : Option Nat
  giveUpAt : Option Nat
  watchAt : Option Nat
  deriving DecidableEq, Repr

/-! ### Preset Store (chapter 9) -/

/-- The store operations (R159). -/
inductive StoreKind where
  | save | erase | wipe | lockCal | saveCal | positionWrite | positionErase
  deriving DecidableEq, Repr

/-- A store operation in flight (R159): the pages it works through in order, and for each the words it is to read at the end. -/
structure StoreOp where
  kind : StoreKind
  pages : List Nat
  image : List Word
  startedAt : Nat
  endsAt : Nat
  deriving DecidableEq, Repr

/-- A calibration with its valid flag (R162). -/
structure CalSet where
  figures : Calibration
  valid : Bool
  deriving DecidableEq, Repr

/-- The reset-cause record (R170). -/
structure ResetCauses where
  powerOn : Bool
  commanded : Bool
  supplyDip : Bool
  deriving DecidableEq, Repr

/-- The Preset Store. -/
structure Store where
  memory : Memory
  pageStates : List PageState
  op : Option StoreOp
  inhibit : Bool
  lockMark : Bool
  activeCal : CalSet
  pendingCal : CalSet
  activePreset : Preset
  pendingPreset : Preset
  /-- The slot of the load mark on the pending preset set (R161). -/
  loadMark : Option Nat
  activeSlot : Option Nat
  recordNumber : Nat
  resetCauses : ResetCauses
  deriving DecidableEq, Repr

/-! ### Bus Port (chapter 10) -/

/-- The result codes of a REPLY (R173). -/
inductive Result where
  | accepted | acceptedClamped | unknown | notPermitted | badChannel | faulted | notReferenced | notTurning
  | outranked | busy | inhibited | locked | inconsistent | emptySlot | shuttingDown | notStationary
  deriving DecidableEq, Repr

/-- The events of R179. -/
inductive Event where
  | moveDone | homed | positionLost | channelFaulted | trimApplied | reliefStarted | reliefRecovered | reliefFailed
  | lossSensorSilent | speedSensor | qualityStale | paramsApplied | storeDone | serviceEnded | startUp
  deriving DecidableEq, Repr

/-- The frames the part sends (10 10.6). -/
inductive FrameBody where
  | reply (destination kindLow tag : Byte) (result : Result) (channel : Byte) (value : Word)
  | bookStatus (channel : Channel) (phase : Phase) (referenced : Bool) (hold : Option Holder) (mode : Mode)
      (origin : Origin) (last : Option OutcomeCode) (setpoint actual : Int) (stamp : Nat)
  | windowReport1 (number sl liW : Nat) (imb : Int) (stamp : Nat)
  | windowReport2 (drumRpm fanRpm tailPm load stamp : Nat)
  | windowReport3 (roll pitch : Int) (symptoms : PerSymptom Bool) (grainAvailable : Bool) (side : Side) (tags : Tags)
      (number stamp : Nat)
  | restrainNotice (state : Restrain) (reduction load window : Nat)
  | event (code : Event) (channel : Option Channel) (detail8 detail16 : Nat) (overrun : Bool) (window : Nat)
  deriving DecidableEq, Repr

/-- A queued frame with the source address it was queued with (R171). -/
structure Frame where
  source : Byte
  body : FrameBody
  deriving DecidableEq, Repr

/-- The Bus Port. -/
structure Bus where
  queue : List Frame
  overrun : Bool
  silentUntil : Option Nat
  groundSpeed : Nat
  speedKnown : Bool
  freshUntil : Option Nat
  /-- Each channel's jog refresh timer (R175, assumption 18). -/
  jogTimers : PerChannel (Option Nat)
  deriving DecidableEq, Repr

/-! ### Supply and key -/

/-- The part works, has released PHOLD (R167), or has no supply. -/
inductive Power where
  | on | released | off
  deriving DecidableEq, Repr

/-- Why a shutdown runs (R167, R170). -/
inductive ShutdownKind where
  | keyOff | commanded
  deriving DecidableEq, Repr

/-- A shutdown in progress and its deadline timer, stopped when none (R167, R168). -/
structure Shutdown where
  kind : ShutdownKind
  deadlineAt : Option Nat
  deriving DecidableEq, Repr

/-- The levels of the switch lines: SEP engaged, KEY on, TAIL active. -/
structure Lines where
  sep : Bool
  key : Bool
  tail : Bool
  deriving DecidableEq, Repr

/-! ### The part and the state -/

/-- The whole state of the part. -/
structure Part where
  now : Nat
  power : Power
  lines : Lines
  phold : Bool
  shutdown : Option Shutdown
  harvesting : Bool
  capture : Capture
  window : WindowUnit
  evaluator : Evaluator
  book : PerChannel BookEntry
  fanTarget : Int
  service : Bool
  settle : Nat
  louverTrim : Int
  fanOffset : Int
  motion : PerChannel Motion
  slots : List Slot
  rankOrder : List Channel
  override : Override
  store : Store
  bus : Bus
  /-- The model's own: the index of the next free value (Config). -/
  freeIndex : Nat
  deriving DecidableEq, Repr

/-- The state of the machine: the part and the queue of commands waiting to be taken, oldest first. -/
structure State where
  part : Part
  pending : List Instr
  deriving DecidableEq, Repr

/-- No command stops the machine with a fault: the spec describes none. -/
inductive Fault where
  deriving DecidableEq, Repr

/-- Why a command has no meaning. -/
inductive Refusal where
  /-- Raised by `exec` for a command without a meaning in this model; safe. No command is so refused. -/
  | notModelled (mnemonic : String)
  deriving DecidableEq, Repr

/-! ### Reset -/

/-- Sensor Capture after any reset (R1 to R8). -/
def Capture.reset : Capture where
  loss := .const ⟨0, 0, false, none⟩
  speed := .const ⟨0, 0, none, 0⟩
  pwm := .const ⟨0, 0, none⟩
  tail := ⟨none, 0, 0⟩
  engaged := false
  sepQualifyAt := none

/-- The Window Unit at the start of the first window (R10, R13, R17, R19 to R21, R29). -/
def WindowUnit.reset (now length : Nat) : WindowUnit where
  number := 1
  startedAt := now
  length := length
  engaged := false
  marks := ⟨false, true, false⟩
  silentRun := .const ⟨0, false⟩
  faultRun := .const 0
  heldRoll := 0
  heldPitch := 0
  history := []

/-- The Evaluator after any reset (R36, R37, R41, R45, R52). -/
def Evaluator.reset : Evaluator where
  evaluation := ⟨0, none, .const false, false, .left⟩
  lastReport := none
  freshReport := none
  restrain := .opened
  latestLoad := 0
  sentReduction := 0
  appended := false

/-- A channel of the Motion Engine after any reset, in the motion state given (R101). -/
def Motion.reset (phase : Phase) : Motion where
  phase := phase
  move := none
  lastDirection := none
  stallCount := 0
  strayCount := 0
  position := 0
  referenced := false
  standing := none
  coastEndsAt := none
  coastShifts := false
  stallAt := none
  drivingSince := 0

/-- The Override Unit after any reset (R143). -/
def Override.reset : Override := ⟨.disarmed, none, none, none, none⟩

/-- The Bus Port after any reset (R174 to R176; that a bus-off silence ends there is assumption 43). -/
def Bus.reset : Bus where
  queue := []
  overrun := false
  silentUntil := none
  groundSpeed := 0
  speedKnown := false
  freshUntil := none
  jogTimers := .const none

/-- A channel entry after any reset with a setpoint, an origin and a mode (R55, R169). -/
def BookEntry.reset (setpoint : Int) (origin : Origin) (mode : Mode) : BookEntry := ⟨setpoint, origin, mode, none, [], none⟩

/-- The POSITION_ERASE of start-up (R169 step 4, R159). -/
def StoreOp.positionErase (now : Nat) : StoreOp := ⟨.positionErase, [1], erasedWords, now, now + ms 40⟩

/-- What start-up with an erased store queues: START_UP and a CHANNEL_FAULTED for each channel (R114, R169, R170). -/
def Bus.blankStartUp : List Frame :=
  [⟨0x44, .event .startUp none 1 0 false 1⟩,
   ⟨0x44, .event .channelFaulted (some .drum) 3 0 false 1⟩, ⟨0x44, .event .channelFaulted (some .concave) 3 0 false 1⟩,
   ⟨0x44, .event .channelFaulted (some .upperSieve) 3 0 false 1⟩,
   ⟨0x44, .event .channelFaulted (some .lowerSieve) 3 0 false 1⟩,
   ⟨0x44, .event .channelFaulted (some .fan) 3 0 false 1⟩, ⟨0x44, .event .channelFaulted (some .louver) 3 0 false 1⟩]

/-- The part right after a power-on with an erased store, KEY on, SEP not engaged and TAIL not active (R169, R170;
assumption 6): the fallback preset, the default calibration not valid, every channel FAULTED with cause NO_CALIBRATION,
START_UP and the six CHANNEL_FAULTED in the transmit queue. -/
def Part.reset : Part where
  now := 0
  power := .on
  lines := ⟨false, true, false⟩
  phold := true
  shutdown := none
  harvesting := false
  capture := .reset
  window := .reset 0 20
  evaluator := .reset
  book := { drum := .reset 850 .preset .manual, concave := .reset 140 .preset .manual,
            upperSieve := .reset 120 .preset .manual, lowerSieve := .reset 80 .preset .manual,
            fan := .reset 1050 .preset .manual, louver := .reset 0 .preset .manual }
  fanTarget := 1050
  service := false
  settle := 6
  louverTrim := 0
  fanOffset := 0
  motion := .const (.reset (.faulted .noCalibration))
  slots := []
  rankOrder := [.concave, .drum, .fan, .upperSieve, .lowerSieve, .louver]
  override := .reset
  store := { memory := [], pageStates := List.replicate pageCount .empty, op := some (.positionErase 0),
             inhibit := false, lockMark := false, activeCal := ⟨.default, false⟩, pendingCal := ⟨.default, false⟩,
             activePreset := .fallback defaultFactory, pendingPreset := .fallback defaultFactory, loadMark := none,
             activeSlot := none, recordNumber := 0, resetCauses := ⟨true, false, false⟩ }
  bus := { Bus.reset with queue := Bus.blankStartUp }
  freeIndex := 0

/-- The machine right after reset. -/
def State.reset : State := ⟨Part.reset, []⟩

end Sys2Proof.Machine
end

