-- ==== Sys2Proof/Machine/Ops.lean ====
section
/-! DEFINITION. The named operations over the state that every block uses: reading and writing one channel, the transmit
queue (R176), events (R179), replies (R173), and when a command is taken. -/

namespace Sys2Proof.Machine

/-! ### One channel of the Motion Engine and of the Setting Book -/

/-- A channel of the Motion Engine. -/
def Part.motionOf (s : Part) (c : Channel) : Motion := s.motion.get c

/-- The part with a channel of the Motion Engine changed. -/
def Part.modMotion (s : Part) (c : Channel) (f : Motion → Motion) : Part :=
  { s with motion := s.motion.set c (f (s.motion.get c)) }

/-- A channel entry of the Setting Book. -/
def Part.entryOf (s : Part) (c : Channel) : BookEntry := s.book.get c

/-- The part with a channel entry changed. -/
def Part.modBook (s : Part) (c : Channel) (f : BookEntry → BookEntry) : Part :=
  { s with book := s.book.set c (f (s.book.get c)) }

/-! ### Parameters in force -/

/-- The active calibration's figures. -/
def Part.cal (s : Part) : Calibration := s.store.activeCal.figures

/-- The active preset parameters. -/
def Part.params (s : Part) : Preset := s.store.activePreset

/-- A channel's envelope in force (R57). -/
def Part.envelope (s : Part) (c : Channel) : Limits := s.params.envelope.get c

/-- A value clamped to a channel's envelope. -/
def Part.clampToEnvelope (s : Part) (c : Channel) (v : Int) : Int := clamp (s.envelope c).min (s.envelope c).max v

/-- A value in units of a positional channel as counts, clamped to the range of a position (R56, R105). -/
def Part.countsOf (s : Part) (p : PosChannel) (v : Int) : Int := clampCount (unitsToCounts (s.cal.pos.get p).cal16 v)

/-- A count of a positional channel in units (R55, R119). -/
def Part.unitsOf (s : Part) (p : PosChannel) (c : Int) : Int := countsToUnits (s.cal.pos.get p).cal16 c

/-- A positional channel's deadband in counts (R56, R108). -/
def Part.deadbandCounts (s : Part) (p : PosChannel) : Nat :=
  (unitsToCounts (s.cal.pos.get p).cal16 ((s.cal.pos.get p).deadband : Int)).toNat

/-- The latest instantaneous rpm of a speed channel's input (R5). -/
def Part.rpmOf (s : Part) (v : SpeedChannel) : Int := (s.capture.speed.get v).rpm

/-- The low 16 bits of the number of the window in progress (R13). -/
def Part.windowLow (s : Part) : Nat := s.window.number % 65536

/-! ### The transmit queue (R176) -/

/-- BOOK_STATUS and WINDOW_REPORT frames are periodic; their stamp is the number of the window in which they were queued. -/
def FrameBody.stamp : FrameBody → Option Nat
  | .bookStatus _ _ _ _ _ _ _ _ _ n => some n
  | .windowReport1 _ _ _ _ n => some n
  | .windowReport2 _ _ _ _ n => some n
  | .windowReport3 _ _ _ _ _ _ _ n => some n
  | .reply _ _ _ _ _ _ | .restrainNotice _ _ _ _ | .event _ _ _ _ _ _ => none

/-- A frame is periodic. -/
def FrameBody.periodic (b : FrameBody) : Bool := b.stamp.isSome

/-- The most frames the transmit queue holds. -/
def queueCapacity : Nat := 24

/-- The queue without its oldest periodic frame, none where it has none. -/
def evictOldestPeriodic : List Frame → Option (List Frame)
  | [] => none
  | f :: rest => if f.body.periodic then some rest else (evictOldestPeriodic rest).map (f :: ·)

/-- The queue without its oldest periodic frame that is not the head, none where it has none. -/
def evictBehindHead : List Frame → Option (List Frame)
  | [] => none
  | head :: rest => (evictOldestPeriodic rest).map (head :: ·)

/-- A frame queued: at the tail while there is room; otherwise a periodic frame is dropped, and a notice evicts the oldest
periodic frame behind the head or is dropped with the overrun mark set (R176). -/
def Bus.push (b : Bus) (f : Frame) : Bus :=
  if b.queue.length < queueCapacity then { b with queue := b.queue ++ [f] }
  else if f.body.periodic then b
  else match evictBehindHead b.queue with
    | some rest => { b with queue := rest ++ [f] }
    | none => { b with overrun := true }

/-- A frame would be placed in the queue. -/
def Bus.admits (b : Bus) (notice : Bool) : Bool :=
  b.queue.length < queueCapacity || (notice && (evictBehindHead b.queue).isSome)

/-- A frame queued with the node address as its source (R171). -/
def Part.send (s : Part) (body : FrameBody) : Part := { s with bus := s.bus.push ⟨s.cal.nodeAddress, body⟩ }

/-- An event raised: its EVENT_NOTICE queued, with the overrun flag if the overrun mark is set, which it clears unless the
notice is itself dropped (R176, R179). The window number is given, for PARAMS_APPLIED carries the next window's (R14). -/
def Part.raiseIn (s : Part) (window : Nat) (code : Event) (c : Option Channel) (d8 d16 : Nat) : Part :=
  let body := FrameBody.event code c d8 d16 s.bus.overrun (window % 65536)
  if s.bus.admits true then
    { s with bus := { s.bus.push ⟨s.cal.nodeAddress, body⟩ with overrun := false } }
  else s.send body

/-- An event raised in the window in progress (R179). -/
def Part.raise (s : Part) (code : Event) (c : Option Channel) (d8 d16 : Nat) : Part :=
  s.raiseIn s.window.number code c d8 d16

/-- A value as the 16-bit two's complement an event detail carries (R110, R116). -/
def detail16 (v : Int) : Nat := (BitVec.ofInt 16 v).toNat

/-! ### Replies (R173) -/

/-- The request a REPLY answers: its sender, kind, tag and channel byte (0xFF where the kind has no channel). -/
structure Asked where
  source : Byte
  kind : BitVec 10
  tag : Byte
  channel : Byte
  deriving DecidableEq, Repr

/-- A REPLY queued (R173). -/
def Part.reply (s : Part) (a : Asked) (r : Result) (value : Word) : Part :=
  s.send (.reply a.source (kindLow a.kind) a.tag r a.channel value)

/-! ### When a command is taken (assumptions 1, 2 and 5) -/

/-- An event from outside, `dt` µs after the command before it: time passes, and the part takes the event while it works. -/
def Part.onEvent (s : Part) (dt : Nat) (f : Part → Part) : Part :=
  let s : Part := { s with now := s.now + dt }
  if s.power = .on then f s else s

/-- The expiry of a timer: taken at its deadline, while the part works; a timer that does not run expires nothing. -/
def Part.onExpiry (s : Part) (deadline : Option Nat) (f : Part → Part) : Part :=
  match deadline with
  | some d => if s.power = .on then f { s with now := max s.now d } else s
  | none => s

/-- The outcome of a command: a next state with the queue untouched. -/
def State.goOn (s : State) (f : Part → Part) : Host.Outcome State Fault Refusal := .next { s with part := f s.part }

end Sys2Proof.Machine
end

