-- ==== Sys2Proof/Machine/Flags.lean ====
section
/-! DEFINITION. The conditions and marks computed from the state: harvesting (R9), observation marks (R16, R17), a channel's
condition (R68), what disarms relief (R145), the reported reduction (R52), record tags (R18). -/

namespace Sys2Proof.Machine

/-- The part would be harvesting: separator ENGAGED, ground speed known and at or above the minimum (R9). -/
def Part.harvestingHolds (s : Part) : Bool :=
  s.capture.engaged && s.bus.speedKnown && s.params.minHarvestSpeed ≤ s.bus.groundSpeed

/-! ### Moves -/

/-- The four classes as numbers, highest first in authority: OVERRIDE 3, SERVICE 2, OPERATOR 1, AUTOMATIC 0 (R128). -/
def Owner.rank : Owner → Nat
  | .override => 3
  | .request .service => 2
  | .request .operator => 1
  | .request (.automatic _) => 0

/-- The authority of a requester (R64). -/
def Requester.rank (r : Requester) : Nat := Owner.rank (.request r)

/-- Two requests are made for the same requester, whatever the causes of AUTOMATIC (R67). -/
def Requester.same (a b : Requester) : Bool := a.rank = b.rank

/-- A move is setpoint-bearing (R16). -/
def Move.bearing (m : Move) : Bool :=
  match m.kind with
  | .jog | .shake | .relief | .returning | .park => true
  | .home => false
  | .set => m.owner ≠ .request (.automatic .follow) && m.owner ≠ .request (.automatic .regulate)

/-- A move of kind HOME, RELIEF, RETURN or PARK, which blocks its channel (R68). -/
def MoveKind.blocks : MoveKind → Bool
  | .home | .relief | .returning | .park => true
  | .set | .jog | .shake => false

/-! ### Observation marks (R16, R17) -/

/-- The SHIFTED mark set, for a channel 0 to 4 that drives or coasts under a setpoint-bearing move. -/
def Part.markShifted (s : Part) (c : Channel) (m : Move) : Part :=
  if c ≠ .louver && m.bearing then
    { s with window := { s.window with marks := { s.window.marks with shifted := true } } }
  else s

/-- A channel 0 to 4 is DRIVING or COASTING under a setpoint-bearing move, or coasts after the abort of one (R16). -/
def Part.bearingNow (s : Part) (c : Channel) : Bool :=
  let m := s.motionOf c
  c ≠ .louver && (m.phase = .driving || m.phase = .coasting) &&
    (match m.move with
     | some mv => mv.bearing
     | none => m.coastShifts)

/-- Plug Relief is SUSPECT, OPENING, OPEN_HELD or RETURNING (R17). -/
def Relief.marks : Relief → Bool
  | .suspect | .opening | .openHeld _ | .returning => true
  | .disarmed | .spinup | .armed => false

/-- Plug Relief is OPENING or OPEN_HELD (R46, R49, R52). -/
def Relief.opens : Relief → Bool
  | .opening | .openHeld _ => true
  | .disarmed | .spinup | .armed | .suspect | .returning => false

/-- Plug Relief blocks CONCAVE: OPENING, OPEN_HELD or RETURNING (R68). -/
def Relief.blocks : Relief → Bool
  | .opening | .openHeld _ | .returning => true
  | .disarmed | .spinup | .armed | .suspect => false

/-! ### A channel's condition (R68) -/

/-- A channel is blocked. -/
def Part.blocked (s : Part) (c : Channel) : Bool :=
  (c = .concave && s.override.relief.blocks) ||
    (match (s.motionOf c).move with
     | some m => m.kind.blocks
     | none => (s.motionOf c).phase = .coasting)

/-- A channel is busy: a move of kind SET, JOG or SHAKE is in flight and the channel is not blocked. -/
def Part.busy (s : Part) (c : Channel) : Bool := (s.motionOf c).move.isSome && !s.blocked c

/-- A channel is FAULTED. -/
def Part.isFaulted (s : Part) (c : Channel) : Bool :=
  match (s.motionOf c).phase with
  | .faulted _ => true
  | .idle | .waiting | .driving | .coasting => false

/-- A channel is free for a request: IDLE and not blocked, or FAULTED and the request a HOME. -/
def Part.freeFor (s : Part) (c : Channel) (k : RequestKind) : Bool :=
  !s.blocked c && ((s.motionOf c).phase = .idle || (s.isFaulted c && k = .home))

/-! ### Plug Relief (R145) -/

/-- A HOME in flight keeps the flag clear, so the referenced flag says it all (R145, R157). One of the conditions that
disarm relief holds. -/
def Part.reliefBarred (s : Part) : Bool :=
  !s.capture.engaged || !s.params.relief.enable || !(s.motionOf .concave).referenced || s.isFaulted .concave
    || s.shutdown.isSome

/-! ### The reported reduction (R52) -/

/-- The reduction the part reports. -/
def Part.reduction (s : Part) : Nat :=
  if s.override.relief.opens then 1000
  else match s.evaluator.restrain with
    | .opened | .pending _ => 0
    | .restrained _ _ => s.params.restrain.reduction

/-- The Feed Restrain's state without its counts. -/
inductive RestrainFace where
  | opened | pending
  | restrained (cause : RestrainCause)
  deriving DecidableEq, Repr

/-- State, cause and reported reduction, whose change R53 announces. -/
def Part.restrainFace (s : Part) : RestrainFace × Nat :=
  (match s.evaluator.restrain with
   | .opened => .opened
   | .pending _ => .pending
   | .restrained cause _ => .restrained cause, s.reduction)

/-! ### Tags (R18) -/

/-- A record is spoiled. -/
def Tags.spoiled (t : Tags) : Bool := t.shifted || t.relief || t.notHarvesting

/-- A record is clean; TILT_FAULT does not matter. -/
def Tags.clean (t : Tags) : Bool :=
  !(t.short || t.shifted || t.notHarvesting || t.saturated || t.sensorSilent || t.speedFault || t.relief)

/-! ### Symptoms (R38, R43) -/

/-- A symptom's next state against its thresholds: SET at or above the one, CLEAR at or below the other, kept between. -/
def ThresholdPair.judge (t : ThresholdPair) (figure : Nat) (present : Bool) : Bool :=
  if t.setAt ≤ figure then true else if figure ≤ t.clearAt then false else present

end Sys2Proof.Machine
end

