-- ==== Sys2Proof/Machine/Slots.lean ====
section
/-! DEFINITION. The Drive Arbiter: grants, drive-offs and releases, preemption (chapter 7), with what the Motion Engine does
at a grant (R109, R118, R123, R126) and at a drive-off (R103, R107, R124). -/

namespace Sys2Proof.Machine

/-- A channel's coast time, or a speed channel's settle time, in ms (R107, R123). -/
def Part.coastTime (s : Part) (c : Channel) : Nat :=
  match c.kind with
  | .positional p => (s.cal.pos.get p).coastTime
  | .speed v => (s.cal.speed.get v).settleTime

/-- The edge of a jog as it stands: the envelope end in the jog's direction, in counts for a positional channel (R118, R120;
assumption 40). -/
def Part.jogEdge (s : Part) (c : Channel) (d : Direction) : Int :=
  let edge := match d with
    | .up => (s.envelope c).max
    | .down => (s.envelope c).min
  match c.kind with
  | .positional p => s.countsOf p edge
  | .speed _ => edge

/-- The distance from a position to an edge in a direction, 0 at or beyond it (R118). -/
def distanceToEdge (d : Direction) (position edge : Int) : Nat := (d.sign * (edge - position)).toNat

/-! ### Drive-off -/

/-- The drive of a channel turns off and its slot is released: the channel coasts, its coast or settle timer starts, its drive
time accumulates (R103, R107, R124, R133). The released slot is granted by `regrant`. -/
def Part.driveOff (s : Part) (c : Channel) (e : DriveEnd) : Part :=
  let s : Part := { s with slots := s.slots.filter (·.channel ≠ c) }
  let driven : Motion → Nat := fun m =>
    match c.kind with
    | .speed _ => s.now - m.drivingSince
    | .positional _ => 0
  s.modMotion c fun m =>
    { m with
      phase := .coasting
      coastEndsAt := some (s.now + ms (s.coastTime c))
      stallAt := none
      lastDirection := (m.move.bind (·.direction)).or m.lastDirection
      move := m.move.map fun mv => { mv with driveEnd := e, driveTime := mv.driveTime + driven m } }

/-! ### Grant -/

/-- A JOG has reached its edge at a present value, its position or rpm (R118, R120). -/
def Move.atEdge (m : Move) (present : Int) : Bool :=
  match m.direction with
  | some d => distanceToEdge d present m.edge = 0
  | none => false

/-- A positional move as its grant recomputes it (R109, R118, R126, R132): direction and remaining count of a move with a target;
the edge and the remaining count of a jog granted again; a HOME keeps both. The stint count starts again. Where the position is the
target the sign is 0 and R109 gives no direction: the move keeps the one it has, which is the model's choice (assumption 47). -/
def Part.atGrant (s : Part) (c : Channel) (position : Int) (m : Move) : Move :=
  let m := { m with stintCount := 0 }
  match m.kind, m.target with
  | .jog, _ =>
    match m.granted, m.direction with
    | true, some d =>
      let edge := s.jogEdge c d
      { m with edge := edge, remaining := min m.remaining (distanceToEdge d position edge) }
    | _, _ => m
  | .home, _ => m
  | _, some t =>
    { m with
      direction := if position < t then some .up else if t < position then some .down else m.direction
      remaining := min m.base (distance t position) }
  | _, none => m

/-- The direction in which a speed move with a target would be driven at an rpm (R123); at an rpm that is the target R123 gives none,
and the move keeps the one it has (assumption 47). -/
def speedDirection (target rpm : Int) (present : Option Direction) : Option Direction :=
  if rpm < target then some .up else if target < rpm then some .down else present

/-- An rpm ends the drive of a speed move: within the approach band of the target or across it; or at or past the edge of a jog
(R120, R124, R126). -/
def Part.rpmEndsDrive (s : Part) (v : SpeedChannel) (m : Move) (rpm : Int) : Bool :=
  match m.kind, m.target, m.direction with
  | .jog, _, _ => m.atEdge rpm
  | _, some t, some .up => distance t rpm ≤ (s.params.bands.get v).approach || t ≤ rpm
  | _, some t, some .down => distance t rpm ≤ (s.params.bands.get v).approach || rpm ≤ t
  | _, some t, none => distance t rpm ≤ (s.params.bands.get v).approach
  | _, none, _ => false

/-- The maximum drive time of a speed channel in µs (R123). -/
def Part.maxDriveTime (s : Part) (v : SpeedChannel) : Nat := ms (s.cal.speed.get v).maxDriveTime

/-- A slot held by a channel from now on; in ROTATING mode the channel moves to the end of the rank order (R129, R132). -/
def Part.holdSlot (s : Part) (c : Channel) : Part :=
  { s with
    slots := s.slots ++ [(⟨c, s.now⟩ : Slot)]
    rankOrder := match s.params.arbiterMode with
      | .fixed => s.rankOrder
      | .rotating => s.rankOrder.filter (· ≠ c) ++ [c] }

/-- A positional move driven: direction and counts recomputed, the stall timer started (R109, R111, R118); at a remaining count of 0
the drive turns off at once. -/
def Part.drivePositional (s : Part) (c : Channel) (p : PosChannel) (mv : Move) : Part :=
  let driven : Move := { s.atGrant c (s.motionOf c).position mv with granted := true }
  let s : Part := s.modMotion c fun m =>
    { m with
      phase := .driving
      move := some driven
      drivingSince := s.now
      stallAt := some (s.now + ms (s.cal.pos.get p).stallTime) }
  if driven.remaining = 0 then s.driveOff c .ownEnd else s

/-- A speed move as its grant leaves it: its direction set anew, the edge of a jog granted again read anew, and the limit flag where
its drive time is already at the maximum (R123, R126; assumption 22). -/
def Part.speedAtGrant (s : Part) (v : SpeedChannel) (mv : Move) : Move :=
  let direction := match mv.kind, mv.target with
    | .jog, _ => mv.direction
    | _, some t => speedDirection t (s.rpmOf v) mv.direction
    | _, none => mv.direction
  let edge := match mv.kind, mv.granted, mv.direction with
    | .jog, true, some d => s.jogEdge v.channel d
    | _, _, _ => mv.edge
  { mv with
    direction := direction
    edge := edge
    granted := true
    limit := mv.limit || s.maxDriveTime v ≤ mv.driveTime }

/-- A speed move driven (R123): the drive turns off at once at an rpm that ends it, and at a drive time already at the maximum. -/
def Part.driveSpeed (s : Part) (c : Channel) (v : SpeedChannel) (mv : Move) : Part :=
  let driven := s.speedAtGrant v mv
  let late := s.maxDriveTime v ≤ mv.driveTime
  let s : Part := s.modMotion c fun m => { m with phase := .driving, move := some driven, drivingSince := s.now }
  if late || s.rpmEndsDrive v driven (s.rpmOf v) then s.driveOff c .ownEnd else s

/-- A slot granted to a waiting channel, with what the Motion Engine does there (R132). -/
def Part.grant (s : Part) (c : Channel) : Part :=
  match (s.motionOf c).move with
  | none => s
  | some mv =>
    let s : Part := (s.holdSlot c).markShifted c mv
    match c.kind with
    | .positional p => s.drivePositional c p mv
    | .speed v => s.driveSpeed c v mv

/-- The class of the move a channel holds, for the arbiter's choices (R128). -/
def Part.classOf (s : Part) (c : Channel) : Nat :=
  match (s.motionOf c).move with
  | some m => m.owner.rank
  | none => 0

/-- The waiting channel a released slot is granted to: of the highest class, the earliest in the live rank order (R132). -/
def Part.bestWaiting (s : Part) : Option Channel :=
  let waiting := s.rankOrder.filter fun c => (s.motionOf c).phase = .waiting
  let top := waiting.foldl (fun n c => max n (s.classOf c)) 0
  waiting.find? fun c => s.classOf c = top

/-- The number of drive slots (R127). -/
def slotCount : Nat := 2

/-- Free slots granted to waiting channels, one after another, at most one for each channel (R132). -/
def Part.regrantUpTo : Nat → Part → Part
  | 0, s => s
  | n + 1, s =>
    if s.slots.length < slotCount then
      match s.bestWaiting with
      | some c => Part.regrantUpTo n (s.grant c)
      | none => s
    else s

/-- Free slots granted among the channels now waiting (R132). -/
def Part.regrant (s : Part) : Part := Part.regrantUpTo 6 s

/-- A drive-off with the grant of the released slot (R132, R133). -/
def Part.endDrive (s : Part) (c : Channel) (e : DriveEnd) : Part := (s.driveOff c e).regrant

/-! ### Asking for a slot -/

/-- The holder a RELIEF move preempts: of a class below OVERRIDE, the lowest class, of two the more recent grant; the slots are
kept in the order of their grants (R140). -/
def Part.preemptable (s : Part) : Option Channel :=
  let holders := (s.slots.map (·.channel)).filter fun c => s.classOf c < 3
  let low := holders.foldl (fun n c => min n (s.classOf c)) 3
  (holders.filter fun c => s.classOf c = low).getLast?

/-- A channel that has entered WAITING asks for a slot: it is granted one if a slot is free, and waits otherwise (R131). -/
def Part.askSlot (s : Part) (c : Channel) : Part :=
  if s.slots.length < slotCount then (s.grant c).regrant else s

/-- A RELIEF move waits on a channel. -/
def Part.reliefWaits (s : Part) (c : Channel) : Bool :=
  match (s.motionOf c).move with
  | some m => m.kind = .relief && (s.motionOf c).phase = .waiting
  | none => false

/-- The preemption at the entry of a RELIEF move to WAITING that has found both slots held (R140, R141). -/
def Part.preempt (s : Part) (c : Channel) : Part :=
  if s.reliefWaits c ∧ slotCount ≤ s.slots.length then
    match s.preemptable with
    | some holder => ((s.driveOff holder .workLeft).grant c).regrant
    | none => s
  else s

/-- The preemption made at once, or not at all where a drive-off or an abort that falls together with the entry is taken first and
gives its slot to the move that waits (R142; assumption 45). -/
def Part.preemptUnless (s : Part) (releaseFirst : Bool) (c : Channel) : Part := if releaseFirst then s else s.preempt c

/-- A move enters WAITING and asks for a slot (R103, R131). -/
def Part.enterWaiting (s : Part) (c : Channel) : Part :=
  (s.modMotion c fun m => { m with phase := .waiting, coastEndsAt := none }).askSlot c

end Sys2Proof.Machine
end

