-- ==== Sys2Proof/Machine/Restrain.lean ====
section
/-! DEFINITION. The Feed Restrain's notice and its forced state (R49, R50, R53, R54), and the Plug Relief state with its timers
(R143, R145 to R148), as far as they start no move. -/

namespace Sys2Proof.Machine

/-! ### RESTRAIN_NOTICE -/

/-- A RESTRAIN_NOTICE queued with the fields of R54. -/
def Part.sendRestrain (s : Part) : Part :=
  let s : Part := s.send (.restrainNotice s.evaluator.restrain s.reduction s.evaluator.latestLoad s.windowLow)
  { s with evaluator := { s.evaluator with sentReduction := s.reduction } }

/-- One notice if state, cause or reported reduction differ from what they were (R53 case 2). -/
def Part.announceRestrain (s : Part) (before : RestrainFace × Nat) : Part :=
  if s.restrainFace ≠ before then s.sendRestrain else s

/-- The Feed Restrain's state replaced. -/
def Part.setRestrain (s : Part) (r : Restrain) : Part := { s with evaluator := { s.evaluator with restrain := r } }

/-! ### The Plug Relief state -/

/-- Plug Relief enters a state; SUSPECT, OPENING, OPEN_HELD and RETURNING set the RELIEF mark (R17). -/
def Part.setRelief (s : Part) (r : Relief) : Part :=
  let s : Part := { s with override := { s.override with relief := r } }
  if r.marks then { s with window := { s.window with marks := { s.window.marks with relief := true } } } else s

/-- The percentage whose period the watch timer stands for (R146), none where the drum is not watched. -/
def Part.watchedPercent (s : Part) : Option Nat :=
  match s.override.relief with
  | .armed | .suspect | .returning => some s.params.relief.enterPercent
  | .openHeld _ => some s.params.relief.recoverPercent
  | .disarmed | .spinup | .opening => none

/-- The watch timer's length in µs, none where it does not run: unwatched, or with a DRUM setpoint of 0 (R146). -/
def Part.watchLength (s : Part) : Option Nat :=
  let t := (s.entryOf .drum).setpoint.toNat
  match s.watchedPercent with
  | some percent =>
    if t = 0 then none
    else some (roundHalfUp 96000000000 (percent * t * s.cal.speed.drum.teeth * s.cal.speed.drum.ratio16))
  | none => none

/-- The watch timer started, or stopped where it does not run (R146). -/
def Part.startWatch (s : Part) : Part :=
  { s with override := { s.override with watchAt := s.watchLength.map (s.now + ·) } }

/-- The watch timer stopped where a DRUM setpoint of 0 leaves it no length (R146). -/
def Part.stopIdleWatch (s : Part) : Part :=
  if s.watchLength.isNone then { s with override := { s.override with watchAt := none } } else s

/-- Plug Relief out of action, every relief timer stopped (R145); the Feed Restrain leaves its forced state (R50), which a notice
announces by R53 case 2, also within the parameter application of a close that builds a record (assumption 25). -/
def Part.disarm (s : Part) : Part :=
  let before := s.restrainFace
  let wasOpen := s.override.relief.opens
  let s : Part := { s with override := Override.reset }
  if wasOpen then (s.setRestrain (.restrained .load 0)).announceRestrain before else s

/-- The conditions of R145 judged again, where no move has to be handed: DISARMED when one holds, SPINUP when they have all ceased. -/
def Part.judgeRelief (s : Part) : Part :=
  if s.reliefBarred then (if s.override.relief = .disarmed then s else s.disarm)
  else if s.override.relief = .disarmed then s.setRelief .spinup
  else s

/-- The DRUM setpoint has become greater than it was: ARMED and SUSPECT return to SPINUP and the confirm timer stops (R147). -/
def Part.drumRaised (s : Part) (old : Int) : Part :=
  if old < (s.entryOf .drum).setpoint ∧ (s.override.relief = .armed ∨ s.override.relief = .suspect) then
    { s.setRelief .spinup with override := { s.override with relief := .spinup, confirmAt := none, watchAt := none } }
  else s

/-- The period stood for by an instantaneous rpm is below the enter threshold (R146). -/
def Part.belowEnter (s : Part) (rpm : Int) : Bool :=
  rpm * 100 < (s.params.relief.enterPercent : Int) * (s.entryOf .drum).setpoint

/-- The period stood for by an instantaneous rpm is at or above the recover threshold (R146). -/
def Part.atRecover (s : Part) (rpm : Int) : Bool :=
  (s.params.relief.recoverPercent : Int) * (s.entryOf .drum).setpoint ≤ rpm * 100

/-- The confirm timer started with the confirm time in force. -/
def Part.startConfirm (s : Part) : Part :=
  { s with override := { s.override with confirmAt := some (s.now + ms s.params.relief.confirmTime) } }

/-- The confirm timer stopped. -/
def Part.stopConfirm (s : Part) : Part := { s with override := { s.override with confirmAt := none } }

/-- A slow period, or an overdue one, judged (R148, R151, R152). -/
def Part.slowPeriod (s : Part) : Part :=
  match s.override.relief with
  | .armed => (s.setRelief .suspect).startConfirm
  | .returning => if s.override.confirmAt.isSome then s else s.startConfirm
  | .openHeld false => { s with override := { s.override with recoverAt := none } }
  | .openHeld true | .disarmed | .spinup | .suspect | .opening => s

/-- A good period judged: above enter in SUSPECT and RETURNING, at recover in SPINUP and OPEN_HELD (R147, R148, R151, R152). -/
def Part.goodPeriod (s : Part) : Part :=
  match s.override.relief with
  | .spinup => (s.setRelief .armed).startWatch
  | .suspect => (s.setRelief .armed).stopConfirm
  | .returning => s.stopConfirm
  | .openHeld false =>
    if s.override.recoverAt.isSome then s
    else { s with override := { s.override with recoverAt := some (s.now + ms s.params.relief.recoverTime) } }
  | .openHeld true | .disarmed | .armed | .opening => s

/-- A closed drum period judged by the state's threshold (R147, R148, R151, R152). -/
def Part.judgeDrumPeriod (s : Part) (rpm : Int) : Part :=
  match s.override.relief with
  | .spinup => if s.atRecover rpm then s.goodPeriod else s
  | .openHeld _ => if s.atRecover rpm then s.goodPeriod else s.slowPeriod
  | .armed | .suspect | .returning => if s.belowEnter rpm then s.slowPeriod else s.goodPeriod
  | .disarmed | .opening => s

end Sys2Proof.Machine
end

