-- ==== Sys2Proof/Machine/Outcomes.lean ====
section
/-! DEFINITION. Outcomes and setpoints of the Setting Book: MOVE_DONE (R75), the commitment of a setpoint with all that sees it
(R58, R60, R85, R94, R147), the FAN effective target (R60, R97, R98), jog refresh timers (R175). -/

namespace Sys2Proof.Machine

/-- An outcome's code in MOVE_DONE (R179). -/
def OutcomeCode.code : OutcomeCode → Nat
  | .complete => 0
  | .completeOff => 1
  | .limit => 2
  | .stalled => 3
  | .aborted => 4
  | .superseded => 5
  | .replaced => 6
  | .deferred => 7
  | .faulted => 8

/-- A MOVE_DONE's detail u16: the bus tag, or 0xFFFF where the request had none (R179). -/
def tagDetail : Option Byte → Nat
  | some t => t.toNat
  | none => 0xFFFF

/-- An outcome recorded as the channel's last and raised as MOVE_DONE (R75). -/
def Part.recordOutcome (s : Part) (c : Channel) (o : OutcomeCode) (owner : Owner) (tag : Option Byte) : Part :=
  (s.modBook c fun e => { e with last := some ⟨o, owner, s.window.number⟩ }).raise .moveDone (some c) o.code (tagDetail tag)

/-! ### Jog refresh timers (R175) -/

/-- An entry is a JOG. -/
def Entry.isJog (e : Entry) : Bool :=
  match e.kind with
  | .jog _ => true
  | .set _ | .home | .shake _ _ => false

/-- A JOG is the move in flight on a channel. -/
def Part.jogging (s : Part) (c : Channel) : Bool :=
  match (s.motionOf c).move with
  | some mv => mv.kind = .jog
  | none => false

/-- A JOG is in flight on a channel or listed for it. -/
def Part.hasJog (s : Part) (c : Channel) : Bool := s.jogging c || (s.entryOf c).requests.any Entry.isJog

/-- A channel's jog refresh timer stopped at the end of a JOG, unless another JOG in flight or listed needs it (R119, R175;
assumption 18). -/
def Part.stopJogTimer (s : Part) (c : Channel) : Part :=
  if s.hasJog c then s else { s with bus := { s.bus with jogTimers := s.bus.jogTimers.set c none } }

/-- A channel's jog refresh timer started, or started again. -/
def Part.startJogTimer (s : Part) (c : Channel) : Part :=
  { s with bus := { s.bus with jogTimers := s.bus.jogTimers.set c (some (s.now + jogRefreshTime)) } }

/-- The jog refresh timer at the end of a move, which has left its channel. -/
def Part.stopJogTimerOf (s : Part) (c : Channel) (m : Move) : Part :=
  if m.kind = .jog then s.stopJogTimer c else s

/-- An entry that has left the Request List ends with an outcome (R75, R175). -/
def Part.endEntry (s : Part) (c : Channel) (o : OutcomeCode) (e : Entry) : Part :=
  (if e.isJog then s.stopJogTimer c else s).recordOutcome c o (.request e.requester) e.tag

/-- Every listed entry for which the test holds discarded with an outcome (R75, R78, R79, R81). R75 has several outcomes of one event
recorded in turn and names no order of the entries: that they end in the order of the list, highest authority first, is the model's
choice (assumption 25). -/
def Part.discardEntries (s : Part) (c : Channel) (o : OutcomeCode) (gone : Entry → Bool) : Part :=
  let listed := (s.entryOf c).requests
  let s : Part := s.modBook c fun e => { e with requests := listed.filter (!gone ·) }
  (listed.filter gone).foldl (fun s e => s.endEntry c o e) s

/-! ### The FAN effective target -/

/-- The effective target recomputed: setpoint plus pitch offset, clamped to the envelope (R60). -/
def Part.updateFanTarget (s : Part) : Part :=
  { s with fanTarget := s.clampToEnvelope .fan ((s.entryOf .fan).setpoint + s.fanOffset) }

/-- The fan pitch offset changed (R98). -/
def Part.setFanOffset (s : Part) (v : Int) : Part := ({ s with fanOffset := v } : Part).updateFanTarget

/-- The target a speed channel is driven to: the DRUM setpoint or the FAN effective target (R60, R123, R125). -/
def Part.speedTarget (s : Part) (v : SpeedChannel) : Int :=
  match v with
  | .drum => (s.entryOf .drum).setpoint
  | .fan => s.fanTarget

/-! ### Commitment (R58) -/

/-- A setpoint written, with the FAN effective target and Plug Relief's view of the DRUM setpoint (R60, R146, R147). -/
def Part.putSetpoint (s : Part) (c : Channel) (v : Int) : Part :=
  let old := (s.entryOf .drum).setpoint
  let s : Part := s.modBook c fun e => { e with setpoint := v }
  match c with
  | .fan => s.updateFanTarget
  | .drum => (s.drumRaised old).stopIdleWatch
  | .concave | .upperSieve | .lowerSieve | .louver => s

/-- What the Trim Engine and the Slope Follower do at a commitment (R85, R94). -/
def Part.seeCommitment (s : Part) (c : Channel) (r : Requester) : Part :=
  match r with
  | .automatic _ => s
  | .service | .operator =>
    if c = .louver then { s with louverTrim := 0 } else { s with settle := max s.settle s.params.settleCount }

/-- A setpoint committed: clamped to the envelope, with its origin (R57, R58). -/
def Part.commit (s : Part) (c : Channel) (v : Int) (r : Requester) (origin : Origin) : Part :=
  let s : Part := (s.modBook c fun e => { e with origin := origin }).putSetpoint c (s.clampToEnvelope c v)
  s.seeCommitment c r

/-- The origin a requester's commitment carries (R58, R64). -/
def Requester.origin (r : Requester) (preset : Bool) : Origin :=
  if preset then .preset
  else match r with
    | .service => .service
    | .operator => .operator
    | .automatic .follow => .follow
    | .automatic .trim | .automatic .regulate | .automatic .restore => .trim

/-- A request commits its target at its take or retarget: not REGULATE, not RESTORE (R58). -/
def Requester.commits : Requester → Bool
  | .automatic .regulate | .automatic .restore => false
  | .automatic .trim | .automatic .follow | .service | .operator => true

end Sys2Proof.Machine
end

