-- ==== Sys2Proof/Machine/Moves.lean ====
section
/-! DEFINITION. Moves: the hand-over (R103, R105, R115, R118, R121, R123), the end of a move (R104), the abort (R137, R138), faults
(R112, R113), the coast and settle expiries (R107 to R109, R116 to R120, R122, R124) and feedback pulses (R106, R110). What a freed
channel takes next is the Setting Book's (Book.lean). -/

namespace Sys2Proof.Machine

/-! ### The end of a move -/

/-- What the outcome of a RELIEF or RETURN move does to Plug Relief, on a concave that is not FAULTED (R150, R152). RELIEF_RECOVERED
carries the low 16 bits of an rpm above 65535 (assumption 41). -/
def Part.reliefOutcome (s : Part) (k : MoveKind) (o : OutcomeCode) : Part :=
  let code : Option Nat := match o with
    | .complete => some 0
    | .completeOff => some 1
    | .stalled => some 2
    | .limit | .aborted | .superseded | .replaced | .deferred | .faulted => none
  match code, k, s.override.relief with
  | some _, .relief, .opening =>
    let s : Part := s.setRelief (.openHeld false)
    { s with override := { s.override with giveUpAt := some (s.now + ms s.params.relief.giveUpTime) } }.startWatch
  | some d, .returning, .returning =>
    ((s.setRelief .armed).stopConfirm).raise .reliefRecovered (some .concave) d (s.capture.speed.drum.rpm % 65536)
  | _, _, _ => s

/-- A move's outcome decided: the record dropped, the channel IDLE, the outcome recorded and handed to the Override Unit (R104). -/
def Part.endMove (s : Part) (c : Channel) (o : OutcomeCode) : Part :=
  match (s.motionOf c).move with
  | none => s
  | some mv =>
    let s : Part := s.modMotion c fun m => { m with phase := .idle, move := none, coastEndsAt := none }
    ((s.stopJogTimerOf c mv).recordOutcome c o mv.owner mv.tag).reliefOutcome mv.kind o

/-- A positional move ends COMPLETE or COMPLETE_OFF, which sets the consecutive stall count to 0 (R105, R108, R109). -/
def Part.completeMove (s : Part) (c : Channel) (o : OutcomeCode) : Part :=
  (s.modMotion c fun m => { m with stallCount := 0 }).endMove c o

/-- A fault cause's code in CHANNEL_FAULTED (R113). -/
def FaultCause.code : FaultCause → Nat
  | .stall => 1
  | .homeFailed => 2
  | .noCalibration => 3

/-- A channel becomes FAULTED: reference cleared, CHANNEL_FAULTED raised, then the outcome of the move it held, if the step decides
one, then its list discarded (R104, R112, R113, R117); Plug Relief is judged for CONCAVE (R145). -/
def Part.fault (s : Part) (c : Channel) (cause : FaultCause) (ending : Option OutcomeCode) : Part :=
  let held := (s.motionOf c).move
  let s : Part := s.modMotion c fun m =>
    { m with phase := .faulted cause, move := none, referenced := false, standing := none, coastEndsAt := none, stallAt := none }
  let s : Part := s.raise .channelFaulted (some c) cause.code 0
  let s : Part := match held, ending with
    | some mv, some o => (s.stopJogTimerOf c mv).recordOutcome c o mv.owner mv.tag
    | _, _ => s
  let s : Part := s.discardEntries c .faulted fun _ => true
  if c = .concave then s.judgeRelief else s

/-- A channel with no move and no coast left is IDLE, or FAULTED under a standing fault cause (R107, R115, R138). -/
def Part.comeToRest (s : Part) (c : Channel) (ending : Option OutcomeCode) : Part :=
  match (s.motionOf c).standing with
  | some cause => s.fault c cause ending
  | none => (s.modMotion c fun m => { m with phase := .idle, coastShifts := false }).endMove c (ending.getD .aborted)

/-- An abort of the move in flight with the outcome named (R137, R138): from DRIVING the channel coasts under no move and the slot
is granted on, from COASTING the coast goes on, from WAITING the channel is at rest at once. The take rule is the caller's. -/
def Part.abort (s : Part) (c : Channel) (o : OutcomeCode) : Part :=
  match (s.motionOf c).move with
  | none => s
  | some mv =>
    match (s.motionOf c).phase with
    | .driving =>
      let s : Part := (s.driveOff c .workLeft).modMotion c fun m => { m with move := none, coastShifts := mv.bearing }
      ((s.regrant).stopJogTimerOf c mv).recordOutcome c o mv.owner mv.tag
    | .coasting =>
      let s : Part := s.modMotion c fun m => { m with move := none, coastShifts := mv.bearing }
      (s.stopJogTimerOf c mv).recordOutcome c o mv.owner mv.tag
    | .waiting | .idle | .faulted _ => s.comeToRest c (some o)

/-- A positional move ends STALLED: the consecutive stall count rises, and the third faults the channel (R112). -/
def Part.stallMove (s : Part) (c : Channel) : Part :=
  let count := (s.motionOf c).stallCount + 1
  let s : Part := s.modMotion c fun m => { m with stallCount := count }
  if 3 ≤ count then s.fault c .stall (some .stalled) else s.endMove c .stalled

/-! ### Jogs (R118 to R120) -/

/-- The value a jog commits: the position in units, or the latest instantaneous rpm; the commitment clamps it (R119, R120). -/
def Part.jogValue (s : Part) (c : Channel) : Int :=
  match c.kind with
  | .positional p => s.unitsOf p (s.motionOf c).position
  | .speed v => s.rpmOf v

/-- A jog's final value committed with the jog's requester as origin (R58, R119). -/
def Part.commitJog (s : Part) (c : Channel) (mv : Move) : Part :=
  match mv.owner with
  | .request r => s.commit c (s.jogValue c) r (r.origin false)
  | .override => s

/-- A jog ends by its own course: the final value committed, then the outcome (R119, R120). -/
def Part.endJogMove (s : Part) (c : Channel) (mv : Move) : Part :=
  let s : Part := s.commitJog c mv
  if mv.limit then s.endMove c .limit else s.completeMove c .complete

/-- A jog told to end by its requester's JOG_STOP or by the refresh expiry (R119, R120). In WAITING it ends at once; the take rule
is the caller's. -/
def Part.stopJog (s : Part) (c : Channel) : Part :=
  match (s.motionOf c).move with
  | none => s
  | some mv =>
    match (s.motionOf c).phase with
    | .driving => s.endDrive c .jogEnd
    | .coasting =>
      if mv.driveEnd = .workLeft then s.modMotion c fun m => { m with move := some { mv with driveEnd := .jogEnd } } else s
    | .waiting => s.endJogMove c mv
    | .idle | .faulted _ => s

/-! ### The hand-over -/

/-- A move before its kind's figures are filled in (R102). -/
def Move.blank (owner : Owner) (kind : MoveKind) (scheduling : Scheduling) (tag : Option Byte) : Move where
  owner := owner
  kind := kind
  scheduling := scheduling
  target := none
  direction := none
  base := 0
  remaining := 0
  stintCount := 0
  edge := 0
  shakeStart := 0
  shakeOut := 0
  shakeAmplitude := 0
  halfMoves := 0
  corrected := false
  driveTime := 0
  limit := false
  tag := tag
  granted := false
  driveEnd := .workLeft
  begunCoasting := false

/-- A positional move aimed at its target from a position: direction, base and remaining count (R105). -/
def Move.aim (m : Move) (position target : Int) : Move :=
  { m with
    target := some target
    direction := if position < target then some .up else if target < position then some .down else m.direction
    base := distance target position
    remaining := distance target position
    corrected := false
    stintCount := 0 }

/-- The scheduling mode of a SET (R103). -/
def setScheduling (c : Channel) (r : Requester) : Scheduling :=
  match c.kind, r with
  | .positional _, .automatic .trim | .positional _, .automatic .follow => .stepwise
  | _, _ => .whole

/-- A formed move handed to the Motion Engine (R103). A move of class AUTOMATIC handed while the separator is DISENGAGED is aborted
(R155); a move handed to a coasting channel begins in COASTING; a positional move with base count 0 completes; every other move
waits for a slot. -/
def Part.hand (s : Part) (c : Channel) (mv : Move) : Part :=
  if mv.owner.rank = 0 ∧ s.capture.engaged = false then
    s.recordOutcome c .aborted mv.owner mv.tag
  else if (s.motionOf c).phase = .coasting then
    (s.modMotion c fun m => { m with move := some { mv with begunCoasting := true } }).markShifted c mv
  else
    let s : Part := s.modMotion c fun m => { m with move := some mv }
    match c.kind with
    | .positional _ =>
      if mv.base = 0 then (if mv.kind = .jog then s.endJogMove c mv else s.completeMove c .complete) else s.enterWaiting c
    | .speed _ => s.enterWaiting c

/-- A move with a target in units or rpm handed over (R56, R105, R123). -/
def Part.handSet (s : Part) (c : Channel) (owner : Owner) (kind : MoveKind) (scheduling : Scheduling) (target : Int)
    (tag : Option Byte) : Part :=
  let mv : Move := Move.blank owner kind scheduling tag
  match c.kind with
  | .positional p => s.hand c (mv.aim (s.motionOf c).position (s.countsOf p target))
  | .speed _ => s.hand c { mv with target := some target }

/-- A HOME handed over: the referenced flag cleared, Plug Relief judged for CONCAVE, the fault cause of a FAULTED channel kept as
standing (R115, R145). -/
def Part.handHome (s : Part) (p : PosChannel) (r : Requester) (tag : Option Byte) : Part :=
  let c := p.channel
  let cal := s.cal.pos.get p
  let s : Part := s.modMotion c fun m =>
    { m with
      referenced := false
      standing := match m.phase with
        | .faulted cause => some cause
        | .idle | .waiting | .driving | .coasting => m.standing }
  let s : Part := if c = .concave then s.judgeRelief else s
  s.hand c { Move.blank (.request r) .home .whole tag with
    direction := some cal.homeDirection, base := cal.homeTravel, remaining := cal.homeTravel }

/-- A JOG handed over, its edge read (R118, R120, R126). -/
def Part.handJog (s : Part) (c : Channel) (r : Requester) (d : Direction) (tag : Option Byte) : Part :=
  let mv : Move := { Move.blank (.request r) .jog .held tag with direction := some d, edge := s.jogEdge c d }
  match c.kind with
  | .positional _ =>
    let travel := distanceToEdge d (s.motionOf c).position mv.edge
    s.hand c { mv with base := travel, remaining := travel }
  | .speed _ => s.hand c mv

/-- A SHAKE handed over on a positional channel (R121). Only the half target is clamped to the range of a position. -/
def Part.handShake (s : Part) (p : PosChannel) (r : Requester) (amplitude cycles : Nat) (tag : Option Byte) : Part :=
  let c := p.channel
  let start := (s.motionOf c).position
  let cal16 := (s.cal.pos.get p).cal16
  let counts := clampNat 1 65535 (unitsToCounts cal16 (amplitude : Int)).toNat
  let out : Direction := if unitsToCounts cal16 (s.envelope c).max < start + (counts : Int) then .down else .up
  let half := clampCount (start + out.sign * (counts : Int))
  s.hand c { Move.blank (.request r) .shake .whole tag with
    target := some half, direction := some out, base := counts, remaining := counts
    shakeStart := start, shakeOut := half, shakeAmplitude := counts, halfMoves := 2 * cycles }

/-! ### The coast expiry of a positional channel -/

/-- The judgement of a move with a target at its terminal count: complete, one correction, or COMPLETE_OFF (R108). -/
def Part.judgeTarget (s : Part) (p : PosChannel) (mv : Move) (target : Int) : Part :=
  let c := p.channel
  let position := (s.motionOf c).position
  if distance target position ≤ s.deadbandCounts p then s.completeMove c .complete
  else if mv.corrected then s.completeMove c .completeOff
  else
    let mv : Move := { mv.aim position target with corrected := true }
    (s.modMotion c fun m => { m with move := some mv }).enterWaiting c

/-- The coast expiry of a move with a target (R108, R109, R112). -/
def Part.targetCoastEnds (s : Part) (p : PosChannel) (mv : Move) : Part :=
  let c := p.channel
  let target := mv.target.getD (s.motionOf c).position
  if mv.driveEnd = .stall then s.stallMove c
  else if mv.remaining = 0 then s.judgeTarget p mv target
  else if distance target (s.motionOf c).position ≤ s.deadbandCounts p then s.completeMove c .complete
  else s.enterWaiting c

/-- The coast expiry of a SHAKE half (R109, R112, R122). The halves alternate, outward first, so the half just ended was outward
when the number remaining is even. -/
def Part.shakeCoastEnds (s : Part) (p : PosChannel) (mv : Move) : Part :=
  let c := p.channel
  if mv.driveEnd ≠ .stall ∧ mv.remaining = 0 ∧ 1 < mv.halfMoves then
    let mv : Move :=
      { mv with
        halfMoves := mv.halfMoves - 1
        direction := mv.direction.map Direction.flip
        target := some (if mv.halfMoves % 2 = 0 then mv.shakeStart else mv.shakeOut)
        base := mv.shakeAmplitude
        remaining := mv.shakeAmplitude }
    (s.modMotion c fun m => { m with move := some mv }).enterWaiting c
  else s.targetCoastEnds p mv

/-- The coast expiry of a JOG (R118, R119). -/
def Part.jogCoastEnds (s : Part) (p : PosChannel) (mv : Move) : Part :=
  let c := p.channel
  if mv.driveEnd = .stall then (s.commitJog c mv).stallMove c
  else if mv.driveEnd = .jogEnd ∨ mv.remaining = 0 ∨ mv.atEdge (s.motionOf c).position then s.endJogMove c mv
  else s.enterWaiting c

/-- A HOME's success: the home value taken, the channel referenced, HOMED raised before the MOVE_DONE (R116); Plug Relief judged for
CONCAVE (R145). -/
def Part.homeSucceeds (s : Part) (p : PosChannel) : Part :=
  let c := p.channel
  let before := (s.motionOf c).position
  let s : Part := s.modMotion c fun m =>
    { m with
      position := s.countsOf p (s.cal.pos.get p).homeValue
      referenced := true
      strayCount := 0
      stallCount := 0
      standing := none }
  let s : Part := (s.raise .homed (some c) 0 (detail16 before)).endMove c .complete
  if c = .concave then s.judgeRelief else s

/-- The coast expiry of a HOME (R109, R116, R117). -/
def Part.homeCoastEnds (s : Part) (p : PosChannel) (mv : Move) : Part :=
  if mv.driveEnd = .stall then s.homeSucceeds p
  else if mv.remaining = 0 then s.fault p.channel .homeFailed (some .faulted)
  else s.enterWaiting p.channel

/-- The coast expiry of a move handed to a coasting channel: it takes its counts now (R103). -/
def Part.begunCoastEnds (s : Part) (p : PosChannel) (mv : Move) : Part :=
  let c := p.channel
  let mv : Move := { mv with begunCoasting := false }
  let mv : Move := match mv.kind, mv.target with
    | .set, some t | .relief, some t | .returning, some t | .park, some t => mv.aim (s.motionOf c).position t
    | _, _ => mv
  let s : Part := s.modMotion c fun m => { m with move := some mv }
  if mv.base = 0 then s.completeMove c .complete else s.enterWaiting c

/-- The coast expiry of a positional channel (R107). The take rule is the caller's. -/
def Part.coastEnds (s : Part) (p : PosChannel) : Part :=
  let c := p.channel
  let s : Part := s.modMotion c fun m => { m with coastEndsAt := none }
  match (s.motionOf c).move with
  | none => s.comeToRest c none
  | some mv =>
    if mv.begunCoasting then s.begunCoastEnds p mv
    else match mv.kind with
      | .home => s.homeCoastEnds p mv
      | .jog => s.jogCoastEnds p mv
      | .shake => s.shakeCoastEnds p mv
      | .set | .relief | .returning | .park => s.targetCoastEnds p mv

/-! ### The settle expiry of a speed channel -/

/-- The settle expiry of a speed channel (R120, R124). A preempted jog whose rpm has reached its edge ends there, as R141 and R118 have
it, and any other waits again (assumption 40). The take rule is the caller's. -/
def Part.settleEnds (s : Part) (v : SpeedChannel) : Part :=
  let c := v.channel
  let s : Part := s.modMotion c fun m => { m with coastEndsAt := none }
  match (s.motionOf c).move with
  | none => s.comeToRest c none
  | some mv =>
    if mv.driveEnd = .workLeft then
      match mv.kind, mv.target with
      | .jog, _ => if mv.atEdge (s.rpmOf v) then s.endJogMove c mv else s.enterWaiting c
      | _, some t =>
        if distance t (s.rpmOf v) ≤ (s.params.bands.get v).approach then s.endMove c .complete else s.enterWaiting c
      | _, none => s.enterWaiting c
    else if mv.kind = .jog then s.endJogMove c mv
    else s.endMove c (if mv.limit then .limit else .complete)

/-! ### Feedback pulses -/

/-- The reference lost by strays (R110): POSITION_LOST raised, a waiting move other than HOME aborted, Plug Relief judged for
CONCAVE. The take rule is the caller's. -/
def Part.losePosition (s : Part) (c : Channel) : Part :=
  let s : Part := s.modMotion c fun m => { m with referenced := false }
  let s : Part := s.raise .positionLost (some c) 0 (detail16 (s.motionOf c).position)
  let homing : Bool := match (s.motionOf c).move with
    | some mv => mv.kind = .home
    | none => false
  let s : Part := if homing then s else s.abort c .aborted
  if c = .concave then s.judgeRelief else s

/-- A stray pulse (R110). -/
def Part.strayPulse (s : Part) (c : Channel) : Part :=
  let count := min 255 ((s.motionOf c).strayCount + 1)
  let s : Part := s.modMotion c fun m => { m with strayCount := count }
  if 8 ≤ count ∧ (s.motionOf c).referenced then s.losePosition c else s

/-- A position moved by one count in a direction, held at the limits of the range (R106). -/
def stepPosition (position : Int) (d : Option Direction) : Int :=
  match d with
  | some d => clampCount (position + d.sign)
  | none => position

/-- A feedback pulse (R106): counted in DRIVING and COASTING, a stray otherwise. -/
def Part.pulse (s : Part) (p : PosChannel) : Part :=
  let c := p.channel
  let m := s.motionOf c
  match m.phase, m.move with
  | .driving, some mv =>
    let mv : Move :=
      { mv with
        remaining := mv.remaining - 1
        stintCount := if mv.scheduling = .stepwise then mv.stintCount + 1 else mv.stintCount }
    let s : Part := s.modMotion c fun m =>
      { m with
        position := stepPosition m.position mv.direction
        move := some mv
        stallAt := some (s.now + ms (s.cal.pos.get p).stallTime) }
    if mv.remaining = 0 then s.endDrive c .ownEnd
    else if mv.scheduling = .stepwise ∧ s.params.stint ≤ mv.stintCount then s.endDrive c .workLeft
    else s
  | .coasting, _ =>
    s.modMotion c fun m =>
      { m with
        position := stepPosition m.position m.lastDirection
        move := m.move.map fun mv =>
          if mv.kind = .home ∨ mv.kind = .jog then { mv with remaining := mv.remaining - 1 } else mv }
  | _, _ => s.strayPulse c

end Sys2Proof.Machine
end

