-- ==== Sys2Proof/Machine/Book.lean ====
section
/-! DEFINITION. The Setting Book's rules of requests: holds (R62), the Request List (R67), the take rule (R72 to R74), the
arrival rule with retargeting (R69, R70), internal posts (R76), what BOOK_STATUS shows (R55). -/

namespace Sys2Proof.Machine

/-! ### Holds (R62, R63) -/

/-- The length of a hold started now: the hold time in force, 0 standing for UNTIL_RELEASE. -/
def Part.newHoldTime (s : Part) : HoldTime :=
  if s.params.holdTime = 0 then .untilRelease else .seconds s.params.holdTime (s.now + holdTick)

/-- A hold placed on a channel; on FAN the pitch offset becomes 0 (R97). -/
def Part.putHold (s : Part) (c : Channel) (h : Hold) : Part :=
  let s : Part := s.modBook c fun e => { e with hold := some h }
  if c = .fan then s.setFanOffset 0 else s

/-- A hold started at the acceptance of a SET or JOG_START of a requester, where R62 starts one. -/
def Part.startHold (s : Part) (c : Channel) (r : Requester) : Part :=
  let e := s.entryOf c
  let heldByService : Bool := match e.hold with
    | some h => h.holder = .service
    | none => false
  match r with
  | .operator => if e.mode = .auto ∧ heldByService = false then s.putHold c ⟨.operator, s.newHoldTime⟩ else s
  | .service => if e.mode = .auto ∧ s.service = false then s.putHold c ⟨.service, s.newHoldTime⟩ else s
  | .automatic _ => s

/-- Every hold of one holder removed (R80, R81, R165). -/
def Part.removeHolds (s : Part) (who : Holder) : Part :=
  { s with book := .build fun c =>
      let e := s.entryOf c
      match e.hold with
      | some h => if h.holder = who then { e with hold := none } else e
      | none => e }

/-! ### The Request List (R67) -/

/-- An entry inserted by authority: before the first entry of lower authority. -/
def insertEntry (e : Entry) : List Entry → List Entry
  | [] => [e]
  | x :: rest => if x.requester.rank < e.requester.rank then e :: x :: rest else x :: insertEntry e rest

/-- An entry listed: in the place of the same requester's entry, which ends REPLACED, otherwise by authority (R67). -/
def Part.listEntry (s : Part) (c : Channel) (e : Entry) : Part :=
  let listed := (s.entryOf c).requests
  match listed.find? (·.requester.same e.requester) with
  | some old =>
    let list := listed.map fun x => if x.requester.same e.requester then e else x
    (s.modBook c fun b => { b with requests := list }).endEntry c .replaced old
  | none => s.modBook c fun b => { b with requests := insertEntry e listed }

/-! ### The take rule (R72 to R74) -/

/-- A TRIM or FOLLOW entry that has waited past the window after its arrival window (R72 step 1). -/
def Entry.stale (e : Entry) (window : Nat) : Bool :=
  match e.requester with
  | .automatic .trim | .automatic .follow => 1 < windowsAbove window e.arrival
  | .automatic .regulate | .automatic .restore | .operator | .service => false

/-- The value a SET on a channel drives to: the setpoint, or for FAN the effective target (R60, R72). -/
def Part.driveTarget (s : Part) (c : Channel) : Int :=
  match c.kind with
  | .positional _ => (s.entryOf c).setpoint
  | .speed v => s.speedTarget v

/-- A SET's target committed, where it has one and its requester commits (R58, R72 step 5). -/
def Part.commitEntry (s : Part) (c : Channel) (e : Entry) : Part :=
  match e.kind with
  | .set (some t) => if e.requester.commits then s.commit c t e.requester (e.requester.origin e.preset) else s
  | .set none | .jog _ | .home | .shake _ _ => s

/-- An entry taken from the list and handed as a move (R72 steps 4 to 6). -/
def Part.takeEntry (s : Part) (c : Channel) (e : Entry) : Part :=
  match e.kind, c.kind with
  | .set _, _ =>
    let s : Part := s.commitEntry c e
    s.handSet c (.request e.requester) .set (setScheduling c e.requester) (s.driveTarget c) e.tag
  | .jog d, _ => s.handJog c e.requester d e.tag
  | .home, .positional p => s.handHome p e.requester e.tag
  | .shake a n, .positional p => s.handShake p e.requester a n e.tag
  | .home, .speed _ | .shake _ _, .speed _ => s

/-- A SET or RESTORE on an unreferenced channel: kept listed behind a HOME for the same requester (R73). Where the HOME is aborted
at its hand-over (R155), the entry ends ABORTED with it. -/
def Part.homeFirst (s : Part) (p : PosChannel) (e : Entry) : Part :=
  let c := p.channel
  let s : Part := (s.discardEntries c .superseded fun x => !x.requester.same e.requester).handHome p e.requester none
  if (s.motionOf c).move.isNone then s.discardEntries c .aborted fun _ => true else s

/-- A SET on a speed channel while the separator is DISENGAGED: committed with outcome DEFERRED (R74). A REGULATE or RESTORE, which
cannot reach the channel, would end ABORTED as at the discard of R78. -/
def Part.deferEntry (s : Part) (c : Channel) (e : Entry) : Part :=
  if e.requester.commits then (s.commitEntry c e).recordOutcome c .deferred (.request e.requester) e.tag
  else s.recordOutcome c .aborted (.request e.requester) e.tag

/-- The first entry of a free channel's list dealt with (R72). The others end while it still stands in the list, in the list's order,
which is the model's choice (assumption 25). A JOG on a speed
channel is not handed while the separator is DISENGAGED (R123); it ends ABORTED (assumption 39). -/
def Part.takeHead (s : Part) (c : Channel) (e : Entry) (others : List Entry) : Part :=
  let dropHead : Part := s.modBook c fun b => { b with requests := others }
  let alone : Part := s.modBook c fun b => { b with requests := [e] }
  let taken : Part := (others.foldl (fun s x => s.endEntry c .superseded x) alone).modBook c fun b => { b with requests := [] }
  if e.stale s.window.number then dropHead.endEntry c .superseded e
  else match c.kind with
    | .positional p =>
      if (s.motionOf c).referenced then taken.takeEntry c e
      else match e.kind with
        | .home => taken.takeEntry c e
        | .jog _ | .shake _ _ => dropHead.endEntry c .aborted e
        | .set _ => s.homeFirst p e
    | .speed _ =>
      match e.kind with
      | .set _ => if s.capture.engaged then taken.takeEntry c e else taken.deferEntry c e
      | .jog _ => if s.capture.engaged then taken.takeEntry c e else dropHead.endEntry c .aborted e
      | .home | .shake _ _ => taken.takeEntry c e

/-- The take rule, at most n times. -/
def Part.takeUpTo : Nat → Part → Channel → Part
  | 0, s, _ => s
  | n + 1, s, c =>
    match (s.entryOf c).requests with
    | [] => s
    | e :: others =>
      if s.shutdown.isNone && s.freeFor c e.kind then Part.takeUpTo n (s.takeHead c e others) c else s

/-- The take rule run on a channel: it takes while the channel is free and its list is not empty (R72). Each take removes an entry,
or starts the HOME that blocks the channel. -/
def Part.take (s : Part) (c : Channel) : Part := s.takeUpTo (s.entryOf c).requests.length c

/-- The take rule run on every channel, in an order of the channels. -/
def Part.takeAll (s : Part) (o : Order) : Part := (arrange o.channels Channel.all).foldl (fun s c => s.take c) s

/-! ### The arrival rule (R69, R70) -/

/-- The answer to the poster of a request (R76). -/
inductive Placing where
  | taken | listed | retargeted | refused
  deriving DecidableEq, Repr

/-- An arrival of a requester is refused with OUTRANKED: the channel is busy with a move of a higher requester (R69). -/
def Part.outranks (s : Part) (c : Channel) (r : Requester) : Bool :=
  s.busy c && (match (s.motionOf c).move with
    | some mv => r.rank < mv.owner.rank
    | none => false)

/-- The value a retarget would drive to: the new target, or for FAN the effective target with the new setpoint (R70). -/
def Part.retargetValue (s : Part) (c : Channel) (t : Int) : Int :=
  if c = .fan then s.clampToEnvelope .fan (t + s.fanOffset) else t

/-- A value lies strictly on the side of the present value toward which a direction leads (R70). No value does where there is no
direction (assumption 46). -/
def aheadOf (d : Option Direction) (present value : Int) : Bool :=
  match d with
  | some d => 0 < d.sign * (value - present)
  | none => false

/-- The direction a speed move has for the test of R70: its own once granted, before that the one R123 would set. A move whose
target equalled the rpm at its grant has none, and the test fails, which is the model's choice (assumption 46). -/
def testDirection (mv : Move) (rpm : Int) : Option Direction :=
  if mv.granted then mv.direction
  else match mv.target with
    | some t => speedDirection t rpm none
    | none => none

/-- A SET used to retarget the move in flight (R70), its target given. -/
def Part.retargets (s : Part) (c : Channel) (mv : Move) (e : Entry) (t : Int) : Bool :=
  mv.kind = .set && mv.owner = .request e.requester &&
    (match c.kind with
     | .positional p => aheadOf mv.direction (s.motionOf c).position (s.countsOf p t)
     | .speed v => aheadOf (testDirection mv (s.rpmOf v)) (s.rpmOf v) (s.retargetValue c t))

/-- The retarget in place (R70): target, tag and, on a positional channel, both counts replaced; the target committed. -/
def Part.retarget (s : Part) (c : Channel) (e : Entry) : Part :=
  let s : Part := s.commitEntry c e
  let target := s.driveTarget c
  s.modMotion c fun m =>
    { m with move := m.move.map fun mv =>
        match c.kind with
        | .positional p =>
          let counts := s.countsOf p target
          { mv with target := some counts, tag := e.tag, base := distance counts m.position
                    remaining := distance counts m.position, corrected := false }
        | .speed _ => { mv with target := some target, tag := e.tag } }

/-- The target a SET has at its arrival; a RESTORE or REGULATE, which has none until its take, stands for the value it would take
(assumption 26). None for the other kinds. -/
def Part.arrivalTarget (s : Part) (c : Channel) (k : RequestKind) : Option Int :=
  match k with
  | .set (some t) => some t
  | .set none => some (s.entryOf c).setpoint
  | .jog _ | .home | .shake _ _ => none

/-- The move in flight is retargeted by an arrival. -/
def Part.isRetargeted (s : Part) (c : Channel) (mv : Move) (e : Entry) : Bool :=
  match s.arrivalTarget c e.kind with
  | some t => s.retargets c mv e t
  | none => false

/-- An accepted request placed by the arrival rule (R69), with the answer to its poster (R76). -/
def Part.place (s : Part) (c : Channel) (e : Entry) : Part × Placing :=
  match (s.motionOf c).move with
  | none =>
    if s.freeFor c e.kind then ((s.listEntry c e).take c, .taken) else (s.listEntry c e, .listed)
  | some mv =>
    if s.blocked c then (s.listEntry c e, .listed)
    else if e.requester.rank < mv.owner.rank then (s, .refused)
    else if mv.owner.rank < e.requester.rank then (((s.abort c .superseded).listEntry c e).take c, .listed)
    else if s.isRetargeted c mv e then (s.retarget c e, .retargeted)
    else (((s.abort c .replaced).listEntry c e).take c, .listed)

/-! ### Internal posts (R65, R76) -/

/-- A request of the part's own posted to the Setting Book: checks 1 and 6 of R65, then the arrival rule. -/
def Part.postEntry (s : Part) (c : Channel) (e : Entry) : Part × Placing :=
  if s.shutdown.isSome || s.isFaulted c then (s, .refused) else s.place c e

/-- An AUTOMATIC SET posted (R64). -/
def Part.post (s : Part) (c : Channel) (cause : Cause) (target : Option Int) : Part × Placing :=
  s.postEntry c ⟨.automatic cause, .set (target.map (s.clampToEnvelope c)), s.window.number, none, false⟩

/-- A preset SET posted at a LOAD's application (R64, R165). -/
def Part.postPreset (s : Part) (c : Channel) (target : Int) : Part :=
  (s.postEntry c ⟨.operator, .set (some (s.clampToEnvelope c target)), s.window.number, none, true⟩).1

/-! ### Service mode ended or entered (R79 to R81) -/

/-- The moves in flight for which a test holds aborted with outcome ABORTED, in an order of the channels (assumption 23). -/
def Part.abortMoves (s : Part) (o : Order) (which : Owner → Bool) : Part :=
  (arrange o.channels Channel.all).foldl (fun s c =>
    match (s.motionOf c).move with
    | some mv => if which mv.owner then s.abort c .aborted else s
    | none => s) s

/-- The listed entries for which a test holds discarded with outcome ABORTED, in an order of the channels. -/
def Part.abortEntries (s : Part) (o : Order) (which : Requester → Bool) : Part :=
  (arrange o.channels Channel.all).foldl (fun s c => s.discardEntries c .aborted fun e => which e.requester) s

/-- Service mode ended by the ground speed (R81), for a reason: 1 non-zero, 2 unknown. -/
def Part.endService (s : Part) (o : Order) (reason : Nat) : Part :=
  if s.service then
    let s : Part := ({ s with service := false } : Part).removeHolds .service
    let s : Part := s.abortMoves o fun w => w = .request .service
    let s : Part := s.abortEntries o fun r => r = .service
    (s.raise .serviceEnded none reason 0).takeAll o
  else s

/-- Service mode entered (R79). -/
def Part.enterService (s : Part) (o : Order) : Part :=
  let s : Part := { s with service := true }
  let s : Part := (arrange o.channels Channel.all).foldl (fun s c => s.putHold c ⟨.service, .untilRelease⟩) s
  let s : Part := s.abortMoves o fun w => w ≠ .override
  (s.abortEntries o fun r => r ≠ .service).takeAll o

/-! ### BOOK_STATUS (R55, R178) -/

/-- The actual value of a channel: its position in units, or the rpm of the latest appended record (R55). -/
def Part.actualValue (s : Part) (c : Channel) : Int :=
  match c.kind with
  | .positional p => s.unitsOf p (s.motionOf c).position
  | .speed v => match s.window.history.getLast? with
    | some r => (r.rpm.get v : Nat)
    | none => 0

/-- A channel's BOOK_STATUS frame (R55). -/
def Part.bookFrame (s : Part) (c : Channel) : FrameBody :=
  let e := s.entryOf c
  let m := s.motionOf c
  .bookStatus c m.phase m.referenced (e.hold.map (·.holder)) e.mode e.origin (e.last.map (·.outcome)) e.setpoint
    (s.actualValue c) s.window.number

/-- The six BOOK_STATUS frames queued, channels 0 to 5 (R172, R178). -/
def Part.sendBook (s : Part) : Part := Channel.all.foldl (fun s c => s.send (s.bookFrame c)) s

end Sys2Proof.Machine
end

