-- ==== Sys2Proof/Machine/Relief.lean ====
section
/-! DEFINITION. The Override Unit with its moves: Plug Relief opening and returning the concave (R149, R152, R153), separator
disengagement and engagement (R155 to R157, with the Setting Book's part in R77 and R78), and the harvesting condition (R9). -/

namespace Sys2Proof.Machine

/-! ### Plug Relief -/

/-- The target of a RELIEF move in counts: the relief gap clamped to the factory limits, or the position where that is larger (R149). -/
def Part.reliefTarget (s : Part) : Int :=
  let f := s.cal.factory.concave
  max (s.countsOf .concave (clamp f.min f.max s.params.relief.gap)) (s.motionOf .concave).position

/-- The latest instantaneous drum rpm as an event detail (R149 to R152): the low 16 bits of an rpm above 65535 (assumption 41). -/
def Part.drumDetail (s : Part) : Nat := s.capture.speed.drum.rpm % 65536

/-- Entry to OPENING, from SUSPECT (1) or RETURNING (2): the concave's move aborted, RELIEF handed, RELIEF_STARTED raised, the Feed
Restrain forced (R49, R149). A RELIEF move with base 0 at the hand-over passes to OPEN_HELD at once; one that waits preempts, unless
a release of the same instant is taken first (R140, R142). -/
def Part.enterOpening (s : Part) (entry : Nat) (releaseFirst : Bool) : Part :=
  let before := s.restrainFace
  let s : Part := s.setRelief .opening
  let s : Part := { s with override := { Override.reset with relief := .opening } }
  let s : Part := s.abort .concave .aborted
  let s : Part := s.hand .concave
    ((Move.blank .override .relief .whole none).aim (s.motionOf .concave).position s.reliefTarget)
  let s : Part := s.preemptUnless releaseFirst .concave
  let s : Part := s.raise .reliefStarted (some .concave) entry s.drumDetail
  (s.setRestrain (.restrained .relief 0)).announceRestrain before

/-- A RETURN move to the CONCAVE setpoint handed (R152, R153). -/
def Part.handReturn (s : Part) : Part :=
  s.handSet .concave .override .returning .whole (s.entryOf .concave).setpoint none

/-- Entry to RETURNING at the recover expiry: RETURN handed, the Feed Restrain back to LOAD (R50, R152). -/
def Part.enterReturning (s : Part) : Part :=
  let before := s.restrainFace
  let s : Part := s.setRelief .returning
  let s : Part := { s with override := { Override.reset with relief := .returning } }
  let s : Part := s.startWatch.handReturn
  let s : Part := (s.setRestrain (.restrained .load 0)).announceRestrain before
  s.take .concave

/-- Relief disabled by a parameter application (R145, R153). The notice of `Part.disarm` is sent at once at a close that builds a
record too, before that of its append (R53; assumption 25). -/
def Part.disableRelief (s : Part) : Part :=
  let s : Part := match s.override.relief with
    | .opening => (s.abort .concave .aborted).disarm.handReturn
    | .openHeld _ => s.disarm.handReturn
    | .returning | .spinup | .armed | .suspect => s.disarm
    | .disarmed => s
  s.take .concave

/-- Plug Relief judged at a parameter application (R145, R153). -/
def Part.reliefApplied (s : Part) : Part :=
  if s.params.relief.enable then s.judgeRelief.take .concave else s.disableRelief

/-! ### The harvesting condition (R9, R17, R97) -/

/-- The harvesting condition judged again. Its end sets the NOT_HARVESTING mark, unless the window in progress is about to be closed
by the same change of the separator state (assumption 19), and makes the fan pitch offset 0. -/
def Part.judgeHarvesting (s : Part) (mark : Bool) : Part :=
  let holds := s.harvestingHolds
  if s.harvesting = true ∧ holds = false then
    let s : Part := { s with harvesting := false }
    let s : Part :=
      if mark then { s with window := { s.window with marks := { s.window.marks with notHarvesting := true } } } else s
    s.setFanOffset 0
  else { s with harvesting := holds }

/-! ### The separator disengages -/

/-- A PARK move handed to a channel of the park mask that is referenced and not FAULTED (R155, R156). -/
def Part.park (s : Part) (p : PosChannel) : Part :=
  let c := p.channel
  let cal := s.cal.pos.get p
  let f := s.cal.factory.get c
  if cal.inParkMask && (s.motionOf c).referenced && !s.isFaulted c then
    s.handSet c .override .park .whole (clamp f.min f.max cal.parkValue) none
  else s

/-- The positional channels in an order of the channels. -/
def positionalOrder (o : Order) : List PosChannel :=
  (arrange o.channels Channel.all).filterMap fun c =>
    match c.kind with
    | .positional p => some p
    | .speed _ => none

/-- The Override Unit's step at a disengagement: every move aborted, relief disarmed, PARK moves handed unless a shutdown runs; the
channels left free take (R155). -/
def Part.overrideDisengage (s : Part) (o : Order) : Part :=
  let s : Part := (s.abortMoves o fun _ => true).disarm
  let s : Part := if s.shutdown.isSome then s else (positionalOrder o).foldl (fun s p => s.park p) s
  s.takeAll o

/-- The Setting Book's discard at a disengagement (R78). -/
def Part.bookDisengage (s : Part) (o : Order) : Part :=
  s.abortEntries o fun r => r.rank = 0

/-! ### The separator engages -/

/-- A positional channel away from its setpoint, or unreferenced, at an engagement (R77). -/
def Part.needsRestore (s : Part) (p : PosChannel) : Bool :=
  let m := s.motionOf p.channel
  !m.referenced
    || s.deadbandCounts p < distance m.position (unitsToCounts (s.cal.pos.get p).cal16 (s.entryOf p.channel).setpoint)

/-- The Setting Book's RESTORE entries at an engagement (R77). -/
def Part.bookEngage (s : Part) (o : Order) : Part :=
  (positionalOrder o).foldl (fun s p => if s.needsRestore p then (s.post p.channel .restore none).1 else s) s

end Sys2Proof.Machine
end

