-- ==== Sys2Proof/Machine/Store.lean ====
section
/-! DEFINITION. The Preset Store's operations and their ends (R159, R161, R162, R166), start-up and restarts (R169, R170), and the
shutdown (R167, R168). -/

namespace Sys2Proof.Machine

/-! ### Operations in flight (R159) -/

/-- An operation's code in STORE_DONE (R159). -/
def StoreKind.code : StoreKind → Nat
  | .save => 2
  | .erase => 3
  | .wipe => 4
  | .lockCal => 5
  | .saveCal => 7
  | .positionWrite => 8
  | .positionErase => 9

/-- The time a WIPE takes for one page, and an erase of one page, in µs. -/
def eraseTime : Nat := ms 40

/-- The time an erase with a write takes, in µs. -/
def rewriteTime : Nat := ms 60

/-- The time a write of an EMPTY page, or of the lock word, takes, in µs. -/
def programTime : Nat := ms 20

/-- The state of a page as last read. -/
def Part.pageState (s : Part) (page : Nat) : PageState := s.store.pageStates.getD page .damaged

/-- An operation begun now on pages, the last of them to read the words given. -/
def Part.beginOp (s : Part) (kind : StoreKind) (pages : List Nat) (image : List Word) (time : Nat) : Part :=
  { s with store := { s.store with op := some ⟨kind, pages, image, s.now, s.now + time⟩ } }

/-- A page reads the words given, and its state is set to what they read (R158, R159). -/
def Part.readBack (s : Part) (page : Nat) (words : List Word) : Part :=
  { s with store := { s.store with
      memory := s.store.memory.setPage page words
      pageStates := s.store.pageStates.set page (judgePage page words) } }

/-- STORE_DONE raised (R159); `page` is 0xFF for a WIPE. -/
def Part.storeDone (s : Part) (kind : StoreKind) (page : Nat) (good : Bool) : Part :=
  s.raise .storeDone none kind.code (page + 256 * (if good then 0 else 1))

/-- The page state that makes an operation's read-back good: EMPTY for an erase, VALID for a write (R159). -/
def StoreKind.goodState : StoreKind → PageState
  | .erase | .wipe | .positionErase => .empty
  | .save | .lockCal | .saveCal | .positionWrite => .valid

/-- The end of an operation on one page: read back, STORE_DONE, then what a good or failed end brings. Nothing happens where no
operation of the kind is in flight (assumption 2). -/
def Part.completeOp (s : Part) (kind : StoreKind) (r : ReadBack) (after : Part → Bool → Part) : Part :=
  match s.store.op with
  | some op =>
    if op.kind = kind then
      s.onExpiry (some op.endsAt) fun s =>
        let page := op.pages.headD 0
        let s : Part := s.readBack page (r.getD op.image)
        let good : Bool := s.pageState page = kind.goodState
        let s : Part := { s with store := { s.store with op := none } }
        after (s.storeDone kind page good) good
    else s
  | none => s

/-- The end of a WIPE: every page read back, one STORE_DONE (R159, R161). Pages not named read erased. -/
def Part.completeWipe (s : Part) (r : List (Nat × List Word)) : Part :=
  match s.store.op with
  | some op =>
    if op.kind = .wipe then
      s.onExpiry (some op.endsAt) fun s =>
        let s : Part := op.pages.foldl (fun s p => s.readBack p ((r.lookup p).getD erasedWords)) s
        let good : Bool := op.pages.all fun p => s.pageState p = .empty
        ({ s with store := { s.store with op := none } } : Part).storeDone .wipe 0xFF good
    else s
  | none => s

/-- How many pages of an operation have been dealt with by now: pages of a WIPE each after 40 ms, none of another operation. -/
def StoreOp.done (op : StoreOp) (now : Nat) : Nat :=
  match op.kind with
  | .wipe => min (op.pages.length - 1) ((now - op.startedAt) / eraseTime)
  | .save | .erase | .lockCal | .saveCal | .positionWrite | .positionErase => 0

/-- An operation ended by a fall of the supply or a restart, without STORE_DONE: the pages dealt with are erased, the page concerned
is DAMAGED or EMPTY, the later ones stay (R159; assumption 8). -/
def Part.dropOp (s : Part) : Part :=
  match s.store.op with
  | some op =>
    let done := op.done s.now
    let torn := op.pages.getD done 0
    let m := (op.pages.take done).foldl (fun m p => Memory.setPage m p erasedWords) s.store.memory
    { s with
      freeIndex := s.freeIndex + 1
      store := { s.store with op := none, memory := m.setPage torn (tornWords torn s.freeIndex) } }
  | none => s

/-! ### The position record (R166) -/

/-- The number a POSITION_WRITE carries: the last record's plus one (R166; assumption 27). -/
def nextRecordNumber (n : Nat) : Nat := if n < 4294967295 then n + 1 else Config.recordNumberWrap % 4294967295 + 1

/-- The record of the channels and the active slot as they stand (R166). -/
def Part.positionRecord (s : Part) : PositionRecord where
  number := nextRecordNumber s.store.recordNumber
  slot := s.store.activeSlot
  position := .build fun p => (s.motionOf p.channel).position
  referenced := .build fun p => (s.motionOf p.channel).referenced
  setpoint := .build fun c => (s.entryOf c).setpoint
  origin := .build fun c => (s.entryOf c).origin

/-- A channel is at rest: neither WAITING, DRIVING nor COASTING (R167). -/
def Motion.atRest (m : Motion) : Bool :=
  match m.phase with
  | .idle | .faulted _ => true
  | .waiting | .driving | .coasting => false

/-- The POSITION_WRITE of a shutdown started, when every channel is at rest and no operation is in flight (R167 step 3). -/
def Part.startPositionWrite (s : Part) : Part :=
  if s.shutdown.isSome && s.store.op.isNone && Channel.all.all (fun c => (s.motionOf c).atRest) then
    s.beginOp .positionWrite [1] (recordPage s.positionRecord) (if s.pageState 1 = .empty then programTime else rewriteTime)
  else s

/-! ### Shutdown (R167, R168) -/

/-- A shutdown entered: lists discarded, moves aborted, Plug Relief DISARMED, the deadline timer started (R167 steps 1 and 2, R78). -/
def Part.enterShutdown (s : Part) (kind : ShutdownKind) (o : Order) : Part :=
  let s : Part := { s with shutdown := some ⟨kind, some (s.now + deadlineTime)⟩ }
  ((s.abortEntries o fun _ => true).abortMoves o fun _ => true).disarm

/-- PHOLD released: the part takes no further event (R167). -/
def Part.release (s : Part) : Part := { s with power := .released, phold := false }

/-- A shutdown cancelled, or ended as if cancelled: requests accepted again, Plug Relief judged (R168). -/
def Part.cancelShutdown (s : Part) : Part := ({ s with shutdown := none } : Part).judgeRelief

/-- The POSITION_WRITE is in flight. -/
def Part.writingRecord (s : Part) : Bool :=
  match s.store.op with
  | some op => op.kind = .positionWrite
  | none => false

/-! ### Start-up (R169, R170) -/

/-- What start-up reads from the store (R169 steps 1 to 3). -/
structure StartReading where
  pageStates : List PageState
  cal : CalSet
  lockMark : Bool
  record : Option PositionRecord
  slot : Option Nat
  preset : Preset
  deriving DecidableEq, Repr

/-- The usable preset of a slot: its page VALID and admitted by the checks of a LOAD (assumption 12). -/
def Memory.presetOf (m : Memory) (states : List PageState) (slot : Nat) : Option Preset :=
  if states.getD (slotPage slot) .damaged = .valid then readPreset (m.page (slotPage slot)) else none

/-- Steps 1 to 3 of start-up, as far as they read the store. -/
def Memory.startReading (m : Memory) : StartReading :=
  let states := m.judge
  let calValid : Bool := states.getD 0 .damaged = .valid
  let cal : Calibration := if calValid then readCalibration (m.page 0) else .default
  let record := if states.getD 1 .damaged = .valid then some (readRecord (m.page 1)) else none
  let loaded : Option (Nat × Preset) := match record.bind (·.slot) with
    | some n => (m.presetOf states n).map fun p => (n, p)
    | none => none
  { pageStates := states
    cal := ⟨cal, calValid⟩
    lockMark := calValid && (m.page 0).getD lockWordIndex 0xFFFF = lockMarkWord
    record := record
    slot := loaded.map (·.1)
    preset := (match loaded with
      | some x => x.2
      | none => Preset.fallback cal.factory).clampEnvelopes cal.factory }

/-- A channel entry after start-up (R169 steps 2 and 3). -/
def StartReading.entry (r : StartReading) (c : Channel) : BookEntry :=
  let e := r.preset.envelope.get c
  match r.record with
  | some rec => .reset (clamp e.min e.max (rec.setpoint.get c)) (rec.origin.get c) (r.preset.initialMode.get c)
  | none => .reset (clamp e.min e.max (r.preset.initialSetpoint.get c)) .preset (r.preset.initialMode.get c)

/-- A channel of the Motion Engine after start-up (R101, R114, R169 step 2). -/
def StartReading.motion (r : StartReading) (c : Channel) : Motion :=
  let m := Motion.reset (if r.cal.valid then .idle else .faulted .noCalibration)
  match c.kind, r.record with
  | .positional p, some rec => { m with position := rec.position.get p, referenced := rec.referenced.get p && r.cal.valid }
  | .positional _, none | .speed _, _ => m

/-- The state of the part at the end of start-up's steps 1 to 5, before anything is raised. -/
def Part.startState (s : Part) (causes : ResetCauses) : Part :=
  let r := s.store.memory.startReading
  { now := s.now
    power := .on
    lines := s.lines
    phold := true
    shutdown := none
    harvesting := false
    capture := { Capture.reset with sepQualifyAt := if s.lines.sep then some (s.now + sepQualifyTime) else none }
    window := .reset s.now r.preset.windowLength
    evaluator := .reset
    book := .build r.entry
    fanTarget := (r.entry .fan).setpoint
    service := false
    settle := r.preset.settleCount
    louverTrim := 0
    fanOffset := 0
    motion := .build r.motion
    slots := []
    rankOrder := r.preset.rankList
    override := .reset
    store := { memory := s.store.memory, pageStates := r.pageStates, op := some (.positionErase s.now), inhibit := false
               lockMark := r.lockMark, activeCal := r.cal, pendingCal := r.cal, activePreset := r.preset
               pendingPreset := r.preset, loadMark := none, activeSlot := r.slot
               recordNumber := match r.record with
                 | some rec => rec.number
                 | none => 0
               resetCauses := causes }
    bus := .reset
    freeIndex := s.freeIndex }

/-- A flag as 1 or 0. -/
def bit (b : Bool) : Nat := if b then 1 else 0

/-- The reset-cause record as START_UP carries it (R170). -/
def ResetCauses.code (r : ResetCauses) : Nat := bit r.powerOn + 2 * bit r.commanded + 4 * bit r.supplyDip

/-- Start-up (R169): the store read and the part reset, START_UP, then a CHANNEL_FAULTED for each channel without a valid
calibration; with KEY low, key-off shutdown at once. An operation still in flight ends first (assumptions 5 and 36). -/
def Part.startUp (s : Part) (causes : ResetCauses) : Part :=
  let s : Part := s.dropOp.startState causes
  let s : Part := s.raise .startUp none causes.code (s.store.recordNumber % 65536)
  let s : Part :=
    if s.store.activeCal.valid then s
    else Channel.all.foldl (fun s c => s.raise .channelFaulted (some c) FaultCause.noCalibration.code 0) s
  if s.lines.key then s else s.enterShutdown .keyOff ⟨[], []⟩

/-- A power-on: the reset-cause record holds POWER_ON alone (R170). -/
def Part.powerUp (s : Part) : Part := s.startUp ⟨true, false, false⟩

/-- The end of a commanded shutdown: a restart with cause COMMANDED, or the release of PHOLD where KEY is low (R170). -/
def Part.endCommanded (s : Part) : Part :=
  if s.lines.key then s.startUp { s.store.resetCauses with commanded := true } else s.release

/-- The completion of the POSITION_WRITE (R167 step 4, R168, R170). -/
def Part.recordWritten (s : Part) : Part :=
  match s.shutdown with
  | some ⟨.commanded, _⟩ => s.endCommanded
  | some ⟨.keyOff, _⟩ =>
    if s.lines.key then s.cancelShutdown.beginOp .positionErase [1] erasedWords eraseTime else s.release
  | none => s

/-- The expiry of the deadline timer: PHOLD released, or a commanded restart (R168, R170). -/
def Part.deadlinePasses (s : Part) : Part :=
  match s.shutdown with
  | some ⟨.commanded, _⟩ => s.endCommanded
  | some ⟨.keyOff, _⟩ => s.release
  | none => s

/-- KEY returns (R167, R168, R170). -/
def Part.keyBack (s : Part) : Part :=
  match s.power, s.shutdown with
  | .released, _ => s.powerUp
  | .off, _ => s
  | .on, some ⟨.keyOff, _⟩ =>
    if s.writingRecord then { s with shutdown := some ⟨.keyOff, none⟩ } else s.cancelShutdown
  | .on, some ⟨.commanded, _⟩ | .on, none => s

/-- KEY falls (R167, R170): a shutdown entered, or, in a key-off shutdown that KEY has left to the end of its write, its deadline
started again (assumption 27). -/
def Part.keyDown (s : Part) (o : Order) : Part :=
  match s.shutdown with
  | none => s.enterShutdown .keyOff o
  | some ⟨.keyOff, none⟩ => { s with shutdown := some ⟨.keyOff, some (s.now + deadlineTime)⟩ }
  | some ⟨.keyOff, some _⟩ | some ⟨.commanded, _⟩ => s

/-! ### Accepted store requests (R161, R162) -/

/-- An accepted LOAD: the pending set filled and marked. -/
def Part.loadPreset (s : Part) (slot : Nat) (p : Preset) : Part :=
  { s with store := { s.store with pendingPreset := p, loadMark := some slot } }

/-- An accepted SAVE begun. -/
def Part.beginSave (s : Part) (slot : Nat) : Part :=
  s.beginOp .save [slotPage slot] (presetPage (slotPage slot) s.store.pendingPreset) rewriteTime

/-- An accepted ERASE begun. -/
def Part.beginErase (s : Part) (slot : Nat) : Part := s.beginOp .erase [slotPage slot] erasedWords eraseTime

/-- The pages of a WIPE in its order: 1 to 17, then 0 where the calibration is included. -/
def wipePages (includeCal : Bool) : List Nat := (List.range 17).map (· + 1) ++ (if includeCal then [0] else [])

/-- An accepted WIPE begun. -/
def Part.beginWipe (s : Part) (includeCal : Bool) : Part :=
  s.beginOp .wipe (wipePages includeCal) erasedWords (eraseTime * (wipePages includeCal).length)

/-- An accepted SAVE_CAL begun. -/
def Part.beginSaveCal (s : Part) : Part := s.beginOp .saveCal [0] (calibrationPage s.store.pendingCal.figures) rewriteTime

/-- An accepted LOCK_CAL begun: only the lock word is programmed. -/
def Part.beginLockCal (s : Part) : Part :=
  s.beginOp .lockCal [0] ((s.store.memory.page 0).set lockWordIndex lockMarkWord) programTime

end Sys2Proof.Machine
end

