-- ==== Sys2Proof/Machine/Figures.lean ====
section
/-! DEFINITION. Sensor Capture's accumulators (R1 to R7) and the derived figures of a window record (R23 to R33). -/

namespace Sys2Proof.Machine

/-! ### Accumulators -/

/-- The most a 16-bit counter of Sensor Capture holds (R2, R4). -/
def counterTop : Nat := 65535

/-- A candidate hit at a time (R1, R2). -/
def LossCapture.candidate (l : LossCapture) (now deadTime : Nat) : LossCapture :=
  let rejected : Bool := match l.lastHit with
    | some t => now - t < deadTime
    | none => false
  if rejected then { l with doubleHits := min counterTop (l.doubleHits + 1) }
  else if l.hits = counterTop then { l with saturated := true, lastHit := some now }
  else { l with hits := l.hits + 1, lastHit := some now }

/-- An edge qualifies under an edge selection (R3). -/
def EdgeSelection.admits : EdgeSelection → Edge → Bool
  | .rising, .rising | .falling, .falling | .both, _ => true
  | .rising, .falling | .falling, .rising => false

/-- The period a qualifying edge closes, none where it is overdue (R3). -/
def SpeedCapture.closedPeriod (c : SpeedCapture) (now : Nat) : Option Nat :=
  match c.lastEdge with
  | some t => if now - t ≤ longestPeriod then some (now - t) else none
  | none => none

/-- A closed period added to the window's sums; a period that finds N at 65535 is not added (R4). -/
def SpeedCapture.addPeriod (c : SpeedCapture) (p : Nat) : SpeedCapture :=
  if c.count = counterTop then c else { c with count := c.count + 1, periodSum := c.periodSum + p }

/-- The instantaneous rpm of a closed period (R5); k is the index of the free value used for a period of 0 µs (assumption 13). -/
def instantRpm (cal : SpeedCal) (p k : Nat) : Nat :=
  if p = 0 then Config.zeroPeriodRpm k else roundHalfUp 960000000 (p * cal.teeth * cal.ratio16)

/-- A rising edge on a PWM input: it completes or discards the open period, and opens the next (R6). -/
def PwmCapture.rise (c : PwmCapture) (now : Nat) : PwmCapture :=
  let opened : Option OpenPwm := some ⟨now, 0, 0⟩
  match c.opened with
  | some o =>
    if o.falls = 1 ∧ now - o.rise ≤ longestPwmPeriod then
      { c with sumHigh := c.sumHigh + (o.fall - o.rise), sumTotal := c.sumTotal + (now - o.rise), opened := opened }
    else { c with opened := opened }
  | none => { c with opened := opened }

/-- A falling edge on a PWM input: the first of an open period marks its high time (R6). -/
def PwmCapture.fall (c : PwmCapture) (now : Nat) : PwmCapture :=
  { c with opened := c.opened.map fun o =>
      if o.falls = 0 then { o with fall := now, falls := 1 } else { o with falls := 2 } }

/-- The duty of a window's sums in pm, absent without a complete period (R6). -/
def PwmCapture.duty (c : PwmCapture) : Option Nat :=
  if c.sumTotal = 0 then none else some (roundHalfUp (c.sumHigh * 1000) c.sumTotal)

/-- The gate's time up to now added to the accumulator in whole ms, the rest carried (R7). -/
def TailGate.run (g : TailGate) (now : Nat) : TailGate :=
  match g.openSince with
  | some t =>
    let total := g.carry + (now - t)
    { openSince := some now, activeMs := g.activeMs + total / 1000, carry := total % 1000 }
  | none => g

/-- The gate set open or closed at a time (R7). -/
def TailGate.setOpen (g : TailGate) (now : Nat) (opened : Bool) : TailGate :=
  let g := g.run now
  if opened then { g with openSince := some (g.openSince.getD now) } else { g with openSince := none }

/-- The tailings gate set by TAIL and the separator state (R7). -/
def Part.setGate (s : Part) : Part :=
  { s with capture := { s.capture with tail := s.capture.tail.setOpen s.now (s.lines.tail && s.capture.engaged) } }

/-! ### Figures -/

/-- A loss index (R23). -/
def lossIndex (hits gain e : Nat) : Nat := min 65535 (roundHalfUp (hits * gain * 60000) (e * 64))

/-- The sieve loss (R24). -/
def sieveLoss (l r : Nat) : Nat := roundHalfUp (l + r) 2

/-- The side imbalance in pm (R25). -/
def sideImbalance (l r : Nat) : Int :=
  if l + r = 0 then 0 else roundSigned (((l : Int) - (r : Int)) * 1000) (l + r)

/-- The window rpm (R26); k is the index of the free value used for a sum of 0 µs (assumption 13). -/
def windowRpm (cal : SpeedCal) (n sum k : Nat) : Nat :=
  if n = 0 then 0
  else if sum = 0 then min 4095 (Config.zeroSumRpm k)
  else min 4095 (roundHalfUp (960000000 * n) (sum * cal.teeth * cal.ratio16))

/-- The tailings occupancy in pm (R27). -/
def tailPm (activeMs e : Nat) : Nat := min 1000 (roundHalfUp (activeMs * 1000) e)

/-- A tilt duty is valid: present and in 50..950 (R28). -/
def dutyValid (d : Option Nat) : Bool :=
  match d with
  | some n => 50 ≤ n && n ≤ 950
  | none => false

/-- The angle of a valid duty; an invalid one keeps the held angle (R28, R29). -/
def tiltAngle (d : Option Nat) (trim held : Int) : Int :=
  if dutyValid d then clamp (-300) 300 (roundSigned (((d.getD 0 : Nat) - 500 - trim) * 3) 4) else held

/-- The feeder load in pm (R30). -/
def feederPm (d : Option Nat) (rest span : Nat) : Nat :=
  match d with
  | some n => min 1000 (roundHalfUp ((n - rest) * 1000) span)
  | none => 0

/-- The drum droop in pm (R31). -/
def droopPm (rpm : Nat) (setpoint : Int) : Nat :=
  if (rpm : Int) < setpoint then roundHalfUp ((setpoint - rpm).toNat * 1000) setpoint.toNat else 0

/-- The load index (R32). -/
def loadIndex (droop tail feeder : Nat) : Nat := max droop (max tail feeder)

/-! ### The latched accumulators of a close (R2, R12 step 1) -/

/-- What a close latches. -/
structure Latched where
  elapsed : Nat
  cause : CloseCause
  loss : PerLoss LossCapture
  speed : PerSpeed SpeedCapture
  duty : PerPwm (Option Nat)
  tailActiveMs : Nat
  marks : Marks
  deriving DecidableEq, Repr

/-- A loss input as latched: the saturation mark is set where double hits outnumber hits (R2). -/
def LossCapture.latch (l : LossCapture) : LossCapture := { l with saturated := l.saturated || l.hits < l.doubleHits }

/-- The window's elapsed ms: W × 100 at a FULL close, whole ms since the start at a PARTIAL one (R10, R15; assumptions 20, 31). -/
def Part.elapsedMs (s : Part) (cause : CloseCause) : Nat :=
  match cause with
  | .full => s.window.length * 100
  | .partialClose => min (s.window.length * 100) ((s.now - s.window.startedAt) / 1000)

/-- The accumulators latched (R12 step 1). Tail-active ms never exceed the elapsed ms (R7, assumption 20). -/
def Part.latched (s : Part) (cause : CloseCause) : Latched where
  elapsed := s.elapsedMs cause
  cause := cause
  loss := .build fun i => (s.capture.loss.get i).latch
  speed := s.capture.speed
  duty := .build fun i => (s.capture.pwm.get i).duty
  tailActiveMs := min (s.elapsedMs cause) (s.capture.tail.run s.now).activeMs
  marks := s.window.marks

/-- The accumulators cleared, the timing state kept (R12). -/
def Part.clearAccumulators (s : Part) : Part :=
  { s with capture := { s.capture with
      loss := .build fun i => { s.capture.loss.get i with hits := 0, doubleHits := 0, saturated := false }
      speed := .build fun v => { s.capture.speed.get v with count := 0, periodSum := 0 }
      pwm := .build fun i => { s.capture.pwm.get i with sumHigh := 0, sumTotal := 0 }
      tail := { s.capture.tail.run s.now with activeMs := 0 } } }

/-! ### Run counts (R19, R20) -/

/-- A loss input's silent run count and flag after a record; `silentAlone` says that another input had hits. -/
def SilentRun.update (r : SilentRun) (hits : Nat) (notHarvesting othersHit : Bool) : SilentRun :=
  if 1 ≤ hits then ⟨0, false⟩
  else if notHarvesting || !othersHit then r
  else
    let n := min 4 (r.count + 1)
    ⟨n, r.silent || n = 4⟩

/-- A speed input's fault run count after a record. -/
def faultRunUpdate (n : Nat) (stopped : Bool) : Nat := if stopped then min 2 (n + 1) else 0

/-- The other two loss inputs of the record had hits (R19). -/
def Latched.othersHit (l : Latched) (i : LossInput) : Bool :=
  (LossInput.all.filter (· ≠ i)).any fun j => 1 ≤ (l.loss.get j).hits

/-- A speed input is stopped for an engaged window (R20). -/
def Part.stoppedEngaged (s : Part) (l : Latched) (v : SpeedChannel) : Bool :=
  s.window.engaged && (l.speed.get v).count = 0

/-- The silent runs after the record (R19). -/
def Part.nextSilentRuns (s : Part) (l : Latched) : PerLoss SilentRun :=
  .build fun i => (s.window.silentRun.get i).update (l.loss.get i).hits l.marks.notHarvesting (l.othersHit i)

/-- The tag set of the record (R15, R18 to R20). -/
def Part.tagsOf (s : Part) (l : Latched) : Tags where
  short := l.cause = .partialClose
  shifted := l.marks.shifted
  notHarvesting := l.marks.notHarvesting
  saturated := LossInput.all.any fun i => (l.loss.get i).saturated
  sensorSilent := LossInput.all.any fun i => ((s.nextSilentRuns l).get i).silent
  speedFault := SpeedChannel.all.any fun v => s.stoppedEngaged l v
  tiltFault := !(dutyValid l.duty.roll && dutyValid l.duty.pitch)
  relief := l.marks.relief

/-- The window record (R15, R33). -/
def Part.recordOf (s : Part) (l : Latched) : WindowRecord :=
  let cal := s.cal
  let li : LossInput → Nat := fun i => lossIndex (l.loss.get i).hits (cal.gain.get i) l.elapsed
  let rpm : SpeedChannel → Nat → Nat := fun v k =>
    windowRpm (cal.speed.get v) (l.speed.get v).count (l.speed.get v).periodSum k
  let drum := rpm .drum s.freeIndex
  let tail := tailPm l.tailActiveMs l.elapsed
  let feeder := feederPm l.duty.feeder cal.feedZero cal.feedSpan
  let droop := droopPm drum (s.book.get .drum).setpoint
  { number := s.window.number
    elapsed := l.elapsed
    cause := l.cause
    hits := .build fun i => (l.loss.get i).hits
    tailActiveMs := l.tailActiveMs
    speedCount := .build fun v => (l.speed.get v).count
    periodSum := .build fun v => (l.speed.get v).periodSum
    duty := l.duty
    lossIndex := .build li
    sl := sieveLoss (li .left) (li .right)
    imb := sideImbalance (li .left) (li .right)
    rpm := ⟨drum, rpm .fan (s.freeIndex + 1)⟩
    tailPm := tail
    roll := tiltAngle l.duty.roll cal.rollZero s.window.heldRoll
    pitch := tiltAngle l.duty.pitch cal.pitchZero s.window.heldPitch
    feederPm := feeder
    droopPm := droop
    load := loadIndex droop tail feeder
    tags := s.tagsOf l }

/-- LOSS_SENSOR_SILENT and SPEED_SENSOR raised for the runs that reach their ends at this record (R19, R20). The rules put neither
kind before the other: that LOSS_SENSOR_SILENT is queued first is the model's choice (assumption 25). -/
def Part.raiseRuns (s : Part) (l : Latched) : Part :=
  let silent := s.nextSilentRuns l
  let s : Part := LossInput.all.zipIdx.foldl (fun t x =>
    if (silent.get x.1).silent && !(s.window.silentRun.get x.1).silent then t.raise .lossSensorSilent none x.2 0 else t) s
  SpeedChannel.all.zipIdx.foldl (fun t x =>
    if s.stoppedEngaged l x.1 && s.window.faultRun.get x.1 = 1 then t.raise .speedSensor none x.2 0 else t) s

/-- The Window Unit's runs and held angles after the record (R19, R20, R29). -/
def Part.advanceRuns (s : Part) (l : Latched) (r : WindowRecord) : Part :=
  { s with
    freeIndex := s.freeIndex + 2
    window := { s.window with
      silentRun := s.nextSilentRuns l
      faultRun := .build fun v => faultRunUpdate (s.window.faultRun.get v) (s.stoppedEngaged l v)
      heldRoll := r.roll
      heldPitch := r.pitch } }

end Sys2Proof.Machine
end

