-- ==== Sys2Proof/Machine/Evaluate.lean ====
section
/-! DEFINITION. The Evaluator at an appended record: the Evaluation (R34 to R36), symptoms and side (R37 to R40), grain quality
(R41 to R44), the Feed Restrain (R45 to R53). -/

namespace Sys2Proof.Machine

/-! ### The choice of records (R34) -/

/-- The candidates, newest first: the records newer than the newest spoiled one. -/
def evaluationCandidates (history : List WindowRecord) : List WindowRecord :=
  history.reverse.takeWhile fun r => !r.tags.spoiled

/-- The records averaged: the newest clean candidates, as many as the averaging depth; none where there are too few. -/
def chosenRecords (history : List WindowRecord) (depth : Nat) : Option (List WindowRecord) :=
  let chosen := ((evaluationCandidates history).filter fun r => r.tags.clean).take depth
  if chosen.length = depth then some chosen else none

/-- The sum of one figure over records. -/
def sumOf (records : List WindowRecord) (f : WindowRecord → Nat) : Nat := (records.map f).sum

/-- The averaged figures (R35). -/
def averagesOf (records : List WindowRecord) (depth : Nat) : Averages where
  sl := roundHalfUp (sumOf records (·.sl)) depth
  liW := roundHalfUp (sumOf records (·.lossIndex.walker)) depth
  tailPm := roundHalfUp (sumOf records (·.tailPm)) depth
  droopPm := roundHalfUp (sumOf records (·.droopPm)) depth
  imb := roundSigned (records.map (·.imb)).sum depth

/-- The averages of an Evaluation, none where it is invalid (R34, R35). -/
def evaluate (history : List WindowRecord) (depth : Nat) : Option Averages :=
  (chosenRecords history depth).map fun records => averagesOf records depth

/-! ### Symptoms (R37, R38, R40, R43) -/

/-- The figure a window-based symptom compares (R37); the grain symptoms' figures are the held fresh report's. -/
def Averages.figure (a : Averages) : Symptom → Nat
  | .sieveLoss => a.sl
  | .walkerLoss => a.liW
  | .tailingsHigh => a.tailPm
  | .drumDroop => a.droopPm
  | .sideImbalance => a.imb.natAbs
  | .grainDirty | .grainBroken => 0

/-- A window-based symptom's next state: kept on an invalid Evaluation (R38). -/
def windowSymptom (t : ThresholdPair) (a : Option Averages) (k : Symptom) (present : Bool) : Bool :=
  match a with
  | some a => t.judge (a.figure k) present
  | none => present

/-- The held fresh report is current: it exists and its age is below the limit (R43). -/
def currentReport (held : Option FreshReport) (maxAge : Nat) : Option QualityReport :=
  match held with
  | some f => if f.age < maxAge then some f.report else none
  | none => none

/-- A grain symptom's next state: CLEAR while unavailable, else by hysteresis (R43). -/
def grainSymptom (t : ThresholdPair) (current : Option QualityReport) (figure : QualityReport → Nat) (present : Bool) : Bool :=
  match current with
  | some q => t.judge (figure q) present
  | none => false

/-- The symptom set of a new Evaluation. -/
def nextSymptoms (t : PerSymptom ThresholdPair) (a : Option Averages) (current : Option QualityReport)
    (present : PerSymptom Bool) : PerSymptom Bool :=
  .build fun k =>
    match k with
    | .grainDirty => grainSymptom t.grainDirty current (·.foreignPm) present.grainDirty
    | .grainBroken => grainSymptom t.grainBroken current (·.broken) present.grainBroken
    | .sieveLoss | .walkerLoss | .tailingsHigh | .drumDroop | .sideImbalance =>
      windowSymptom (t.get k) a k (present.get k)

/-- The side of SIDE_IMBALANCE (R40). -/
def nextSide (a : Option Averages) (imbalanced : Bool) (side : Side) : Side :=
  match a with
  | some a =>
    if imbalanced then (if 0 < a.imb then .left else if a.imb < 0 then .right else side) else side
  | none => side

/-- The held fresh report one window older (R42). -/
def olderReport (held : Option FreshReport) : Option FreshReport :=
  held.map fun f => { f with age := min 255 (f.age + 1) }

/-- The age of the held fresh report, for QUALITY_STALE (R44). -/
def reportAge (held : Option FreshReport) : Nat :=
  match held with
  | some f => f.age
  | none => 0

/-- The sample count of the last received report, for QUALITY_STALE (R44). -/
def lastSamples (q : Option QualityReport) : Nat :=
  match q with
  | some q => q.samples
  | none => 0

/-- The Evaluation formed from the appended record (R34 to R44). -/
def Part.formEvaluation (s : Part) (r : WindowRecord) : Part :=
  let before := s.evaluator.evaluation
  let held := olderReport s.evaluator.freshReport
  let current := currentReport held s.params.qualityMaxAge
  let averages := evaluate s.window.history s.params.averagingDepth
  let symptoms := nextSymptoms s.params.thresholds averages current before.symptoms
  let s : Part := { s with evaluator := { s.evaluator with
      freshReport := held
      evaluation := ⟨r.number, averages, symptoms, current.isSome, nextSide averages symptoms.sideImbalance before.side⟩ } }
  if before.grainAvailable && current.isNone then
    s.raise .qualityStale none (reportAge held) (lastSamples s.evaluator.lastReport)
  else s

/-- A QUALITY_REPORT taken (R41). -/
def Part.takeReport (s : Part) (broken foreignPm samples : Nat) : Part :=
  let q : QualityReport := ⟨min 1000 broken, min 1000 foreignPm, samples⟩
  { s with evaluator := { s.evaluator with
      lastReport := some q
      freshReport := if s.params.qualityMinSamples ≤ samples then some ⟨q, 0⟩ else s.evaluator.freshReport } }

/-! ### The Feed Restrain (R46 to R49, R53) -/

/-- The state after a record whose relief is neither OPENING nor OPEN_HELD and which does not carry NOT_HARVESTING (R46 to R48). -/
def Restrain.onLoad (r : Restrain) (p : RestrainParams) (load : Nat) : Restrain :=
  let count : Nat → Restrain := fun n => if p.confirm ≤ n then .restrained .load 0 else .pending n
  match r with
  | .opened => if p.setAt ≤ load then count 1 else .opened
  | .pending n => if p.setAt ≤ load then count (n + 1) else .opened
  | .restrained cause held =>
    let held := min 255 (held + 1)
    if load ≤ p.clearAt ∧ p.minHold ≤ held then .opened else .restrained cause held

/-- The state after a record while relief is OPENING or OPEN_HELD (R49). -/
def Restrain.whileOpen : Restrain → Restrain
  | .restrained cause held => .restrained cause (min 255 (held + 1))
  | .opened => .opened
  | .pending n => .pending n

/-- The Feed Restrain's state after an appended record (R46 to R49). -/
def Part.restrainAfter (s : Part) (r : WindowRecord) : Restrain :=
  if s.override.relief.opens then s.evaluator.restrain.whileOpen
  else if r.tags.notHarvesting then .opened
  else s.evaluator.restrain.onLoad s.params.restrain r.load

/-- A notice is due at an append (R53 case 1). -/
def Part.noticeDue (s : Part) (before : RestrainFace) : Bool :=
  s.restrainFace.1 ≠ before || s.reduction ≠ s.evaluator.sentReduction ||
    (match s.evaluator.restrain with
     | .restrained _ _ => true
     | .opened | .pending _ => false)
    || !s.evaluator.appended

/-- The Feed Restrain judges the appended record and sends the notice due (R46 to R49, R53). -/
def Part.judgeLoad (s : Part) (r : WindowRecord) : Part :=
  let before := s.restrainFace.1
  let next := s.restrainAfter r
  let s : Part := { s with evaluator := { s.evaluator with restrain := next, latestLoad := r.load } }
  let s : Part := if s.noticeDue before then s.sendRestrain else s
  { s with evaluator := { s.evaluator with appended := true } }

end Sys2Proof.Machine
end

