-- ==== Sys2Proof/Machine/Followers.lean ====
section
/-! DEFINITION. What reads records and Evaluations and acts on settings: the Trim Engine (R84 to R89), the Slope Follower (R90 to
R100) and speed regulation (R125). -/

namespace Sys2Proof.Machine

/-! ### The Trim Engine -/

/-- The conditions under which the Trim Engine acts on an Evaluation (R86). -/
def Part.mayTrim (s : Part) : Bool :=
  s.evaluator.evaluation.averages.isSome && s.harvesting && s.override.relief = .armed && s.shutdown.isNone && s.settle = 0

/-- A channel in mode AUTO without a hold (R87, R91, R93, R96). -/
def Part.isAutomatic (s : Part) (c : Channel) : Bool := (s.entryOf c).mode = .auto && (s.entryOf c).hold.isNone

/-- The candidate target of an entry: setpoint plus step, clamped to the envelope (R87). -/
def Part.trimTarget (s : Part) (e : TrimEntry) : Int := s.clampToEnvelope e.channel ((s.entryOf e.channel).setpoint + e.step)

/-- A channel is positional. -/
def Channel.positional (c : Channel) : Bool :=
  match c.kind with
  | .positional _ => true
  | .speed _ => false

/-- An entry of the Trim Table meets every condition of R87. -/
def Part.entryQualifies (s : Part) (e : TrimEntry) : Bool :=
  let symptoms := s.evaluator.evaluation.symptoms
  let c := e.channel
  e.enabled && symptoms.get e.required
    && (match e.excluded with
        | none => true
        | some k => !symptoms.get k)
    && s.isAutomatic c
    && (s.motionOf c).phase = .idle && !s.blocked c
    && (!Channel.positional c || (s.motionOf c).referenced)
    && s.trimTarget e ≠ (s.entryOf c).setpoint

/-- The first qualifying entry with its index (R87). -/
def Part.scanTable (s : Part) : Option (TrimEntry × Nat) := s.params.trimTable.zipIdx.find? fun x => s.entryQualifies x.1

/-- The Trim Engine on an appended Evaluation (R84, R86 to R88). -/
def Part.trim (s : Part) : Part :=
  let s : Part := { s with settle := s.settle - 1 }
  if s.mayTrim then
    match s.scanTable with
    | some (e, i) =>
      match s.post e.channel .trim (some (s.trimTarget e)) with
      | (t, .taken) =>
        ({ t with settle := t.params.settleCount } : Part).raise .trimApplied (some e.channel) i
          (detail16 (t.entryOf e.channel).setpoint)
      | (_, .listed) | (_, .retargeted) | (_, .refused) => s
    | none => s
  else s

/-! ### The Slope Follower -/

/-- A figure times a gain in sixteenths, rounded with its sign (R91, R96). -/
def sixteenths (figure gain16 : Int) : Int := roundSigned (figure * gain16) 16

/-- The conditions under which a record forms a louver target (R91). -/
def Part.followsLouver (s : Part) (r : WindowRecord) : Bool :=
  s.harvesting && !r.tags.tiltFault && s.isAutomatic .louver && (s.motionOf .louver).referenced && !s.isFaulted .louver
    && s.shutdown.isNone

/-- The louver target of a record (R91). -/
def Part.louverTarget (s : Part) (r : WindowRecord) : Int :=
  s.clampToEnvelope .louver (sixteenths r.roll s.params.slope.louverGain16 + s.louverTrim)

/-- The louver feed-forward (R91, R92). -/
def Part.followRoll (s : Part) (r : WindowRecord) : Part :=
  if s.followsLouver r ∧ s.params.slope.louverDeadband ≤ distance (s.louverTarget r) (s.entryOf .louver).setpoint then
    (s.post .louver .follow (some (s.louverTarget r))).1
  else s

/-- The louver imbalance trim on an Evaluation (R93). -/
def Part.trimLouver (s : Part) : Part :=
  let e := s.evaluator.evaluation
  let step := (s.params.slope.louverTrimStep : Int)
  let limit := (s.params.slope.louverTrimMax : Int)
  if e.averages.isSome && s.harvesting && e.symptoms.sideImbalance && s.isAutomatic .louver
      && (s.motionOf .louver).referenced then
    { s with louverTrim := clamp (-limit) limit (match e.side with
        | .left => s.louverTrim - step
        | .right => s.louverTrim + step) }
  else s

/-- louver_trim clamped to a lowered limit at a parameter application (R94). -/
def Part.limitLouverTrim (s : Part) : Part :=
  let limit := (s.params.slope.louverTrimMax : Int)
  { s with louverTrim := clamp (-limit) limit s.louverTrim }

/-- The fan pitch offset a record gives (R96). -/
def Part.nextFanOffset (s : Part) (r : WindowRecord) : Int :=
  if !s.harvesting || !s.isAutomatic .fan then 0
  else if r.tags.tiltFault then s.fanOffset
  else sixteenths r.pitch s.params.slope.fanPitchGain16

/-- The fan pitch offset set from a record (R96, R98). -/
def Part.followPitch (s : Part) (r : WindowRecord) : Part := s.setFanOffset (s.nextFanOffset r)

/-! ### Speed regulation (R125) -/

/-- A record calls for regulation of a speed channel. -/
def Part.needsRegulation (s : Part) (r : WindowRecord) (v : SpeedChannel) : Bool :=
  let c := v.channel
  s.capture.engaged && (s.motionOf c).phase = .idle && !s.blocked c && 0 < r.speedCount.get v
    && (s.params.bands.get v).hold < distance (r.rpm.get v : Nat) (s.speedTarget v)

/-- Speed regulation at an appended record. -/
def Part.regulate (s : Part) (r : WindowRecord) (o : Order) : Part :=
  (arrange o.channels [.drum, .fan]).foldl (fun s c =>
    match c.kind with
    | .speed v => if s.needsRegulation r v then (s.post c .regulate none).1 else s
    | .positional _ => s) s

end Sys2Proof.Machine
end

