-- ==== Sys2Proof/Machine/Window.lean ====
section
/-! DEFINITION. The close of a measurement window: parameter application (R14, R165, R59, R114, R130), the next window (R12, R13,
R16, R17), the append and the reactions to it (R21, R22, R178), in the order the command gives where the spec fixes none. -/

namespace Sys2Proof.Machine

/-! ### Parameter application (R14, R165) -/

/-- The pending preset set differs from the active one, or carries a load mark (R165). -/
def Part.presetDiffers (s : Part) : Bool := s.store.pendingPreset ≠ s.store.activePreset || s.store.loadMark.isSome

/-- The pending calibration differs from the active one, the valid flags included (R165). -/
def Part.calDiffers (s : Part) : Bool := s.store.pendingCal ≠ s.store.activeCal

/-- The differing sets copied, and the envelopes of both preset sets clamped to the factory limits (R165 step 1, R59). -/
def Part.copySets (s : Part) : Part :=
  let preset := s.store.pendingPreset.clampEnvelopes s.store.pendingCal.figures.factory
  { s with store := { s.store with
      activeCal := s.store.pendingCal
      activePreset := preset
      pendingPreset := preset } }

/-- A channel's setpoint reclamped to its envelope; a change on a referenced positional channel of an engaged machine posts a
RESTORE, unless the channel receives a preset SET (R59). -/
def Part.reclamp (s : Part) (loaded : Bool) (c : Channel) : Part :=
  let old := (s.entryOf c).setpoint
  let new := s.clampToEnvelope c old
  if new = old then s
  else
    let s : Part := s.putSetpoint c new
    if s.capture.engaged && !loaded && Channel.positional c && (s.motionOf c).referenced then (s.post c .restore none).1 else s

/-- The effects of a LOAD's application (R165 step 2, R94, R97). The preset SETs are posted in ascending order of the channels, so a
lower channel asks for a free slot before a higher one, where R131 lets either be taken first: the model's choice (assumption 49). -/
def Part.applyLoad (s : Part) (slot : Nat) : Part :=
  let s : Part := { s with book := .build fun c => { s.entryOf c with mode := s.params.initialMode.get c } }
  let s : Part := s.removeHolds .operator
  let s : Part := if (s.entryOf .fan).mode = .manual then s.setFanOffset 0 else s
  let s : Part := { s with louverTrim := 0, store := { s.store with activeSlot := some slot, loadMark := none } }
  Channel.all.foldl (fun s c => s.postPreset c (s.params.initialSetpoint.get c)) s

/-- A channel faulted for want of a calibration becomes IDLE (R114). -/
def Motion.recover (m : Motion) : Motion :=
  if m.phase = .faulted .noCalibration then
    { m with phase := .idle, referenced := false, position := 0, stallCount := 0, strayCount := 0 }
  else m

/-- The channels faulted for want of a calibration leave that state under a valid one (R114, R165 step 3). CONCAVE leaves it
unreferenced, so Plug Relief stays DISARMED (R145). -/
def Part.recoverChannels (s : Part) : Part :=
  if s.store.activeCal.valid then { s with motion := .build fun c => (s.motionOf c).recover } else s

/-- The Setting Book's part of an application, in the order of R165. -/
def Part.bookApplied (s : Part) (o : Order) (mark : Option Nat) : Part :=
  let s : Part := (arrange o.channels Channel.all).foldl (fun s c => s.reclamp mark.isSome c) s
  let s : Part := s.updateFanTarget
  let s : Part := match mark with
    | some slot => s.applyLoad slot
    | none => s
  s.recoverChannels

/-- What was in force before an application, as far as later rules compare with it. -/
structure Applied where
  preset : Bool
  calibration : Bool
  mark : Option Nat
  /-- The window number PARAMS_APPLIED carries (R14). -/
  nextNumber : Nat
  minHarvestSpeed : Nat
  arbiterMode : ArbiterMode
  rank : PerChannel Nat
  reliefEnable : Bool
  deriving DecidableEq, Repr

/-- The tasks of a parameter application, in the order of their definition. -/
def applyTasks : List Task := [.settingBook, .harvesting, .overrideUnit, .arbiter, .louverLimit, .paramsApplied]

/-- One block's reaction to a parameter application. -/
def Part.applyTask (s : Part) (o : Order) (a : Applied) : Task → Part
  | .settingBook => s.bookApplied o a.mark
  | .harvesting => if s.params.minHarvestSpeed ≠ a.minHarvestSpeed then s.judgeHarvesting true else s
  | .overrideUnit => if s.params.relief.enable ≠ a.reliefEnable then s.reliefApplied else s
  | .arbiter =>
    if s.params.arbiterMode ≠ a.arbiterMode ∨ s.params.rank ≠ a.rank then { s with rankOrder := s.params.rankList } else s
  | .louverLimit => s.limitLouverTrim
  | .paramsApplied =>
    s.raiseIn a.nextNumber .paramsApplied none (ofFlag a.preset + 2 * ofFlag a.calibration).toNat (a.mark.getD 0xFFFF)
  | .windowUnit | .evaluation | .feedRestrain | .louverFeed | .fanOffset | .regulation | .bookStatus | .trim | .imbalance
  | .windowReport => s

/-- The pending parameters applied (R12 step 3, R14, R165); `nextNumber` is the number of the window that follows. -/
def Part.applyParameters (s : Part) (o : Order) (nextNumber : Nat) : Part :=
  let a : Applied :=
    { preset := s.presetDiffers, calibration := s.calDiffers, mark := s.store.loadMark, nextNumber := nextNumber
      minHarvestSpeed := s.params.minHarvestSpeed, arbiterMode := s.params.arbiterMode, rank := s.params.rank
      reliefEnable := s.params.relief.enable }
  if a.preset || a.calibration then (arrange o.tasks applyTasks).foldl (fun s t => s.applyTask o a t) s.copySets
  else s

/-! ### The next window (R12 step 4, R13, R16, R17) -/

/-- The marks of a window that starts now. -/
def Part.freshMarks (s : Part) : Marks where
  shifted := Channel.all.any fun c => s.bearingNow c
  notHarvesting := !s.harvesting
  relief := s.override.relief.marks

/-- The next window started. -/
def Part.startWindow (s : Part) (number : Nat) : Part :=
  { s with window := { s.window with
      number := number
      startedAt := s.now
      length := s.params.windowLength
      engaged := s.capture.engaged
      marks := s.freshMarks } }

/-! ### The append (R12 step 5, R13, R21) -/

/-- The most records the Window History holds. -/
def historyLength : Nat := 16

/-- A record appended to a history: a record numbered 1 finds it emptied, and a seventeenth removes the oldest. -/
def appendRecord (history : List WindowRecord) (r : WindowRecord) : List WindowRecord :=
  let kept := if r.number = 1 then [] else history
  (kept ++ [r]).drop (kept.length + 1 - historyLength)

/-- The record appended to the Window History. -/
def Part.append (s : Part) (r : WindowRecord) : Part :=
  { s with window := { s.window with history := appendRecord s.window.history r } }

/-! ### WINDOW_REPORT (R178) -/

/-- The three WINDOW_REPORT frames of a record, with the Evaluation formed from it. -/
def Part.reportFrames (s : Part) (r : WindowRecord) : List FrameBody :=
  let e := s.evaluator.evaluation
  [.windowReport1 (r.number % 65536) r.sl r.lossIndex.walker r.imb s.window.number,
   .windowReport2 r.rpm.drum r.rpm.fan r.tailPm r.load s.window.number,
   .windowReport3 r.roll r.pitch e.symptoms e.grainAvailable e.side r.tags (r.number % 256) s.window.number]

/-! ### Reactions to the append (R22) -/

/-- The tasks that react to the record, and to the Evaluation formed from it. -/
def appendTasks : List Task :=
  [.evaluation, .feedRestrain, .louverFeed, .fanOffset, .regulation, .bookStatus, .trim, .imbalance, .windowReport]

/-- A task that reacts to the Evaluation. -/
def Task.needsEvaluation : Task → Bool
  | .trim | .imbalance | .windowReport => true
  | .windowUnit | .harvesting | .settingBook | .overrideUnit | .arbiter | .louverLimit | .paramsApplied | .evaluation
  | .feedRestrain | .louverFeed | .fanOffset | .regulation | .bookStatus => false

/-- The reactions in a command's order, those to the Evaluation not before it (R22). -/
def appendSchedule (o : Order) : List Task :=
  let tasks := arrange o.tasks appendTasks
  let early := tasks.takeWhile (· ≠ .evaluation)
  early.filter (fun t => !Task.needsEvaluation t) ++ [.evaluation] ++ early.filter (fun t => Task.needsEvaluation t)
    ++ (tasks.dropWhile (· ≠ .evaluation)).drop 1

/-- One block's reaction to an appended record or to the Evaluation formed from it. -/
def Part.appendTask (s : Part) (o : Order) (r : WindowRecord) : Task → Part
  | .evaluation => s.formEvaluation r
  | .feedRestrain => s.judgeLoad r
  | .louverFeed => s.followRoll r
  | .fanOffset => s.followPitch r
  | .regulation => s.regulate r o
  | .bookStatus => s.sendBook
  | .trim => s.trim
  | .imbalance => s.trimLouver
  | .windowReport => (s.reportFrames r).foldl (fun s f => s.send f) s
  | .windowUnit | .harvesting | .settingBook | .overrideUnit | .arbiter | .louverLimit | .paramsApplied => s

/-- Every reaction to an appended record (R22). -/
def Part.react (s : Part) (o : Order) (r : WindowRecord) : Part :=
  (appendSchedule o).foldl (fun s t => s.appendTask o r t) s

/-! ### The close (R12) -/

/-- The least elapsed ms of a close that builds a record (R12). -/
def shortestWindow : Nat := 100

/-- A close that builds a record (R12 steps 2 to 5). The readers' reactions to the record follow within the same piece, so that at a
change of the separator state no other block takes the change between the close and a reader (R22; assumption 44). -/
def Part.closeWithRecord (s : Part) (o : Order) (l : Latched) : Part :=
  let r := s.recordOf l
  let s : Part := (s.raiseRuns l).advanceRuns l r
  let s : Part := (s.applyParameters o (nextWindowNumber r.number)).startWindow (nextWindowNumber r.number)
  (s.append r).react o r

/-- A discarded close (R12): parameters applied and a fresh window of the same number; a reduction changed by the application is
announced (R53 case 3), unless a notice of the same step has already carried it. The spec fixes no order between this notice and
PARAMS_APPLIED or the application's other notices: that it is queued after all of them is the model's choice (assumption 25). -/
def Part.closeDiscarded (s : Part) (o : Order) : Part :=
  let before := s.reduction
  let s : Part := s.applyParameters o s.window.number
  let s : Part := if s.reduction ≠ before ∧ s.reduction ≠ s.evaluator.sentReduction then s.sendRestrain else s
  s.startWindow s.window.number

/-- The window in progress closed (R10 to R12). -/
def Part.closeWindow (s : Part) (cause : CloseCause) (o : Order) : Part :=
  let l := s.latched cause
  let s : Part := s.clearAccumulators
  if shortestWindow ≤ l.elapsed then s.closeWithRecord o l else s.closeDiscarded o

/-- The window timer's deadline (R10). -/
def Part.windowDeadline (s : Part) : Nat := s.window.startedAt + ms (s.window.length * 100)

/-! ### The separator state changes (R8) -/

/-- The tasks of a change of the separator state. -/
def separatorTasks : List Task := [.windowUnit, .harvesting, .settingBook, .overrideUnit]

/-- One block's reaction to a change of the separator state; `marks` says that the window the change closes has closed. -/
def Part.separatorTask (s : Part) (o : Order) (marks : Bool) : Task → Part
  | .windowUnit => s.closeWindow .partialClose o
  | .harvesting => s.judgeHarvesting marks
  | .settingBook => if s.capture.engaged then s.bookEngage o else s.bookDisengage o
  | .overrideUnit => if s.capture.engaged then s.judgeRelief else s.overrideDisengage o
  | .evaluation | .feedRestrain | .louverFeed | .fanOffset | .regulation | .bookStatus | .trim | .imbalance | .windowReport
  | .arbiter | .louverLimit | .paramsApplied => s

/-- The separator state set to the level that has held, and every block's reaction (R8, R22; assumption 19). The close with the
parameter application and the readers' reactions to its record is one piece of the order (assumption 44). -/
def Part.changeSeparator (s : Part) (engaged : Bool) (o : Order) : Part :=
  let s : Part := ({ s with capture := { s.capture with engaged := engaged, sepQualifyAt := none } } : Part).setGate
  let tasks := arrange o.tasks separatorTasks
  let closesFirst : Bool := tasks.takeWhile (· ≠ .harvesting) |>.contains .windowUnit
  tasks.foldl (fun s t => s.separatorTask o closesFirst t) s

end Sys2Proof.Machine
end

