-- ==== Sys2Proof/Machine/Reception.lean ====
section
/-! DEFINITION. Reception on the machine bus: the judgement of a received frame (R171, R177) and the layouts of the requests (10.1,
10.6), as shared by the commands of the bus. -/

namespace Sys2Proof.Machine

/-! ### The judgement of a frame -/

/-- The port hears a frame: it is not silent after a bus-off (R177), and the frame does not come from the part's own address (R171). -/
def Part.hears (s : Part) (h : FrameHeader) : Bool := s.bus.silentUntil.isNone && h.source ≠ s.cal.nodeAddress

/-- A frame addressed to the part's node address. -/
def Part.addressed (s : Part) (h : FrameHeader) : Bool := h.destination = s.cal.nodeAddress

/-- The layout of a request kind: its code, the bytes of its fields, and where its tag and its channel byte lie (10.1, 10.6). -/
structure Layout where
  kind : BitVec 10
  bytes : Nat
  tagAt : Option Nat
  channelAt : Option Nat
  deriving DecidableEq, Repr

/-- SETTING_REQUEST. -/
def settingLayout : Layout := ⟨kindSetting, 6, some 5, some 0⟩

/-- MODE_REQUEST. -/
def modeLayout : Layout := ⟨kindMode, 3, some 2, some 0⟩

/-- PRESET_REQUEST. -/
def presetLayout : Layout := ⟨kindPreset, 4, some 3, none⟩

/-- PARAM_REQUEST. -/
def paramLayout : Layout := ⟨kindParam, 6, some 5, none⟩

/-- SERVICE_REQUEST. -/
def serviceLayout : Layout := ⟨kindService, 2, some 1, none⟩

/-- BOOK_QUERY, which has no fields. -/
def queryLayout : Layout := ⟨kindBookQuery, 0, none, none⟩

/-- A byte of a frame at a place, the value given where the frame is too short for it or has no such byte. -/
def byteAt (length : Nat) (place : Option Nat) (present missing : Byte) : Byte :=
  match place with
  | some n => if n < length then present else missing
  | none => missing

/-- What a REPLY to a request carries of it: tag 0 where the tag byte is missing, which R171 gives for INCONSISTENT alone and is the
model's choice for NOT_PERMITTED (assumption 15); channel 0xFF where the kind has none (R173) or the byte is missing
(assumption 15). -/
def Layout.asked (l : Layout) (h : FrameHeader) (tag channel : Byte) : Asked :=
  ⟨h.source, l.kind, byteAt h.length l.tagAt tag 0, byteAt h.length l.channelAt channel 0xFF⟩

/-- A frame of a request kind judged by R171: ignored unless it is addressed to the part, NOT_PERMITTED, INCONSISTENT where it is
short, or handed to its owner. -/
def Part.judgeRequest (s : Part) (l : Layout) (h : FrameHeader) (permitted : Bool) (a : Asked) (owner : Part → Part) : Part :=
  if !s.hears h || !s.addressed h then s
  else if !permitted then s.reply a .notPermitted 0
  else if h.length < l.bytes then s.reply a .inconsistent 0
  else owner s

/-- A frame of a status kind judged by R171: taken from the permitted source, addressed to the part or broadcast, when it is long
enough. -/
def Part.judgeStatus (s : Part) (h : FrameHeader) (source : Byte) (bytes : Nat) (owner : Part → Part) : Part :=
  if s.hears h && (s.addressed h || h.destination = broadcastAddress) && h.source = source && bytes ≤ h.length then owner s
  else s

/-! ### Sources (10.1) -/

/-- The requester a source stands for: SERVICE for the Service Tool, OPERATOR for the Cab Terminal (R64, R171). -/
def requesterOf (source : Byte) : Option Requester :=
  if source = serviceAddress then some .service else if source = cabAddress then some .operator else none

/-- The sources of SETTING_REQUEST and MODE_REQUEST. -/
def operates (h : FrameHeader) : Bool := h.source = cabAddress || h.source = serviceAddress

/-- The sources of a request that the Service Tool may always send, and the Cab Terminal where the test on its operation or number
says so; a byte the test needs that is missing fails nothing here (assumption 15). -/
def serves (h : FrameHeader) (needs : Nat) (cabMay : Bool) : Bool :=
  h.source = serviceAddress || (h.source = cabAddress && (cabMay || h.length < needs))

/-- The sources of BOOK_QUERY. -/
def queries (h : FrameHeader) : Bool :=
  h.source = cabAddress || h.source = propulsionAddress || h.source = qualityAddress || h.source = serviceAddress

/-- A parameter number the Cab Terminal may name (10.1). -/
def cabNumber (n : Word) : Bool := 0x100 ≤ n.toNat && n.toNat ≤ 0x3FF

end Sys2Proof.Machine
end

