-- ==== Sys2Proof/Machine/Requests.lean ====
section
/-! DEFINITION. The owners' handling of requests: SETTING_REQUEST (R65, R66, R69, R71), MODE_REQUEST (R61), PRESET_REQUEST (R160),
PARAM_REQUEST (R163, R164). -/

namespace Sys2Proof.Machine

/-! ### SETTING_REQUEST -/

/-- The kinds of a SETTING_REQUEST (10.6). -/
inductive SettingKind where
  | set | jogStart | jogStop | home | shake
  deriving DecidableEq, Repr

/-- Checks 5 to 9 of R65 on a channel, none where all pass. -/
def Part.refusalOf (s : Part) (c : Channel) (k : SettingKind) (value : Int) : Option Result :=
  let positional := Channel.positional c
  if !positional && (k = .home || k = .shake) then some .badChannel
  else if (s.isFaulted c && k ≠ .home) || (k = .home && !s.store.activeCal.valid) then some .faulted
  else if k = .jogStart && value = 0 then some .inconsistent
  else if k = .jogStart && !positional && !s.capture.engaged then some .notTurning
  else if (k = .jogStart || k = .shake) && positional && !(s.motionOf c).referenced then some .notReferenced
  else none

/-- The checks of R65 in their order: the refusal, or the channel of a request that passes. A JOG_STOP skips checks 5 to 9; a kind
outside 1..5 is given as none. -/
def Part.checkSetting (s : Part) (r : Requester) (channel : Byte) (k : Option SettingKind) (value : Int) :
    Except Result Channel :=
  if s.shutdown.isSome then .error .shuttingDown
  else match Channel.ofCode channel.toNat, k with
    | none, _ => .error .badChannel
    | some _, none => .error .unknown
    | some c, some k =>
      if r = .operator ∧ s.service = true then .error .notPermitted
      else if k = .jogStop then .ok c
      else match s.refusalOf c k value with
        | some e => .error e
        | none => .ok c

/-- A SETTING_REQUEST taken by the Setting Book: the requester of its source, the checks, then `place` (R64, R65). -/
def Part.onSetting (s : Part) (h : FrameHeader) (f : SettingFields) (k : Option SettingKind)
    (place : Part → Requester → Channel → Asked → Part) : Part :=
  let a := settingLayout.asked h f.tag f.channel
  s.judgeRequest settingLayout h (operates h) a fun s =>
    match requesterOf h.source with
    | none => s
    | some r =>
      match s.checkSetting r f.channel k f.value.toInt with
      | .error e => s.reply a e 0
      | .ok c => place s r c a

/-- The answer to an accepted request: clamped with the clamped value, otherwise with its own (R66). -/
def Part.replyAccepted (s : Part) (a : Asked) (own carried : Word) (clamped : Bool) : Part :=
  if clamped then s.reply a .acceptedClamped carried else s.reply a .accepted own

/-- A checked request placed (R62, R66, R69): refused where it is outranked, otherwise answered, its hold started where it starts
one, and placed. -/
def Part.placeRequest (s : Part) (r : Requester) (c : Channel) (a : Asked) (k : RequestKind) (tag : Byte) (holds : Bool)
    (answer : Part → Part) : Part :=
  if s.outranks c r then s.reply a .outranked 0
  else
    let s : Part := answer s
    let s : Part := if holds then s.startHold c r else s
    (s.place c ⟨r, k, s.window.number, some tag, false⟩).1

/-- A SET placed, its target clamped to the envelope (R66). -/
def Part.placeSet (s : Part) (f : SettingFields) (r : Requester) (c : Channel) (a : Asked) : Part :=
  let own := f.value.toInt
  let target := s.clampToEnvelope c own
  s.placeRequest r c a (.set (some target)) f.tag true fun s =>
    s.replyAccepted a f.value (BitVec.ofInt 16 target) (target ≠ own)

/-- The jog in flight on a channel of a requester, with its direction (R71). -/
def Part.ownJog (s : Part) (c : Channel) (r : Requester) : Option Direction :=
  match (s.motionOf c).move with
  | some mv =>
    match mv.kind, mv.owner with
    | .jog, .request q => if q.same r then mv.direction else none
    | _, _ => none
  | none => none

/-- A listed JOG entry of a requester (R71). -/
def Entry.isJogOf (e : Entry) (r : Requester) : Bool := e.isJog && e.requester.same r

/-- The refresh timer started for a jog that a JOG_START has put in flight or listed (R175). -/
def Part.armJogTimer (s : Part) (c : Channel) (r : Requester) : Part :=
  if (s.ownJog c r).isSome || (s.entryOf c).requests.any (·.isJogOf r) then s.startJogTimer c else s

/-- The direction of a JOG_START's value, its sign alone (R66). -/
def jogDirection (value : Word) : Direction := if value.toInt < 0 then .down else .up

/-- A JOG_START placed: a refresh of the requester's jog in the same direction (R71, R175), otherwise by the arrival rule. -/
def Part.placeJog (s : Part) (f : SettingFields) (r : Requester) (c : Channel) (a : Asked) : Part :=
  let d := jogDirection f.value
  if s.ownJog c r = some d then (s.reply a .accepted f.value).startJogTimer c
  else if s.outranks c r then s.reply a .outranked 0
  else (s.placeRequest r c a (.jog d) f.tag true fun s => s.reply a .accepted f.value).armJogTimer c r

/-- The end of a requester's jog, in flight or listed (R71, R119). -/
def Part.endJogOf (s : Part) (c : Channel) (r : Requester) : Part :=
  let s : Part :=
    if (s.ownJog c r).isSome then s.stopJog c else s.discardEntries c .aborted fun e => e.isJogOf r
  s.take c

/-- The end of every jog of a channel, in flight or listed, at the expiry of its refresh timer (R119, R175; assumption 18). -/
def Part.endJogs (s : Part) (c : Channel) : Part :=
  let s : Part := if s.jogging c then s.stopJog c else s
  (s.discardEntries c .aborted Entry.isJog).take c

/-- A JOG_STOP (R71). -/
def Part.placeJogStop (s : Part) (f : SettingFields) (r : Requester) (c : Channel) (a : Asked) : Part :=
  (s.reply a .accepted f.value).endJogOf c r

/-- A HOME placed (R69, R115). -/
def Part.placeHome (s : Part) (f : SettingFields) (r : Requester) (c : Channel) (a : Asked) : Part :=
  s.placeRequest r c a .home f.tag false fun s => s.reply a .accepted f.value

/-- A SHAKE placed, amplitude and cycles clamped; the reply carries the amplitude, or the cycles where only these were clamped (R66). -/
def Part.placeShake (s : Part) (f : SettingFields) (r : Requester) (c : Channel) (a : Asked) : Part :=
  let own := f.value.toInt
  let amplitude := clamp 5 100 own
  let cycles := clampNat 1 15 f.cycles.toNat
  let carried : Word := if amplitude ≠ own then BitVec.ofInt 16 amplitude else BitVec.ofNat 16 cycles
  s.placeRequest r c a (.shake amplitude.toNat cycles) f.tag false fun s =>
    s.replyAccepted a f.value carried (amplitude ≠ own || cycles ≠ f.cycles.toNat)

/-! ### MODE_REQUEST (R61) -/

/-- The operations of a MODE_REQUEST. -/
inductive ModeOp where
  | auto | manual | releaseHold
  deriving DecidableEq, Repr

/-- A channel's hold is held by SERVICE. -/
def Part.heldByService (s : Part) (c : Channel) : Bool :=
  match (s.entryOf c).hold with
  | some h => h.holder = .service
  | none => false

/-- The effect of an accepted MODE_REQUEST; FAN switched to MANUAL loses its pitch offset (R61, R97). -/
def Part.applyMode (s : Part) (c : Channel) (op : ModeOp) : Part :=
  match op with
  | .auto => s.modBook c fun e => { e with mode := .auto, hold := none }
  | .manual =>
    let s : Part := s.modBook c fun e => { e with mode := .manual }
    if c = .fan then s.setFanOffset 0 else s
  | .releaseHold => s.modBook c fun e => { e with hold := none }

/-- A MODE_REQUEST taken by the Setting Book, with its checks in their order (R61); an operation outside 1..3 is given as none. -/
def Part.onMode (s : Part) (h : FrameHeader) (f : ModeFields) (op : Option ModeOp) : Part :=
  let a := modeLayout.asked h f.tag f.channel
  s.judgeRequest modeLayout h (operates h) a fun s =>
    let operator : Bool := h.source = cabAddress
    if s.shutdown.isSome then s.reply a .shuttingDown 0
    else match Channel.ofCode f.channel.toNat, op with
      | none, _ => s.reply a .badChannel 0
      | some _, none => s.reply a .unknown 0
      | some c, some op =>
        if operator && s.service then s.reply a .notPermitted 0
        else if operator && op ≠ .manual && s.heldByService c then s.reply a .outranked 0
        else (s.reply a .accepted 0).applyMode c op

/-! ### PRESET_REQUEST (R160) -/

/-- The operations of a PRESET_REQUEST. -/
inductive PresetOp where
  | load | save | erase | wipe | lockCal | inhibit | saveCal
  deriving DecidableEq, Repr

/-- The operations the Cab Terminal may ask for (10.1). -/
def PresetOp.forCab : PresetOp → Bool
  | .load | .save | .erase | .inhibit => true
  | .wipe | .lockCal | .saveCal => false

/-- The operations that name a slot. -/
def PresetOp.namesSlot : PresetOp → Bool
  | .load | .save | .erase => true
  | .wipe | .lockCal | .inhibit | .saveCal => false

/-- The operations on page 0. -/
def PresetOp.onCalibration (op : PresetOp) (includeCal : Bool) : Bool :=
  match op with
  | .saveCal | .lockCal => true
  | .wipe => includeCal
  | .load | .save | .erase | .inhibit => false

/-- The operations that write or erase a page. -/
def PresetOp.writes : PresetOp → Bool
  | .save | .erase | .wipe | .saveCal | .lockCal => true
  | .load | .inhibit => false

/-- The preset a slot's page holds, with each value clamped to its range; none where check 10 of R160 refuses it. -/
def Part.slotPreset (s : Part) (slot : Nat) : Option Preset := readPreset (s.store.memory.page (slotPage slot))

/-- Checks 1 to 10 of R160 in their order, none where all pass; an operation outside 1..7 is given as none. -/
def Part.checkPreset (s : Part) (op : Option PresetOp) (slot : Nat) (includeCal : Bool) : Option Result :=
  if s.shutdown.isSome then some .shuttingDown
  else match op with
    | none => some .unknown
    | some op =>
      if op.namesSlot && 15 < slot then some .inconsistent
      else if op.onCalibration includeCal && !s.service then some .notPermitted
      else if op.writes && s.store.inhibit then some .inhibited
      else if op.onCalibration includeCal && s.store.lockMark then some .locked
      else if op = .lockCal && s.pageState 0 ≠ .valid then some .inconsistent
      else if op ≠ .inhibit && s.store.op.isSome then some .busy
      else if op = .load && s.pageState (slotPage slot) ≠ .valid then some .emptySlot
      else if op = .load && (s.slotPreset slot).isNone then some .inconsistent
      else none

/-- The effect of an accepted PRESET_REQUEST (R160 to R162). -/
def Part.applyPreset (s : Part) (op : PresetOp) (slot : Nat) (includeCal : Bool) : Part :=
  match op with
  | .load => match s.slotPreset slot with
    | some p => s.loadPreset slot p
    | none => s
  | .save => s.beginSave slot
  | .erase => s.beginErase slot
  | .wipe => s.beginWipe includeCal
  | .lockCal => s.beginLockCal
  | .inhibit => { s with store := { s.store with inhibit := true } }
  | .saveCal => s.beginSaveCal

/-- A PRESET_REQUEST taken by the Preset Store (R160). -/
def Part.onPreset (s : Part) (h : FrameHeader) (f : PresetFields) (op : Option PresetOp) : Part :=
  let a := presetLayout.asked h f.tag 0xFF
  let cabMay : Bool := match op with
    | some op => op.forCab
    | none => true
  s.judgeRequest presetLayout h (serves h 1 cabMay) a fun s =>
    match s.checkPreset op f.slot.toNat (f.includeCalibration ≠ 0), op with
    | some e, _ => s.reply a e 0
    | none, some op => (s.reply a .accepted 0).applyPreset op f.slot.toNat (f.includeCalibration ≠ 0)
    | none, none => s

/-! ### PARAM_REQUEST (R163, R164) -/

/-- A parameter's range. -/
def Param.range : Param → ParamRange
  | .cal p => p.range
  | .preset p => p.range

/-- A parameter's value in the pending set (R163). -/
def Part.pendingValue (s : Part) : Param → Int
  | .cal p => s.store.pendingCal.figures.get p
  | .preset p => s.store.pendingPreset.get p

/-- The part after a write to the pending set, none where R164 refuses it. -/
def Part.writePending (s : Part) (p : Param) (v : Int) : Option Part :=
  match p with
  | .cal p => (s.store.pendingCal.figures.write p v).map fun c =>
      { s with store := { s.store with pendingCal := { s.store.pendingCal with figures := c } } }
  | .preset p => (s.store.pendingPreset.write p v).map fun q =>
      { s with store := { s.store with pendingPreset := q } }

/-- A parameter of the calibration. -/
def Param.isCal : Param → Bool
  | .cal _ => true
  | .preset _ => false

/-- A PARAM_REQUEST taken by the Preset Store: checks 1 and 2 of R163, then the operation, none for one outside 1..2, which passes the
test on the source as R171 says. -/
def Part.onParam (s : Part) (h : FrameHeader) (f : ParamFields) (op : Option (Part → Param → Asked → Part)) : Part :=
  let a := paramLayout.asked h f.tag 0xFF
  s.judgeRequest paramLayout h (serves h 3 (op.isNone || cabNumber f.number)) a fun s =>
    if s.shutdown.isSome then s.reply a .shuttingDown 0
    else match op, Param.ofNumber f.number.toNat with
      | some op, some p => op s p a
      | none, _ | _, none => s.reply a .unknown 0

/-- A READ (R163). -/
def Part.readParam (s : Part) (p : Param) (a : Asked) : Part := s.reply a .accepted (wordOf (s.pendingValue p))

/-- A WRITE: check 3 of R163, then R164. -/
def Part.writeParam (s : Part) (value : Word) (p : Param) (a : Asked) : Part :=
  if p.isCal && !s.service then s.reply a .notPermitted 0
  else if p.isCal && s.store.lockMark then s.reply a .locked 0
  else
    let v := p.range.read value
    match s.writePending p v with
    | none => s.reply a .inconsistent 0
    | some t =>
      let stored := t.pendingValue p
      t.replyAccepted a (wordOf stored) (wordOf stored) (stored ≠ v)

/-! ### SERVICE_REQUEST (R11, R79, R80, R170) -/

/-- A SERVICE_REQUEST judged by R171 and, during a shutdown, refused (R11, R79, R80, R170); `cabMay` for WINDOW_RESTART and for an
operation outside 1..5. -/
def Part.onService (s : Part) (h : FrameHeader) (tag : Byte) (cabMay : Bool) (f : Part → Asked → Part) : Part :=
  let a := serviceLayout.asked h tag 0xFF
  s.judgeRequest serviceLayout h (serves h 1 cabMay) a fun s =>
    if s.shutdown.isSome then s.reply a .shuttingDown 0 else f s a

/-- The machine stands with the separator disengaged (R79). -/
def Part.stationary (s : Part) : Bool := s.bus.speedKnown && s.bus.groundSpeed = 0 && !s.capture.engaged

end Sys2Proof.Machine
end

