-- ==== Sys2Proof/WellFormed.lean ====
section
/-! DEFINITION. Well-formed commands: what a frame of the machine bus can be, beyond what the operand types say
(assumption 30). -/

namespace Sys2Proof

/-- A CAN 2.0B frame carries at most 8 data bytes. -/
def FrameHeader.wf (h : FrameHeader) : Bool := h.length ≤ 8

/-- The kinds of the table of 10.1, sent kinds included. -/
def listedKinds : List (BitVec 10) :=
  [0x101, 0x102, 0x103, 0x104, 0x105, 0x106, 0x110, 0x120, 0x181, 0x190, 0x191, 0x192, 0x193]

/-- The greatest operation (or SETTING_REQUEST kind) code of a request kind; the least is 1 (10 10.1, 10.6). -/
def UnknownRequest.lastCode : UnknownRequest → Nat
  | .setting _ _ => 5
  | .mode _ _ => 3
  | .preset _ _ => 7
  | .param _ _ => 2
  | .service _ _ => 5

/-- The operation code an unknown operation carries. -/
def UnknownRequest.code : UnknownRequest → Byte
  | .setting op _ => op
  | .mode op _ => op
  | .preset op _ => op
  | .param op _ => op
  | .service op _ => op

/-- The operation code lies outside its kind's range (R171). -/
def UnknownRequest.wf (r : UnknownRequest) : Bool :=
  r.code.toNat = 0 || r.lastCode < r.code.toNat

/-- The words a page reads back are 256. -/
def ReadBack.wf (r : ReadBack) : Bool := r.all (·.length = 256)

/-- The well-formed commands. -/
def Instr.wf : Instr → Bool
  | .lossEdge _ _ | .speedEdge _ _ _ | .pwmEdge _ _ _ | .tailChange _ _ | .sepLevelChange _ _
  | .sepQualifyExpiry _ | .feedbackPulse _ _ | .keyFalls _ _ | .keyReturns _ | .powerOn _ | .supplyDip _
  | .windowTimerExpiry _ | .holdTimerExpiry _ | .jogRefreshExpiry _ | .groundSpeedFreshnessExpiry _
  | .coastTimerExpiry _ _ | .settleTimerExpiry _ | .stallTimerExpiry _ | .maximumDriveTimeExpiry _
  | .drumWatchTimerExpiry | .confirmTimerExpiry _ | .recoverTimerExpiry | .giveUpTimerExpiry
  | .deadlineTimerExpiry | .positionWriteStart | .frameTransmitted _ | .transmissionFailure _ | .busOff _
  | .busOffSilenceExpiry | .powerLoss _ => true
  | .saveCompletes r | .eraseCompletes r | .saveCalCompletes r | .lockCalCompletes r
  | .positionWriteCompletes r | .positionEraseCompletes r => ReadBack.wf r
  | .wipeCompletes r => r.all fun page => page.1 < 18 && page.2.length = 256
  | .set _ h _ | .jogStart _ h _ | .jogStop _ h _ | .home _ h _ | .shake _ h _
  | .auto _ h _ | .manual _ h _ | .releaseHold _ h _
  | .load _ h _ | .save _ h _ | .erase _ h _ | .wipe _ h _ | .lockCal _ h _ | .inhibit _ h _ | .saveCal _ h _
  | .paramRead _ h _ | .paramWrite _ h _
  | .enter _ h _ _ | .leave _ h _ | .restart _ h _ _ | .clearCauses _ h _ | .windowRestart _ h _ _
  | .bookQuery _ h | .motionStatus _ h _ _ | .qualityReport _ h _ _ _ => h.wf
  | .unknownKindFrame _ h kind => h.wf && !listedKinds.contains kind
  | .unknownOperation _ h request => h.wf && request.wf

end Sys2Proof
end

