-- ==== Sys2Proof/Machine/BusCommands.lean ====
section
/-! DEFINITION. Status frames, frames of unlisted kinds and the events of the bus itself: one meaning for each. -/

namespace Sys2Proof.Machine

/-- The greatest ground speed held, 0.1 km/h (R174). -/
def topSpeed : Nat := 600

/-- A ground speed taken: stored and known, the freshness timer started again; harvesting and service mode judged (R9, R81, R174). -/
def Part.takeSpeed (s : Part) (speed : Nat) (o : Order) : Part :=
  let s : Part := { s with bus := { s.bus with
      groundSpeed := min topSpeed speed, speedKnown := true, freshUntil := some (s.now + freshnessTime) } }
  let s : Part := s.judgeHarvesting true
  if 0 < speed then s.endService o 1 else s

/-- MOTION_STATUS (R171, R174). -/
def execMotionStatus (dt : Nat) (header : FrameHeader) (speed : Word) (order : Order) (s : State) :
    Host.Outcome State Fault Refusal :=
  s.goOn fun p => p.onEvent dt fun p =>
    p.judgeStatus header propulsionAddress 2 fun p => p.takeSpeed speed.toNat order

/-- QUALITY_REPORT (R41, R171). -/
def execQualityReport (dt : Nat) (header : FrameHeader) (broken foreign samples : Word) (s : State) :
    Host.Outcome State Fault Refusal :=
  s.goOn fun p => p.onEvent dt fun p =>
    p.judgeStatus header qualityAddress 6 fun p => p.takeReport broken.toNat foreign.toNat samples.toNat

/-- UNKNOWN_KIND_FRAME (R171): answered UNKNOWN when addressed to the part, ignored when broadcast. A frame of a listed kind is no
such frame (assumption 16). -/
def execUnknownKindFrame (dt : Nat) (header : FrameHeader) (kind : BitVec 10) (s : State) : Host.Outcome State Fault Refusal :=
  s.goOn fun p => p.onEvent dt fun p =>
    if p.hears header && p.addressed header && !listedKinds.contains kind then
      p.reply ⟨header.source, kind, 0, 0xFF⟩ .unknown 0
    else p

/-- FRAME_TRANSMITTED: the head leaves the queue (R176); nothing is sent during the silence of a bus-off (R177). -/
def execFrameTransmitted (dt : Nat) (s : State) : Host.Outcome State Fault Refusal :=
  s.goOn fun p => p.onEvent dt fun p =>
    if p.bus.silentUntil.isNone then { p with bus := { p.bus with queue := p.bus.queue.drop 1 } } else p

/-- TRANSMISSION_FAILURE: the frame stays at the head and is sent again (R176). -/
def execTransmissionFailure (dt : Nat) (s : State) : Host.Outcome State Fault Refusal :=
  s.goOn fun p => p.onEvent dt fun p => p

/-- BUS_OFF: the silence starts, or starts again (R177). -/
def execBusOff (dt : Nat) (s : State) : Host.Outcome State Fault Refusal :=
  s.goOn fun p => p.onEvent dt fun p => { p with bus := { p.bus with silentUntil := some (p.now + busOffTime) } }

end Sys2Proof.Machine
end

