-- ==== Sys2Proof/Machine/RequestCommands.lean ====
section
/-! DEFINITION. The request frames of the machine bus: one meaning for each operation. -/

namespace Sys2Proof.Machine

/-- SET (R65, R66, R69, R70). -/
def execSet (dt : Nat) (header : FrameHeader) (fields : SettingFields) (s : State) : Host.Outcome State Fault Refusal :=
  s.goOn fun p => p.onEvent dt fun p => p.onSetting header fields (some .set) fun p r c a => p.placeSet fields r c a

/-- JOG_START (R65, R71). -/
def execJogStart (dt : Nat) (header : FrameHeader) (fields : SettingFields) (s : State) : Host.Outcome State Fault Refusal :=
  s.goOn fun p => p.onEvent dt fun p => p.onSetting header fields (some .jogStart) fun p r c a => p.placeJog fields r c a

/-- JOG_STOP (R65, R71). -/
def execJogStop (dt : Nat) (header : FrameHeader) (fields : SettingFields) (s : State) : Host.Outcome State Fault Refusal :=
  s.goOn fun p => p.onEvent dt fun p => p.onSetting header fields (some .jogStop) fun p r c a => p.placeJogStop fields r c a

/-- HOME (R65, R115). -/
def execHome (dt : Nat) (header : FrameHeader) (fields : SettingFields) (s : State) : Host.Outcome State Fault Refusal :=
  s.goOn fun p => p.onEvent dt fun p => p.onSetting header fields (some .home) fun p r c a => p.placeHome fields r c a

/-- SHAKE (R65, R66, R121). -/
def execShake (dt : Nat) (header : FrameHeader) (fields : SettingFields) (s : State) : Host.Outcome State Fault Refusal :=
  s.goOn fun p => p.onEvent dt fun p => p.onSetting header fields (some .shake) fun p r c a => p.placeShake fields r c a

/-- AUTO (R61). -/
def execAuto (dt : Nat) (header : FrameHeader) (fields : ModeFields) (s : State) : Host.Outcome State Fault Refusal :=
  s.goOn fun p => p.onEvent dt fun p => p.onMode header fields (some .auto)

/-- MANUAL (R61, R97). -/
def execManual (dt : Nat) (header : FrameHeader) (fields : ModeFields) (s : State) : Host.Outcome State Fault Refusal :=
  s.goOn fun p => p.onEvent dt fun p => p.onMode header fields (some .manual)

/-- RELEASE_HOLD (R61). -/
def execReleaseHold (dt : Nat) (header : FrameHeader) (fields : ModeFields) (s : State) : Host.Outcome State Fault Refusal :=
  s.goOn fun p => p.onEvent dt fun p => p.onMode header fields (some .releaseHold)

/-- LOAD (R160, R161). -/
def execLoad (dt : Nat) (header : FrameHeader) (fields : PresetFields) (s : State) : Host.Outcome State Fault Refusal :=
  s.goOn fun p => p.onEvent dt fun p => p.onPreset header fields (some .load)

/-- SAVE (R160, R161). -/
def execSave (dt : Nat) (header : FrameHeader) (fields : PresetFields) (s : State) : Host.Outcome State Fault Refusal :=
  s.goOn fun p => p.onEvent dt fun p => p.onPreset header fields (some .save)

/-- ERASE (R160, R161). -/
def execErase (dt : Nat) (header : FrameHeader) (fields : PresetFields) (s : State) : Host.Outcome State Fault Refusal :=
  s.goOn fun p => p.onEvent dt fun p => p.onPreset header fields (some .erase)

/-- WIPE (R160, R161). -/
def execWipe (dt : Nat) (header : FrameHeader) (fields : PresetFields) (s : State) : Host.Outcome State Fault Refusal :=
  s.goOn fun p => p.onEvent dt fun p => p.onPreset header fields (some .wipe)

/-- LOCK_CAL (R160, R162). -/
def execLockCal (dt : Nat) (header : FrameHeader) (fields : PresetFields) (s : State) : Host.Outcome State Fault Refusal :=
  s.goOn fun p => p.onEvent dt fun p => p.onPreset header fields (some .lockCal)

/-- INHIBIT (R160). -/
def execInhibit (dt : Nat) (header : FrameHeader) (fields : PresetFields) (s : State) : Host.Outcome State Fault Refusal :=
  s.goOn fun p => p.onEvent dt fun p => p.onPreset header fields (some .inhibit)

/-- SAVE_CAL (R160, R162). -/
def execSaveCal (dt : Nat) (header : FrameHeader) (fields : PresetFields) (s : State) : Host.Outcome State Fault Refusal :=
  s.goOn fun p => p.onEvent dt fun p => p.onPreset header fields (some .saveCal)

/-- PARAM_READ (R163). -/
def execParamRead (dt : Nat) (header : FrameHeader) (fields : ParamFields) (s : State) : Host.Outcome State Fault Refusal :=
  s.goOn fun p => p.onEvent dt fun p => p.onParam header fields (some fun p q a => p.readParam q a)

/-- PARAM_WRITE (R163, R164). -/
def execParamWrite (dt : Nat) (header : FrameHeader) (fields : ParamFields) (s : State) : Host.Outcome State Fault Refusal :=
  s.goOn fun p => p.onEvent dt fun p => p.onParam header fields (some fun p q a => p.writeParam fields.value q a)

/-- ENTER (R79). -/
def execEnter (dt : Nat) (header : FrameHeader) (tag : Byte) (order : Order) (s : State) : Host.Outcome State Fault Refusal :=
  s.goOn fun p => p.onEvent dt fun p => p.onService header tag false fun p a =>
    if p.stationary then
      let p : Part := p.reply a .accepted 0
      if p.service then p else p.enterService order
    else p.reply a .notStationary 0

/-- LEAVE (R80). -/
def execLeave (dt : Nat) (header : FrameHeader) (tag : Byte) (s : State) : Host.Outcome State Fault Refusal :=
  s.goOn fun p => p.onEvent dt fun p => p.onService header tag false fun p a =>
    let p : Part := p.reply a .accepted 0
    if p.service then ({ p with service := false } : Part).removeHolds .service else p

/-- RESTART: a commanded shutdown (R170). -/
def execRestart (dt : Nat) (header : FrameHeader) (tag : Byte) (order : Order) (s : State) : Host.Outcome State Fault Refusal :=
  s.goOn fun p => p.onEvent dt fun p => p.onService header tag false fun p a =>
    (p.reply a .accepted 0).enterShutdown .commanded order

/-- CLEAR_CAUSES (R170). -/
def execClearCauses (dt : Nat) (header : FrameHeader) (tag : Byte) (s : State) : Host.Outcome State Fault Refusal :=
  s.goOn fun p => p.onEvent dt fun p => p.onService header tag false fun p a =>
    let p : Part := p.reply a .accepted 0
    { p with store := { p.store with resetCauses := ⟨false, false, false⟩ } }

/-- WINDOW_RESTART (R11). -/
def execWindowRestart (dt : Nat) (header : FrameHeader) (tag : Byte) (order : Order) (s : State) :
    Host.Outcome State Fault Refusal :=
  s.goOn fun p => p.onEvent dt fun p => p.onService header tag true fun p a =>
    (p.reply a .accepted 0).closeWindow .partialClose order

/-- BOOK_QUERY (R172). -/
def execBookQuery (dt : Nat) (header : FrameHeader) (s : State) : Host.Outcome State Fault Refusal :=
  s.goOn fun p => p.onEvent dt fun p =>
    let a := queryLayout.asked header 0 0xFF
    p.judgeRequest queryLayout header (queries header) a fun p =>
      if p.shutdown.isSome then p.reply a .shuttingDown 0 else p.sendBook

/-- UNKNOWN_OPERATION: answered by the owner of the kind, in the place its checks give it (R61, R65, R160, R163, R171; for a
SERVICE_REQUEST during shutdown assumption 29). -/
def execUnknownOperation (dt : Nat) (header : FrameHeader) (request : UnknownRequest) (s : State) :
    Host.Outcome State Fault Refusal :=
  s.goOn fun p => p.onEvent dt fun p =>
    match request with
    | .setting _ f => p.onSetting header f none fun p _ _ _ => p
    | .mode _ f => p.onMode header f none
    | .preset _ f => p.onPreset header f none
    | .param _ f => p.onParam header f none
    | .service _ tag => p.onService header tag true fun p a => p.reply a .unknown 0

end Sys2Proof.Machine
end

