-- ==== Sys2Proof/Machine/SensorCommands.lean ====
section
/-! DEFINITION. The commands of the sensor lines, the feedback inputs, the key and the supply: one meaning for each. -/

namespace Sys2Proof.Machine

/-! ### Sensor lines -/

/-- A loss input's accumulators changed. -/
def Part.modLoss (s : Part) (i : LossInput) (f : LossCapture → LossCapture) : Part :=
  { s with capture := { s.capture with loss := s.capture.loss.set i (f (s.capture.loss.get i)) } }

/-- A PWM input's accumulators changed. -/
def Part.modPwm (s : Part) (i : PwmInput) (f : PwmCapture → PwmCapture) : Part :=
  { s with capture := { s.capture with pwm := s.capture.pwm.set i (f (s.capture.pwm.get i)) } }

/-- A speed input's accumulators changed. -/
def Part.modSpeed (s : Part) (v : SpeedChannel) (f : SpeedCapture → SpeedCapture) : Part :=
  { s with capture := { s.capture with speed := s.capture.speed.set v (f (s.capture.speed.get v)) } }

/-- The drive of a speed channel turned off by an instantaneous rpm, where it is DRIVING and the rpm ends its drive (R120, R124). -/
def Part.judgeDrive (s : Part) (v : SpeedChannel) : Part :=
  match (s.motionOf v.channel).phase, (s.motionOf v.channel).move with
  | .driving, some mv => if s.rpmEndsDrive v mv (s.rpmOf v) then s.endDrive v.channel .ownEnd else s
  | _, _ => s

/-- A closed period: added to the window, its instantaneous rpm kept and handed to the speed move and, for the drum, to Plug Relief
(R4, R5). -/
def Part.closePeriod (s : Part) (v : SpeedChannel) (p : Nat) : Part :=
  let rpm := instantRpm (s.cal.speed.get v) p s.freeIndex
  let s : Part := s.modSpeed v fun c => { c.addPeriod p with rpm := rpm }
  let s : Part := { s with freeIndex := s.freeIndex + 1 }
  let s : Part := s.judgeDrive v
  match v with
  | .drum => s.judgeDrumPeriod rpm
  | .fan => s

/-- A qualifying edge: it closes a period or is overdue, becomes the previous edge, and on the drum starts the watch timer again
(R3, R146). -/
def Part.qualifyingEdge (s : Part) (v : SpeedChannel) : Part :=
  let period := (s.capture.speed.get v).closedPeriod s.now
  let s : Part := s.modSpeed v fun c => { c with lastEdge := some s.now }
  let s : Part := match period with
    | some p => s.closePeriod v p
    | none => s
  match v with
  | .drum => s.startWatch
  | .fan => s

/-- LOSS_EDGE (R1, R2). -/
def execLossEdge (dt : Nat) (input : LossInput) (s : State) : Host.Outcome State Fault Refusal :=
  s.goOn fun p => p.onEvent dt fun p => p.modLoss input fun l => l.candidate p.now p.cal.deadTime

/-- SPEED_EDGE (R3 to R5). -/
def execSpeedEdge (dt : Nat) (input : SpeedChannel) (edge : Edge) (s : State) : Host.Outcome State Fault Refusal :=
  s.goOn fun p => p.onEvent dt fun p =>
    if (p.cal.speed.get input).edges.admits edge then p.qualifyingEdge input else p

/-- PWM_EDGE (R6). -/
def execPwmEdge (dt : Nat) (input : PwmInput) (edge : Edge) (s : State) : Host.Outcome State Fault Refusal :=
  s.goOn fun p => p.onEvent dt fun p => p.modPwm input fun c =>
    match edge with
    | .rising => c.rise p.now
    | .falling => c.fall p.now

/-- TAIL_CHANGE (R7). The level of the line is there whether the part works or not. -/
def execTailChange (dt : Nat) (active : Bool) (s : State) : Host.Outcome State Fault Refusal :=
  s.goOn fun p => ({ p with lines := { p.lines with tail := active } } : Part).onEvent dt Part.setGate

/-- The SEP line at a new level: the 50 ms begin, or end without effect where the level is that of the separator state (R8). -/
def Part.sepChanges (s : Part) (level : Bool) : Part :=
  { s with capture := { s.capture with
      sepQualifyAt := if level = s.capture.engaged then none else some (s.now + sepQualifyTime) } }

/-- SEP_LEVEL_CHANGE (R8). A level that the line already has is no change. -/
def execSepLevelChange (dt : Nat) (engaged : Bool) (s : State) : Host.Outcome State Fault Refusal :=
  s.goOn fun p =>
    if p.lines.sep = engaged then p.onEvent dt fun p => p
    else ({ p with lines := { p.lines with sep := engaged } } : Part).onEvent dt fun p => p.sepChanges engaged

/-- SEP_QUALIFY_EXPIRY (R8, R11, R77, R78, R155, R157). -/
def execSepQualifyExpiry (order : Order) (s : State) : Host.Outcome State Fault Refusal :=
  s.goOn fun p => p.onExpiry p.capture.sepQualifyAt fun p => p.changeSeparator p.lines.sep order

/-- FEEDBACK_PULSE (R106, R110), with the take rule on a channel it frees. -/
def execFeedbackPulse (dt : Nat) (input : PosChannel) (s : State) : Host.Outcome State Fault Refusal :=
  s.goOn fun p => p.onEvent dt fun p => (p.pulse input).take input.channel

/-! ### Key and supply -/

/-- KEY_FALLS (R167, R170). -/
def execKeyFalls (dt : Nat) (order : Order) (s : State) : Host.Outcome State Fault Refusal :=
  s.goOn fun p => ({ p with lines := { p.lines with key := false } } : Part).onEvent dt fun p => p.keyDown order

/-- KEY_RETURNS (R167, R168, R170), in every supply state. -/
def execKeyReturns (dt : Nat) (s : State) : Host.Outcome State Fault Refusal :=
  s.goOn fun p => ({ p with now := p.now + dt, lines := { p.lines with key := true } } : Part).keyBack

/-- POWER_ON (R169, R170). -/
def execPowerOn (dt : Nat) (s : State) : Host.Outcome State Fault Refusal :=
  s.goOn fun p => ({ p with now := p.now + dt } : Part).powerUp

/-- SUPPLY_DIP (R170): a restart without a shutdown step; without supply there is nothing to dip (assumption 5). -/
def execSupplyDip (dt : Nat) (s : State) : Host.Outcome State Fault Refusal :=
  s.goOn fun p =>
    let p : Part := { p with now := p.now + dt }
    if p.power = .off then p else p.startUp { p.store.resetCauses with supplyDip := true }

/-- POWER_LOSS (R159, R167): the part stops; an operation in flight ends without STORE_DONE. -/
def execPowerLoss (dt : Nat) (s : State) : Host.Outcome State Fault Refusal :=
  s.goOn fun p => { ({ p with now := p.now + dt } : Part).dropOp with power := .off, phold := false }

end Sys2Proof.Machine
end

