-- ==== Sys2Proof/Machine/StoreCommands.lean ====
section
/-! DEFINITION. The start of the POSITION_WRITE and the ends of the store operations: one meaning for each. -/

namespace Sys2Proof.Machine

/-- POSITION_WRITE_START (R167 step 3). -/
def execPositionWriteStart (s : State) : Host.Outcome State Fault Refusal :=
  s.goOn fun p => p.onEvent 0 Part.startPositionWrite

/-- SAVE_COMPLETES (R159). -/
def execSaveCompletes (readBack : ReadBack) (s : State) : Host.Outcome State Fault Refusal :=
  s.goOn fun p => p.completeOp .save readBack fun p _ => p

/-- ERASE_COMPLETES (R159). -/
def execEraseCompletes (readBack : ReadBack) (s : State) : Host.Outcome State Fault Refusal :=
  s.goOn fun p => p.completeOp .erase readBack fun p _ => p

/-- WIPE_COMPLETES (R159, R161). -/
def execWipeCompletes (readBack : List (Nat × List Word)) (s : State) : Host.Outcome State Fault Refusal :=
  s.goOn fun p => p.completeWipe readBack

/-- SAVE_CAL_COMPLETES: a good read-back sets the pending calibration's valid flag (R162). -/
def execSaveCalCompletes (readBack : ReadBack) (s : State) : Host.Outcome State Fault Refusal :=
  s.goOn fun p => p.completeOp .saveCal readBack fun p good =>
    if good then { p with store := { p.store with pendingCal := { p.store.pendingCal with valid := true } } } else p

/-- LOCK_CAL_COMPLETES: a good read-back sets the lock mark (R162). -/
def execLockCalCompletes (readBack : ReadBack) (s : State) : Host.Outcome State Fault Refusal :=
  s.goOn fun p => p.completeOp .lockCal readBack fun p good =>
    if good then { p with store := { p.store with lockMark := true } } else p

/-- POSITION_WRITE_COMPLETES (R167 step 4, R168, R170). -/
def execPositionWriteCompletes (readBack : ReadBack) (s : State) : Host.Outcome State Fault Refusal :=
  s.goOn fun p => p.completeOp .positionWrite readBack fun p _ => p.recordWritten

/-- POSITION_ERASE_COMPLETES (R159). -/
def execPositionEraseCompletes (readBack : ReadBack) (s : State) : Host.Outcome State Fault Refusal :=
  s.goOn fun p => p.completeOp .positionErase readBack fun p _ => p

end Sys2Proof.Machine
end

