-- ==== Sys2Proof/Machine/TimerCommands.lean ====
section
/-! DEFINITION. The expiries of the part's timers: one meaning for each. A timer that does not run expires nothing (assumption 2). -/

namespace Sys2Proof.Machine

/-- WINDOW_TIMER_EXPIRY (R10, R12). -/
def execWindowTimerExpiry (order : Order) (s : State) : Host.Outcome State Fault Refusal :=
  s.goOn fun p => p.onExpiry (some p.windowDeadline) fun p => p.closeWindow .full order

/-- When a hold's one-second timer runs out, none for an UNTIL_RELEASE hold and without a hold (R63). -/
def BookEntry.holdExpiry (e : BookEntry) : Option Nat :=
  match e.hold with
  | some ⟨_, .seconds _ t⟩ => some t
  | some ⟨_, .untilRelease⟩ | none => none

/-- A hold one second on: removed when no second remains, otherwise its timer starts again (R63). -/
def Hold.tick (h : Hold) (now : Nat) : Option Hold :=
  match h.time with
  | .seconds left _ => if left ≤ 1 then none else some { h with time := .seconds (left - 1) (now + holdTick) }
  | .untilRelease => some h

/-- HOLD_TIMER_EXPIRY (R63). -/
def execHoldTimerExpiry (channel : Channel) (s : State) : Host.Outcome State Fault Refusal :=
  s.goOn fun p => p.onExpiry (p.entryOf channel).holdExpiry fun p =>
    p.modBook channel fun e => { e with hold := e.hold.bind (·.tick p.now) }

/-- JOG_REFRESH_EXPIRY: as a JOG_STOP of each jog's requester (R71, R119, R120, R175). -/
def execJogRefreshExpiry (channel : Channel) (s : State) : Host.Outcome State Fault Refusal :=
  s.goOn fun p => p.onExpiry (p.bus.jogTimers.get channel) fun p =>
    ({ p with bus := { p.bus with jogTimers := p.bus.jogTimers.set channel none } } : Part).endJogs channel

/-- Ground speed has become unknown (R9, R81, R174). -/
def Part.loseSpeed (s : Part) (o : Order) : Part :=
  let s : Part := { s with bus := { s.bus with speedKnown := false, freshUntil := none } }
  (s.judgeHarvesting true).endService o 2

/-- GROUND_SPEED_FRESHNESS_EXPIRY (R174). -/
def execGroundSpeedFreshnessExpiry (order : Order) (s : State) : Host.Outcome State Fault Refusal :=
  s.goOn fun p => p.onExpiry p.bus.freshUntil fun p => p.loseSpeed order

/-- COAST_TIMER_EXPIRY (R107), with the preemption by a RELIEF move that enters WAITING (R140, R142) and the take rule on a channel
it frees. -/
def execCoastTimerExpiry (channel : PosChannel) (s : State) (releaseFirst : Bool := false) : Host.Outcome State Fault Refusal :=
  s.goOn fun p => p.onExpiry (p.motionOf channel.channel).coastEndsAt fun p =>
    ((p.coastEnds channel).preemptUnless releaseFirst channel.channel).take channel.channel

/-- SETTLE_TIMER_EXPIRY (R124), with the take rule on a channel it frees. -/
def execSettleTimerExpiry (channel : SpeedChannel) (s : State) : Host.Outcome State Fault Refusal :=
  s.goOn fun p => p.onExpiry (p.motionOf channel.channel).coastEndsAt fun p =>
    (p.settleEnds channel).take channel.channel

/-- STALL_TIMER_EXPIRY (R111). -/
def execStallTimerExpiry (channel : PosChannel) (s : State) : Host.Outcome State Fault Refusal :=
  s.goOn fun p => p.onExpiry (p.motionOf channel.channel).stallAt fun p => p.endDrive channel.channel .stall

/-- When the drive time of a driving speed channel reaches the maximum in force (R124, R126). -/
def Part.driveTimeUp (s : Part) (v : SpeedChannel) : Option Nat :=
  match (s.motionOf v.channel).phase, (s.motionOf v.channel).move with
  | .driving, some mv => some ((s.motionOf v.channel).drivingSince + (s.maxDriveTime v - mv.driveTime))
  | _, _ => none

/-- MAXIMUM_DRIVE_TIME_EXPIRY (R124). -/
def execMaximumDriveTimeExpiry (channel : SpeedChannel) (s : State) : Host.Outcome State Fault Refusal :=
  s.goOn fun p => p.onExpiry (p.driveTimeUp channel) fun p =>
    (p.modMotion channel.channel fun m => { m with move := m.move.map fun mv => { mv with limit := true } }).endDrive
      channel.channel .ownEnd

/-- DRUM_WATCH_TIMER_EXPIRY: the timer starts again, and the expiry is judged as an overdue period (R146). -/
def execDrumWatchTimerExpiry (s : State) : Host.Outcome State Fault Refusal :=
  s.goOn fun p => p.onExpiry p.override.watchAt fun p => p.startWatch.slowPeriod

/-- The confirm timer expires: Plug Relief enters OPENING from SUSPECT or RETURNING (R148, R149, R152). -/
def Part.confirmPlug (s : Part) (releaseFirst : Bool) : Part :=
  match s.override.relief with
  | .suspect => s.enterOpening 1 releaseFirst
  | .returning => s.enterOpening 2 releaseFirst
  | .disarmed | .spinup | .armed | .opening | .openHeld _ => s

/-- CONFIRM_TIMER_EXPIRY (R149). -/
def execConfirmTimerExpiry (s : State) (releaseFirst : Bool := false) : Host.Outcome State Fault Refusal :=
  s.goOn fun p => p.onExpiry p.override.confirmAt fun p => p.confirmPlug releaseFirst

/-- RECOVER_TIMER_EXPIRY (R151, R152). -/
def execRecoverTimerExpiry (s : State) : Host.Outcome State Fault Refusal :=
  s.goOn fun p => p.onExpiry p.override.recoverAt Part.enterReturning

/-- The give-up timer expires: the failed mark is set and RELIEF_FAILED raised (R151). -/
def Part.giveUp (s : Part) : Part :=
  let s : Part := s.setRelief (.openHeld true)
  let s : Part := { s with override := { s.override with giveUpAt := none, recoverAt := none } }
  s.raise .reliefFailed (some .concave) 0 s.drumDetail

/-- GIVE_UP_TIMER_EXPIRY (R151). -/
def execGiveUpTimerExpiry (s : State) : Host.Outcome State Fault Refusal :=
  s.goOn fun p => p.onExpiry p.override.giveUpAt Part.giveUp

/-- DEADLINE_TIMER_EXPIRY (R168, R170). -/
def execDeadlineTimerExpiry (s : State) : Host.Outcome State Fault Refusal :=
  s.goOn fun p => p.onExpiry (p.shutdown.bind (·.deadlineAt)) Part.deadlinePasses

/-- Transmission resumes without the periodic frames of earlier windows (R177). -/
def Part.rejoin (s : Part) : Part :=
  let stale : Frame → Bool := fun f => match f.body.stamp with
    | some n => n < s.window.number
    | none => false
  { s with bus := { s.bus with silentUntil := none, queue := s.bus.queue.filter fun f => !stale f } }

/-- BUS_OFF_SILENCE_EXPIRY (R177). -/
def execBusOffSilenceExpiry (s : State) : Host.Outcome State Fault Refusal :=
  s.goOn fun p => p.onExpiry p.bus.silentUntil Part.rejoin

end Sys2Proof.Machine
end

