-- ==== Sys2Proof/Machine/Dispatch.lean ====
section
/-! DEFINITION. Which meaning each command has: one arm per constructor of `Instr`. -/

namespace Sys2Proof.Machine

def exec (i : Instr) (s : State) : Host.Outcome State Fault Refusal :=
  match i with
  | .lossEdge dt input => Sys2Proof.Machine.execLossEdge dt input s
  | .speedEdge dt input edge => Sys2Proof.Machine.execSpeedEdge dt input edge s
  | .pwmEdge dt input edge => Sys2Proof.Machine.execPwmEdge dt input edge s
  | .tailChange dt active => Sys2Proof.Machine.execTailChange dt active s
  | .sepLevelChange dt engaged => Sys2Proof.Machine.execSepLevelChange dt engaged s
  | .sepQualifyExpiry order => Sys2Proof.Machine.execSepQualifyExpiry order s
  | .feedbackPulse dt input => Sys2Proof.Machine.execFeedbackPulse dt input s
  | .keyFalls dt order => Sys2Proof.Machine.execKeyFalls dt order s
  | .keyReturns dt => Sys2Proof.Machine.execKeyReturns dt s
  | .powerOn dt => Sys2Proof.Machine.execPowerOn dt s
  | .supplyDip dt => Sys2Proof.Machine.execSupplyDip dt s
  | .windowTimerExpiry order => Sys2Proof.Machine.execWindowTimerExpiry order s
  | .holdTimerExpiry channel => Sys2Proof.Machine.execHoldTimerExpiry channel s
  | .jogRefreshExpiry channel => Sys2Proof.Machine.execJogRefreshExpiry channel s
  | .groundSpeedFreshnessExpiry order => Sys2Proof.Machine.execGroundSpeedFreshnessExpiry order s
  | .coastTimerExpiry channel releaseFirst => Sys2Proof.Machine.execCoastTimerExpiry channel s releaseFirst
  | .settleTimerExpiry channel => Sys2Proof.Machine.execSettleTimerExpiry channel s
  | .stallTimerExpiry channel => Sys2Proof.Machine.execStallTimerExpiry channel s
  | .maximumDriveTimeExpiry channel => Sys2Proof.Machine.execMaximumDriveTimeExpiry channel s
  | .drumWatchTimerExpiry => Sys2Proof.Machine.execDrumWatchTimerExpiry s
  | .confirmTimerExpiry releaseFirst => Sys2Proof.Machine.execConfirmTimerExpiry s releaseFirst
  | .recoverTimerExpiry => Sys2Proof.Machine.execRecoverTimerExpiry s
  | .giveUpTimerExpiry => Sys2Proof.Machine.execGiveUpTimerExpiry s
  | .deadlineTimerExpiry => Sys2Proof.Machine.execDeadlineTimerExpiry s
  | .positionWriteStart => Sys2Proof.Machine.execPositionWriteStart s
  | .saveCompletes readBack => Sys2Proof.Machine.execSaveCompletes readBack s
  | .eraseCompletes readBack => Sys2Proof.Machine.execEraseCompletes readBack s
  | .wipeCompletes readBack => Sys2Proof.Machine.execWipeCompletes readBack s
  | .saveCalCompletes readBack => Sys2Proof.Machine.execSaveCalCompletes readBack s
  | .lockCalCompletes readBack => Sys2Proof.Machine.execLockCalCompletes readBack s
  | .positionWriteCompletes readBack => Sys2Proof.Machine.execPositionWriteCompletes readBack s
  | .positionEraseCompletes readBack => Sys2Proof.Machine.execPositionEraseCompletes readBack s
  | .set dt header fields => Sys2Proof.Machine.execSet dt header fields s
  | .jogStart dt header fields => Sys2Proof.Machine.execJogStart dt header fields s
  | .jogStop dt header fields => Sys2Proof.Machine.execJogStop dt header fields s
  | .home dt header fields => Sys2Proof.Machine.execHome dt header fields s
  | .shake dt header fields => Sys2Proof.Machine.execShake dt header fields s
  | .auto dt header fields => Sys2Proof.Machine.execAuto dt header fields s
  | .manual dt header fields => Sys2Proof.Machine.execManual dt header fields s
  | .releaseHold dt header fields => Sys2Proof.Machine.execReleaseHold dt header fields s
  | .load dt header fields => Sys2Proof.Machine.execLoad dt header fields s
  | .save dt header fields => Sys2Proof.Machine.execSave dt header fields s
  | .erase dt header fields => Sys2Proof.Machine.execErase dt header fields s
  | .wipe dt header fields => Sys2Proof.Machine.execWipe dt header fields s
  | .lockCal dt header fields => Sys2Proof.Machine.execLockCal dt header fields s
  | .inhibit dt header fields => Sys2Proof.Machine.execInhibit dt header fields s
  | .saveCal dt header fields => Sys2Proof.Machine.execSaveCal dt header fields s
  | .paramRead dt header fields => Sys2Proof.Machine.execParamRead dt header fields s
  | .paramWrite dt header fields => Sys2Proof.Machine.execParamWrite dt header fields s
  | .enter dt header tag order => Sys2Proof.Machine.execEnter dt header tag order s
  | .leave dt header tag => Sys2Proof.Machine.execLeave dt header tag s
  | .restart dt header tag order => Sys2Proof.Machine.execRestart dt header tag order s
  | .clearCauses dt header tag => Sys2Proof.Machine.execClearCauses dt header tag s
  | .windowRestart dt header tag order => Sys2Proof.Machine.execWindowRestart dt header tag order s
  | .bookQuery dt header => Sys2Proof.Machine.execBookQuery dt header s
  | .motionStatus dt header speed order => Sys2Proof.Machine.execMotionStatus dt header speed order s
  | .qualityReport dt header broken foreign samples => Sys2Proof.Machine.execQualityReport dt header broken foreign samples s
  | .unknownKindFrame dt header kind => Sys2Proof.Machine.execUnknownKindFrame dt header kind s
  | .frameTransmitted dt => Sys2Proof.Machine.execFrameTransmitted dt s
  | .transmissionFailure dt => Sys2Proof.Machine.execTransmissionFailure dt s
  | .busOff dt => Sys2Proof.Machine.execBusOff dt s
  | .busOffSilenceExpiry => Sys2Proof.Machine.execBusOffSilenceExpiry s
  | .powerLoss dt => Sys2Proof.Machine.execPowerLoss dt s
  | .unknownOperation dt header request => Sys2Proof.Machine.execUnknownOperation dt header request s

end Sys2Proof.Machine
end

