-- ==== Sys2Proof/Safety.lean ====
section
/-! DEFINITION. What the statements speak of: when a command is timely (assumption 31), and the laws a state keeps from step to step. -/

namespace Sys2Proof.Machine

/-! ### Timely commands (assumption 31) -/

/-- The time that a command says has passed since the one before it, none for an expiry, a completion or the start of the
POSITION_WRITE, which come about at a deadline of the part's own. -/
def commandTime : Instr → Option Nat
  | .lossEdge dt _ | .speedEdge dt _ _ | .pwmEdge dt _ _ | .tailChange dt _ | .sepLevelChange dt _ | .feedbackPulse dt _
  | .keyFalls dt _ | .keyReturns dt | .powerOn dt | .supplyDip dt
  | .set dt _ _ | .jogStart dt _ _ | .jogStop dt _ _ | .home dt _ _ | .shake dt _ _ | .auto dt _ _ | .manual dt _ _
  | .releaseHold dt _ _ | .load dt _ _ | .save dt _ _ | .erase dt _ _ | .wipe dt _ _ | .lockCal dt _ _ | .inhibit dt _ _
  | .saveCal dt _ _ | .paramRead dt _ _ | .paramWrite dt _ _ | .enter dt _ _ _ | .leave dt _ _ | .restart dt _ _ _
  | .clearCauses dt _ _ | .windowRestart dt _ _ _ | .bookQuery dt _ | .motionStatus dt _ _ _ | .qualityReport dt _ _ _ _
  | .unknownKindFrame dt _ _ | .frameTransmitted dt | .transmissionFailure dt | .busOff dt | .powerLoss dt
  | .unknownOperation dt _ _ => some dt
  | .sepQualifyExpiry _ | .windowTimerExpiry _ | .holdTimerExpiry _ | .jogRefreshExpiry _ | .groundSpeedFreshnessExpiry _
  | .coastTimerExpiry _ _ | .settleTimerExpiry _ | .stallTimerExpiry _ | .maximumDriveTimeExpiry _ | .drumWatchTimerExpiry
  | .confirmTimerExpiry _ | .recoverTimerExpiry | .giveUpTimerExpiry | .deadlineTimerExpiry | .positionWriteStart
  | .saveCompletes _ | .eraseCompletes _ | .wipeCompletes _ | .saveCalCompletes _ | .lockCalCompletes _
  | .positionWriteCompletes _ | .positionEraseCompletes _ | .busOffSilenceExpiry => none

/-- The header of the frame that a command is, none where it is no frame received. -/
def frameHeader : Instr → Option FrameHeader
  | .set _ h _ | .jogStart _ h _ | .jogStop _ h _ | .home _ h _ | .shake _ h _ | .auto _ h _ | .manual _ h _
  | .releaseHold _ h _ | .load _ h _ | .save _ h _ | .erase _ h _ | .wipe _ h _ | .lockCal _ h _ | .inhibit _ h _
  | .saveCal _ h _ | .paramRead _ h _ | .paramWrite _ h _ | .enter _ h _ _ | .leave _ h _ | .restart _ h _ _
  | .clearCauses _ h _ | .windowRestart _ h _ _ | .bookQuery _ h | .motionStatus _ h _ _ | .qualityReport _ h _ _ _
  | .unknownKindFrame _ h _ | .unknownOperation _ h _ => some h
  | .lossEdge _ _ | .speedEdge _ _ _ | .pwmEdge _ _ _ | .tailChange _ _ | .sepLevelChange _ _ | .sepQualifyExpiry _
  | .feedbackPulse _ _ | .keyFalls _ _ | .keyReturns _ | .powerOn _ | .supplyDip _ | .windowTimerExpiry _
  | .holdTimerExpiry _ | .jogRefreshExpiry _ | .groundSpeedFreshnessExpiry _ | .coastTimerExpiry _ _ | .settleTimerExpiry _
  | .stallTimerExpiry _ | .maximumDriveTimeExpiry _ | .drumWatchTimerExpiry | .confirmTimerExpiry _ | .recoverTimerExpiry
  | .giveUpTimerExpiry | .deadlineTimerExpiry | .positionWriteStart | .saveCompletes _ | .eraseCompletes _
  | .wipeCompletes _ | .saveCalCompletes _ | .lockCalCompletes _ | .positionWriteCompletes _ | .positionEraseCompletes _
  | .frameTransmitted _ | .transmissionFailure _ | .busOff _ | .busOffSilenceExpiry | .powerLoss _ => none

/-- The end of the operation in flight, where it is of a kind. -/
def Part.endOf (s : Part) (k : StoreKind) : Option Nat :=
  match s.store.op with
  | some op => if op.kind = k then some op.endsAt else none
  | none => none

/-- The deadline at which an expiry or a completion comes about, none where its timer does not run. -/
def Part.deadlineOf (s : Part) : Instr → Option Nat
  | .sepQualifyExpiry _ => s.capture.sepQualifyAt
  | .windowTimerExpiry _ => some s.windowDeadline
  | .holdTimerExpiry c => (s.entryOf c).holdExpiry
  | .jogRefreshExpiry c => s.bus.jogTimers.get c
  | .groundSpeedFreshnessExpiry _ => s.bus.freshUntil
  | .coastTimerExpiry p _ => (s.motionOf p.channel).coastEndsAt
  | .settleTimerExpiry v => (s.motionOf v.channel).coastEndsAt
  | .stallTimerExpiry p => (s.motionOf p.channel).stallAt
  | .maximumDriveTimeExpiry v => s.driveTimeUp v
  | .drumWatchTimerExpiry => s.override.watchAt
  | .confirmTimerExpiry _ => s.override.confirmAt
  | .recoverTimerExpiry => s.override.recoverAt
  | .giveUpTimerExpiry => s.override.giveUpAt
  | .deadlineTimerExpiry => s.shutdown.bind (·.deadlineAt)
  | .saveCompletes _ => s.endOf .save
  | .eraseCompletes _ => s.endOf .erase
  | .wipeCompletes _ => s.endOf .wipe
  | .saveCalCompletes _ => s.endOf .saveCal
  | .lockCalCompletes _ => s.endOf .lockCal
  | .positionWriteCompletes _ => s.endOf .positionWrite
  | .positionEraseCompletes _ => s.endOf .positionErase
  | .busOffSilenceExpiry => s.bus.silentUntil
  | _ => none

/-- Every deadline that runs. -/
def Part.deadlines (s : Part) : List Nat :=
  [s.windowDeadline] ++ s.capture.sepQualifyAt.toList ++ Channel.all.filterMap (fun c => (s.entryOf c).holdExpiry)
    ++ Channel.all.filterMap (fun c => s.bus.jogTimers.get c) ++ s.bus.freshUntil.toList
    ++ Channel.all.filterMap (fun c => (s.motionOf c).coastEndsAt)
    ++ PosChannel.all.filterMap (fun p => (s.motionOf p.channel).stallAt) ++ SpeedChannel.all.filterMap s.driveTimeUp
    ++ s.override.watchAt.toList ++ s.override.confirmAt.toList ++ s.override.recoverAt.toList ++ s.override.giveUpAt.toList
    ++ (s.shutdown.bind (·.deadlineAt)).toList ++ (s.store.op.map (·.endsAt)).toList ++ s.bus.silentUntil.toList

/-- A command is timely: one that carries its time overtakes no running deadline; an expiry is that of a running timer, and no
other runs out before it; the POSITION_WRITE starts once its conditions are met. -/
def Part.timely (s : Part) (c : Instr) : Prop :=
  match commandTime c, s.deadlineOf c with
  | some dt, _ => s.power = .on → ∀ d ∈ s.deadlines, s.now + dt ≤ d
  | none, some d => s.power = .on ∧ ∀ e ∈ s.deadlines, d ≤ e
  | none, none =>
    c = .positionWriteStart ∧ s.power = .on ∧ s.shutdown.isSome ∧ s.store.op = none ∧ ∀ ch, (s.motionOf ch).atRest = true

/-! ### The words of the statements -/

/-- The part, `dt` µs later. -/
def Part.later (s : Part) (dt : Nat) : Part := { s with now := s.now + dt }

/-- The part, at a deadline that is not overtaken. -/
def Part.atTime (s : Part) (d : Nat) : Part := { s with now := max s.now d }

/-- The part works and hears a frame addressed to it from a source other than itself, with at least n data bytes (R171, R177). -/
def Part.receives (s : Part) (h : FrameHeader) (source : Byte) (n : Nat) : Prop :=
  s.power = .on ∧ s.bus.silentUntil = none ∧ h.destination = s.store.activeCal.figures.nodeAddress ∧ h.source = source
    ∧ source ≠ s.store.activeCal.figures.nodeAddress ∧ n ≤ h.length

/-- The REPLY frame with the part's node address as its source (R173). -/
def Part.replyFrame (s : Part) (dest kind tag : Byte) (r : Result) (channel : Byte) (value : Word) : Frame :=
  ⟨s.store.activeCal.figures.nodeAddress, .reply dest kind tag r channel value⟩

/-- The part with a REPLY queued by R176. -/
def Part.answered (s : Part) (dest kind tag : Byte) (r : Result) (channel : Byte) (value : Word) : Part :=
  { s with bus := s.bus.push (s.replyFrame dest kind tag r channel value) }

/-- The transmit queue holds the EVENT_NOTICE of an event, with or without the overrun flag (R179). -/
def Part.notified (s : Part) (code : Event) (c : Option Channel) (d8 d16 window : Nat) : Prop :=
  ∃ f ∈ s.bus.queue, ∃ overrun, f.body = .event code c d8 d16 overrun (window % 65536)

/-- A channel that asked for a slot when so many were held: DRIVING where one was free, WAITING where none was (R127, R131). -/
def Part.drivesOrWaits (s : Part) (c : Channel) (held : Nat) : Prop :=
  (held < 2 → (s.motionOf c).phase = .driving) ∧ (2 ≤ held → (s.motionOf c).phase = .waiting)

/-- A channel whose move has entered WAITING: DRIVING where a slot was free, or where a RELIEF move finds a holder below OVERRIDE and no
release is taken first; WAITING otherwise (R131, R140, R142). `p` is the part as the entry finds it. -/
def Part.servedOrWaits (t p : Part) (c : Channel) (k : MoveKind) (releaseFirst : Bool) : Prop :=
  let preempts := k = .relief ∧ releaseFirst = false ∧ ∃ y ∈ p.slots, p.classOf y.channel < 3
  (p.slots.length < 2 → (t.motionOf c).phase = .driving)
    ∧ (2 ≤ p.slots.length → (∀ y ∈ p.slots, y.channel ≠ c) →
        (preempts → (t.motionOf c).phase = .driving) ∧ (¬preempts → (t.motionOf c).phase = .waiting))

/-- The transmit queue holds the RESTRAIN_NOTICE of the Feed Restrain as it stands (R54). -/
def Part.restrainSent (s : Part) : Prop :=
  ⟨s.store.activeCal.figures.nodeAddress, .restrainNotice s.evaluator.restrain s.reduction s.evaluator.latestLoad
    (s.window.number % 65536)⟩ ∈ s.bus.queue

/-- The part as a start-up at a time leaves it, with the reset-cause record given: working with PHOLD asserted, window 1 in progress,
nothing asked for, moving or held, the POSITION_ERASE in flight and START_UP first in the transmit queue; a key-off shutdown runs where
KEY is low (R101, R159, R167, R169, R170). -/
def Part.restarted (t : Part) (now : Nat) (causes : ResetCauses) : Prop :=
  t.now = now ∧ t.power = .on ∧ t.phold = true ∧ t.window.number = 1 ∧ t.window.history = [] ∧ t.window.startedAt = now
    ∧ t.service = false ∧ t.capture.engaged = false ∧ t.harvesting = false
    ∧ (∀ c, (t.entryOf c).requests = [] ∧ (t.entryOf c).hold = none ∧ (t.motionOf c).move = none) ∧ t.slots = []
    ∧ t.override.relief = .disarmed ∧ t.evaluator.restrain = .opened ∧ t.louverTrim = 0 ∧ t.fanOffset = 0
    ∧ t.store.resetCauses = causes ∧ t.store.inhibit = false
    ∧ t.store.op = some ⟨.positionErase, [1], List.replicate 256 0xFFFF, now, now + 40000⟩
    ∧ (∃ f rest overrun, t.bus.queue = f :: rest ∧ f.body =
        .event .startUp none causes.code (t.store.recordNumber % 65536) overrun 1)
    ∧ (t.shutdown.isSome = true ↔ t.lines.key = false)

/-- An accepted SET or JOG_START of a requester starts a hold (R62). -/
def Part.startsHold (s : Part) (c : Channel) (who : Holder) : Bool :=
  (s.entryOf c).mode = .auto && (match who with
    | .operator => decide (∀ k ∈ (s.entryOf c).hold, k.holder = .operator)
    | .service => !s.service)

/-- The hold that an accepted SET or JOG_START of a requester leaves on a channel (R62, R63). -/
def Part.holdAfter (s : Part) (c : Channel) (who : Holder) : Option Hold :=
  let time : HoldTime :=
    if s.store.activePreset.holdTime = 0 then .untilRelease else .seconds s.store.activePreset.holdTime (s.now + 1000000)
  if s.startsHold c who then some ⟨who, time⟩ else (s.entryOf c).hold

/-- The level lines after a command. -/
def linesAfter (l : Lines) : Instr → Lines
  | .tailChange _ active => { l with tail := active }
  | .sepLevelChange _ engaged => { l with sep := engaged }
  | .keyFalls _ _ => { l with key := false }
  | .keyReturns _ => { l with key := true }
  | _ => l

/-- The command that a SETTING_REQUEST of a kind is. -/
def settingCommand (k : SettingKind) (dt : Nat) (h : FrameHeader) (f : SettingFields) : Instr :=
  match k with
  | .set => .set dt h f
  | .jogStart => .jogStart dt h f
  | .jogStop => .jogStop dt h f
  | .home => .home dt h f
  | .shake => .shake dt h f

/-- The command that a MODE_REQUEST of an operation is. -/
def modeCommand (o : ModeOp) (dt : Nat) (h : FrameHeader) (f : ModeFields) : Instr :=
  match o with
  | .auto => .auto dt h f
  | .manual => .manual dt h f
  | .releaseHold => .releaseHold dt h f

/-- The command that a PRESET_REQUEST of an operation is. -/
def presetCommand (o : PresetOp) (dt : Nat) (h : FrameHeader) (f : PresetFields) : Instr :=
  match o with
  | .load => .load dt h f
  | .save => .save dt h f
  | .erase => .erase dt h f
  | .wipe => .wipe dt h f
  | .lockCal => .lockCal dt h f
  | .inhibit => .inhibit dt h f
  | .saveCal => .saveCal dt h f

/-- A channel that a request finds free (R68): IDLE, without a move, not blocked by Plug Relief, its Request List empty. -/
def Part.standsFree (s : Part) (c : Channel) : Prop :=
  (s.motionOf c).phase = .idle ∧ (s.motionOf c).move = none ∧ (c = .concave → s.override.relief.blocks = false)
    ∧ (s.entryOf c).requests = []

/-- A request frame as steps 1, 3 and 4 of R171 judge it: its header; the low byte of its kind; how many bytes its fields have, the
tag always the last of them; the tag; the channel, where the kind has one, always the first; and, for a frame of the Cab Terminal,
whether 10.1 lets it send such an operation or number, and how many bytes that test reads. -/
structure RequestFrame where
  dt : Nat
  header : FrameHeader
  kind : Byte
  bytes : Nat
  tag : Byte
  channel : Option Byte
  cabMay : Bool
  cabReads : Nat
  deriving DecidableEq, Repr

/-- The Cab Terminal may name a parameter by this number (10.1). -/
def cabMayName (number : Word) : Bool := decide (0x100 ≤ number.toNat ∧ number.toNat ≤ 0x3FF)

/-- The request frame that a command is, none for BOOK_QUERY, which has no fields, and where it is no request received (10.1,
10.6). -/
def requestFrame : Instr → Option RequestFrame
  | .set dt h f | .jogStart dt h f | .jogStop dt h f | .home dt h f | .shake dt h f | .unknownOperation dt h (.setting _ f) =>
    some ⟨dt, h, 0x01, 6, f.tag, some f.channel, true, 0⟩
  | .auto dt h f | .manual dt h f | .releaseHold dt h f | .unknownOperation dt h (.mode _ f) =>
    some ⟨dt, h, 0x02, 3, f.tag, some f.channel, true, 0⟩
  | .load dt h f | .save dt h f | .erase dt h f | .inhibit dt h f | .unknownOperation dt h (.preset _ f) =>
    some ⟨dt, h, 0x03, 4, f.tag, none, true, 1⟩
  | .wipe dt h f | .lockCal dt h f | .saveCal dt h f => some ⟨dt, h, 0x03, 4, f.tag, none, false, 1⟩
  | .paramRead dt h f | .paramWrite dt h f => some ⟨dt, h, 0x04, 6, f.tag, none, cabMayName f.number, 3⟩
  | .unknownOperation dt h (.param _ f) => some ⟨dt, h, 0x04, 6, f.tag, none, true, 3⟩
  | .enter dt h tag _ | .leave dt h tag | .restart dt h tag _ | .clearCauses dt h tag => some ⟨dt, h, 0x05, 2, tag, none, false, 1⟩
  | .windowRestart dt h tag _ | .unknownOperation dt h (.service _ tag) => some ⟨dt, h, 0x05, 2, tag, none, true, 1⟩
  | _ => none

/-- The port hears a frame as one to its part: it is not silent after a bus-off, and the frame goes to the node address and does not
come from it (R171 step 1, R177). -/
def Part.hearsFrame (s : Part) (h : FrameHeader) : Prop :=
  s.bus.silentUntil = none ∧ h.destination = s.store.activeCal.figures.nodeAddress
    ∧ h.source ≠ s.store.activeCal.figures.nodeAddress

/-- The source of a request frame is permitted: the Service Tool, or the Cab Terminal where 10.1 lets it send such a one or the
frame is too short to tell (R171 step 3; the latter is assumption 15). -/
def RequestFrame.permitted (f : RequestFrame) : Prop :=
  f.header.source = serviceAddress ∨ (f.header.source = cabAddress ∧ (f.cabMay = true ∨ f.header.length < f.cabReads))

/-- A store as an operation in flight leaves it that is cut short at a time: the pages of a WIPE dealt with by then, 40 ms each,
are EMPTY, the page concerned is DAMAGED or EMPTY, and every byte of another page is as it was (R159; assumption 8). With no
operation in flight it is the store as it was. -/
def Part.cutShort (s : Part) (now : Nat) (m : Memory) : Prop :=
  (s.store.op = none → m = s.store.memory)
    ∧ ∀ (op : StoreOp) (done : List Nat) (torn : Nat) (rest : List Nat), s.store.op = some op → s.store.memory.wf →
        op.pages = done ++ torn :: rest → op.pages.Nodup → (∀ x ∈ op.pages, x < 18) →
        done.length = (if op.kind = .wipe then min (op.pages.length - 1) ((now - op.startedAt) / 40000) else 0) →
        (judgePage torn (m.page torn) = .damaged ∨ judgePage torn (m.page torn) = .empty)
          ∧ (∀ x ∈ done, judgePage x (m.page x) = .empty)
          ∧ ∀ a, (∀ x ∈ torn :: done, a / 512 ≠ x) → m.byte a = s.store.memory.byte a

/-! ### The laws a state keeps -/

/-- The store is in canonical form and every page has a state (R158). -/
def Part.storeLaw (s : Part) : Prop := s.store.memory.wf ∧ s.store.pageStates.length = 18

/-- The transmit queue holds at most 24 frames (R176). -/
def Part.queueLaw (s : Part) : Prop := s.bus.queue.length ≤ 24

/-- The Window History holds at most 16 records with consecutive numbers, the newest just below the window in progress (R13, R21). -/
def Part.historyLaw (s : Part) : Prop :=
  s.window.history.length ≤ 16 ∧ s.window.history.IsChain (fun a b => b.number = a.number + 1)
    ∧ (∀ r ∈ s.window.history.getLast?, s.window.number = nextWindowNumber r.number)
    ∧ (∀ r ∈ s.window.history, 1 ≤ r.number ∧ r.number ≤ lastWindowNumber)
    ∧ 1 ≤ s.window.number ∧ s.window.number ≤ lastWindowNumber

/-- At most two drive slots are held (R127). -/
def Part.slotLaw (s : Part) : Prop := s.slots.length ≤ 2

/-- Every Request List holds its entries in falling authority, and so at most one of each requester (R67). -/
def Part.listLaw (s : Part) : Prop :=
  ∀ c, ((s.book.get c).requests).Pairwise fun a b => b.requester.rank < a.requester.rank

/-- A value lies within limits. -/
def Limits.holds (l : Limits) (v : Int) : Prop := l.min ≤ v ∧ v ≤ l.max

/-- The envelopes of a preset set are ordered. -/
def Preset.envelopesOrdered (p : Preset) : Prop := ∀ c, (p.envelope.get c).min ≤ (p.envelope.get c).max

/-- The factory limits of a calibration are ordered. -/
def Calibration.factoryOrdered (k : Calibration) : Prop := ∀ c, (k.factory.get c).min ≤ (k.factory.get c).max

/-- Every setpoint and the FAN effective target lie within their channel's active envelope, and every active envelope within that
channel's factory limits (R57); envelopes and factory limits, active and pending, have their minimum at most at their maximum. -/
def Part.settingLaw (s : Part) : Prop :=
  (∀ c, (s.store.activePreset.envelope.get c).holds (s.book.get c).setpoint)
    ∧ s.store.activePreset.envelope.fan.holds s.fanTarget
    ∧ (∀ c, (s.store.activeCal.figures.factory.get c).holds (s.store.activePreset.envelope.get c).min
        ∧ (s.store.activeCal.figures.factory.get c).holds (s.store.activePreset.envelope.get c).max)
    ∧ s.store.activePreset.envelopesOrdered ∧ s.store.pendingPreset.envelopesOrdered
    ∧ s.store.activeCal.figures.factoryOrdered ∧ s.store.pendingCal.figures.factoryOrdered

/-- A preset set holds only what R164 and R82 allow: every parameter in its range and in the order its rule requires, in a Trim
Table of 16 entries and a crop name of 6 numbers. -/
def Preset.lawful (p : Preset) : Prop :=
  p.trimTable.length = 16 ∧ p.cropName.length = 6
    ∧ ∀ q ∈ PresetParam.all, q.range.lo ≤ p.get q ∧ p.get q ≤ q.range.hi ∧ p.ordered q = true

/-- A calibration holds only what R164 admits. -/
def Calibration.lawful (k : Calibration) : Prop :=
  ∀ q ∈ CalParam.all, q.range.lo ≤ k.get q ∧ k.get q ≤ q.range.hi ∧ k.ordered q = true

/-- A position record holds only what R166 admits. -/
def PositionRecord.lawful (r : PositionRecord) : Prop :=
  1 ≤ r.number ∧ r.number ≤ 4294967295 ∧ (∀ n ∈ r.slot, n < 16)
    ∧ (∀ x, -32768 ≤ r.position.get x ∧ r.position.get x ≤ 32767) ∧ ∀ c, -32768 ≤ r.setpoint.get c ∧ r.setpoint.get c ≤ 32767

/-- The parameter sets, active and pending, hold only what R164 and R82 allow. -/
def Part.parameterLaw (s : Part) : Prop :=
  s.store.activePreset.lawful ∧ s.store.pendingPreset.lawful
    ∧ s.store.activeCal.figures.lawful ∧ s.store.pendingCal.figures.lawful

end Sys2Proof.Machine
end

