-- ==== Sys2Proof/Certificates/Slice0/Obligations.lean ====
section
/-! DEFINITION. The statements: what the rules of spec/ say of every command, of every kind of state, and of every step. -/

section

open Sys2Proof Sys2Proof.Machine

/-! ### The machine -/

/-- One step runs the command at the front of the queue on the queue's rest. -/
def Obligations.StepRunsTheFrontCommand : Prop :=
  ∀ (c : Instr) (p : Part) (rest : List Instr), step ⟨p, c :: rest⟩ = exec c ⟨p, rest⟩

/-- On an empty queue the part idles and no time passes: the model's choice, log 3. -/
def Obligations.AnEmptyQueueIdles : Prop :=
  ∀ s : State, s.pending = [] → step s = .next s

/-- Every command, in every state, answers a next state, and leaves the queue's rest as it is. -/
def Obligations.EveryCommandAnswersNext : Prop :=
  ∀ (c : Instr) (p : Part) (q : List Instr), ∃ t : Part, exec c ⟨p, q⟩ = .next ⟨t, q⟩

/-- The part's time after a command (logs 1 and 2, the model's choices): a command that carries its time adds it; an expiry or a
completion comes about at its deadline, or now where that is past, while the part works; one whose timer does not run, or that
finds the part stopped, changes nothing at all; the start of a POSITION_WRITE takes no time. -/
def Obligations.TimePassesAsCommandsSay : Prop :=
  ∀ (c : Instr) (p t : Part) (q r : List Instr), exec c ⟨p, q⟩ = .next ⟨t, r⟩ →
    (∀ dt, commandTime c = some dt → t.now = p.now + dt)
    ∧ (commandTime c = none → c ≠ .positionWriteStart →
        (∀ d, p.power = .on → p.deadlineOf c = some d → t.now = max p.now d)
        ∧ (p.power ≠ .on ∨ p.deadlineOf c = none → t = p))
    ∧ (c = .positionWriteStart → t.now = p.now)

/-- A part without supply, or that has released PHOLD, takes no event: a command other than POWER_ON, KEY_RETURNS, SUPPLY_DIP and
POWER_LOSS moves its clock and the levels of its lines alone. That the clock moves is the model's choice, log 5. -/
def Obligations.AStoppedPartTakesNoEvent : Prop :=
  ∀ (c : Instr) (p : Part) (q : List Instr), p.power ≠ .on →
    (∀ dt, c ≠ .powerOn dt ∧ c ≠ .keyReturns dt ∧ c ≠ .supplyDip dt ∧ c ≠ .powerLoss dt) →
    exec c ⟨p, q⟩ = .next ⟨{ p with now := p.now + (commandTime c).getD 0, lines := linesAfter p.lines c }, q⟩

/-! ### Reset -/

/-- The machine after reset is the part as POWER_ON leaves it at an erased store with KEY on and the other lines inactive (that
these are the lines and the store at reset is the model's choice, log 6), with no command waiting; and every law holds there. -/
def Obligations.ResetIsAPowerOnWithAnErasedStore : Prop :=
  State.reset.pending = []
    ∧ (∀ (p : Part) (q : List Instr), p.now = 0 → p.store.memory = [] → p.store.op = none → p.freeIndex = 0 →
        p.lines = ⟨false, true, false⟩ → exec (.powerOn 0) ⟨p, q⟩ = .next ⟨State.reset.part, q⟩)
    ∧ State.reset.part.storeLaw ∧ State.reset.part.queueLaw ∧ State.reset.part.historyLaw ∧ State.reset.part.slotLaw
    ∧ State.reset.part.listLaw ∧ State.reset.part.settingLaw ∧ State.reset.part.parameterLaw

/-! ### What every step keeps -/

/-- The nonvolatile store keeps its canonical form, and each of the 18 pages has its state (09 9.1, R158). -/
def Obligations.EveryStepKeepsTheStoreInForm : Prop :=
  ∀ s t : State, s.part.storeLaw → step s = .next t → t.part.storeLaw

/-- The transmit queue never holds more than 24 frames (R176). -/
def Obligations.EveryStepKeepsTheQueueWithinItsCapacity : Prop :=
  ∀ s t : State, s.part.queueLaw → step s = .next t → t.part.queueLaw

/-- The Window History keeps at most 16 records with consecutive numbers up to the number before that of the window in progress
(R13, R21). -/
def Obligations.EveryStepKeepsTheHistoryConsecutive : Prop :=
  ∀ s t : State, s.part.historyLaw → step s = .next t → t.part.historyLaw

/-- No more than two drive slots are ever held (R127). -/
def Obligations.EveryStepKeepsTwoSlots : Prop :=
  ∀ s t : State, s.part.slotLaw → step s = .next t → t.part.slotLaw

/-- Every Request List stays in falling authority, and so holds at most one entry of each requester (R67). -/
def Obligations.EveryStepKeepsRequestListsRanked : Prop :=
  ∀ s t : State, s.part.listLaw → step s = .next t → t.part.listLaw

/-- Setpoints and the FAN effective target stay in the active envelopes, these in the factory limits (R57, R59, R60). -/
def Obligations.EveryStepKeepsSettingsInTheirEnvelopes : Prop :=
  ∀ s t : State, s.part.settingLaw → step s = .next t → t.part.settingLaw

/-- Every parameter, active and pending, stays in its range and order (R82, R164, 09 9.3). The range of an envelope's ends, for
which R164 gives an order and no numbers, is the model's choice, log 11 (DEDUCED), and so is what a start-up makes of a VALID page
of values outside their ranges or orders, log 12 (DESIGN CHOICE). -/
def Obligations.EveryStepKeepsParametersLawful : Prop :=
  ∀ s t : State, s.part.parameterLaw → step s = .next t → t.part.parameterLaw

/-! ### Sensor Capture (chapter 1) -/

/-- LOSS_EDGE: a candidate within the dead time of the last counted hit is a double hit; any other is counted, or, at 65535, marks
the input saturated; both make its time the last counted hit's. Nothing else changes (R1, R2). -/
def Obligations.ALossEdgeIsAHitOrADoubleHit : Prop :=
  ∀ (p : Part) (q : List Instr) (dt : Nat) (i : LossInput), p.power = .on →
    let l := p.capture.loss.get i
    let now := p.now + dt
    let dead := p.store.activeCal.figures.deadTime
    let becomes := fun l' : LossCapture => exec (.lossEdge dt i) ⟨p, q⟩ =
      .next ⟨{ p.later dt with capture := { p.capture with loss := p.capture.loss.set i l' } }, q⟩
    ((∃ h, l.lastHit = some h ∧ now - h < dead) → becomes { l with doubleHits := min 65535 (l.doubleHits + 1) })
    ∧ ((∀ h, l.lastHit = some h → dead ≤ now - h) → l.hits ≠ 65535 → becomes { l with hits := l.hits + 1, lastHit := some now })
    ∧ ((∀ h, l.lastHit = some h → dead ≤ now - h) → l.hits = 65535 → becomes { l with saturated := true, lastHit := some now })

/-- SPEED_EDGE: an edge that is not selected changes nothing. A qualifying edge becomes the previous edge; one at most 1,000,000 µs
after the previous one closes a period, which is added to the window, unless its count stands at 65535, and gives the instantaneous
rpm; an overdue edge, or a first one, adds none. Store, bus, Setting Book, Evaluator, the other inputs, the window's number and the
History are untouched (R3 to R5). A period of the drum is judged by Plug Relief: at recover it arms SPINUP (R147), below enter it
makes ARMED SUSPECT and at enter SUSPECT ARMED again (R148), at recover it starts and below it stops the recover timer of OPEN_HELD
(R151), below enter it starts and at enter it stops the confirm timer of RETURNING (R152); every qualifying edge of the drum starts
the watch timer again (R146). A period whose rpm lies in the target band, across the target or at a jog's edge turns a speed
channel's drive off, and no other edge changes a motion (R120, R124). -/
def Obligations.ASpeedEdgeClosesAPeriod : Prop :=
  ∀ (p : Part) (q : List Instr) (dt : Nat) (v : SpeedChannel) (e : Edge), p.power = .on →
    let c := p.capture.speed.get v
    let cal := p.store.activeCal.figures.speed.get v
    let now := p.now + dt
    let selected := cal.edges = .both ∨ (cal.edges = .rising ∧ e = .rising) ∨ (cal.edges = .falling ∧ e = .falling)
    (¬selected → exec (.speedEdge dt v e) ⟨p, q⟩ = .next ⟨p.later dt, q⟩)
    ∧ (selected → ∃ (t : Part) (c' : SpeedCapture), exec (.speedEdge dt v e) ⟨p, q⟩ = .next ⟨t, q⟩ ∧ t.now = now
        ∧ t.capture = { p.capture with speed := p.capture.speed.set v c' } ∧ c'.lastEdge = some now
        ∧ ((∀ b, c.lastEdge = some b → 1000000 < now - b) →
            c'.count = c.count ∧ c'.periodSum = c.periodSum ∧ c'.rpm = c.rpm)
        ∧ (∀ b, c.lastEdge = some b → now - b ≤ 1000000 →
            (c.count = 65535 → c'.count = c.count ∧ c'.periodSum = c.periodSum)
            ∧ (c.count ≠ 65535 → c'.count = c.count + 1 ∧ c'.periodSum = c.periodSum + (now - b))
            ∧ (0 < now - b → c'.rpm = roundHalfUp 960000000 ((now - b) * cal.teeth * cal.ratio16)))
        ∧ t.store = p.store ∧ t.bus = p.bus ∧ t.book = p.book ∧ t.evaluator = p.evaluator ∧ t.lines = p.lines
        ∧ t.power = .on ∧ t.shutdown = p.shutdown ∧ t.harvesting = p.harvesting ∧ t.service = p.service ∧ t.settle = p.settle
        ∧ t.louverTrim = p.louverTrim ∧ t.fanOffset = p.fanOffset ∧ t.fanTarget = p.fanTarget
        ∧ t.window.number = p.window.number ∧ t.window.history = p.window.history
        ∧ (v = .fan → t.override = p.override)
        ∧ (v = .drum →
            let o := p.override
            let k := p.store.activePreset.relief
            let setpoint := (p.entryOf .drum).setpoint
            let watch := fun percent : Nat =>
              if 0 < setpoint
              then some (now + roundHalfUp 96000000000 (percent * setpoint.toNat * cal.teeth * cal.ratio16)) else none
            let closed := ∃ b, c.lastEdge = some b ∧ now - b ≤ 1000000
            let slow := (c'.rpm : Int) * 100 < k.enterPercent * setpoint
            let fast := k.recoverPercent * setpoint ≤ (c'.rpm : Int) * 100
            let confirm := some (now + k.confirmTime * 1000)
            let becomes := fun o' : Override => t.override = o'
            (o.relief = .spinup → (closed ∧ fast → becomes { o with relief := .armed, watchAt := watch k.enterPercent })
              ∧ (¬(closed ∧ fast) → becomes { o with watchAt := none }))
            ∧ (o.relief = .armed →
                (closed ∧ slow → t.window.marks.relief = true
                  ∧ becomes { o with relief := .suspect, confirmAt := confirm, watchAt := watch k.enterPercent })
                ∧ (¬(closed ∧ slow) → becomes { o with watchAt := watch k.enterPercent }))
            ∧ (o.relief = .suspect →
                (closed ∧ ¬slow → becomes { o with relief := .armed, confirmAt := none, watchAt := watch k.enterPercent })
                ∧ (¬(closed ∧ ¬slow) → becomes { o with watchAt := watch k.enterPercent }))
            ∧ (o.relief = .returning →
                (closed ∧ slow → becomes { o with confirmAt := o.confirmAt.or confirm, watchAt := watch k.enterPercent })
                ∧ (closed ∧ ¬slow → becomes { o with confirmAt := none, watchAt := watch k.enterPercent })
                ∧ (¬closed → becomes { o with watchAt := watch k.enterPercent }))
            ∧ (o.relief = .openHeld false →
                (closed ∧ fast → becomes { o with
                  recoverAt := o.recoverAt.or (some (now + k.recoverTime * 1000)), watchAt := watch k.recoverPercent })
                ∧ (closed ∧ ¬fast → becomes { o with recoverAt := none, watchAt := watch k.recoverPercent })
                ∧ (¬closed → becomes { o with watchAt := watch k.recoverPercent }))
            ∧ (o.relief = .openHeld true → becomes { o with watchAt := watch k.recoverPercent })
            ∧ (o.relief = .disarmed ∨ o.relief = .opening → becomes { o with watchAt := none }))
        ∧ (let m := p.motionOf v.channel
           let ends := fun mv : Move => (∃ b, c.lastEdge = some b ∧ now - b ≤ 1000000) ∧
             if mv.kind = .jog then ∃ d, mv.direction = some d ∧ distanceToEdge d c'.rpm mv.edge = 0
             else ∃ w, mv.target = some w ∧ (distance w c'.rpm ≤ (p.store.activePreset.bands.get v).approach
               ∨ (mv.direction = some .up ∧ w ≤ c'.rpm) ∨ (mv.direction = some .down ∧ c'.rpm ≤ w))
           (∀ mv, m.phase = .driving → m.move = some mv → ends mv → (∀ y ∈ t.slots, y.channel ≠ v.channel)
              ∧ t.motionOf v.channel = { m with
                  phase := .coasting, coastEndsAt := some (now + p.coastTime v.channel * 1000), stallAt := none
                  lastDirection := mv.direction.or m.lastDirection
                  move := some { mv with driveEnd := .ownEnd, driveTime := mv.driveTime + (now - m.drivingSince) } })
           ∧ (m.phase ≠ .driving ∨ (∀ mv, m.move = some mv → ¬ends mv) → t.motion = p.motion ∧ t.slots = p.slots)))

/-- PWM_EDGE: a rising edge completes the open period when it has had one falling edge and is at most 100,000 µs long, discards any
other, and opens the next; a falling edge marks the high time of an open period, and a second one spoils it. Nothing else changes
(R6). -/
def Obligations.APwmEdgeCompletesAPeriod : Prop :=
  ∀ (p : Part) (q : List Instr) (dt : Nat) (i : PwmInput), p.power = .on →
    let c := p.capture.pwm.get i
    let now := p.now + dt
    let becomes := fun (e : Edge) (c' : PwmCapture) => exec (.pwmEdge dt i e) ⟨p, q⟩ =
      .next ⟨{ p.later dt with capture := { p.capture with pwm := p.capture.pwm.set i c' } }, q⟩
    (∀ o, c.opened = some o → o.falls = 1 → now - o.rise ≤ 100000 →
        becomes .rising ⟨c.sumHigh + (o.fall - o.rise), c.sumTotal + (now - o.rise), some ⟨now, 0, 0⟩⟩)
    ∧ ((∀ o, c.opened = some o → o.falls ≠ 1 ∨ 100000 < now - o.rise) →
        becomes .rising ⟨c.sumHigh, c.sumTotal, some ⟨now, 0, 0⟩⟩)
    ∧ (∀ o, c.opened = some o → o.falls = 0 → becomes .falling ⟨c.sumHigh, c.sumTotal, some ⟨o.rise, now, 1⟩⟩)
    ∧ (∀ o, c.opened = some o → o.falls ≠ 0 → becomes .falling ⟨c.sumHigh, c.sumTotal, some ⟨o.rise, o.fall, 2⟩⟩)
    ∧ (c.opened = none → becomes .falling c)

/-- TAIL_CHANGE: the gate is open while TAIL is active and the separator ENGAGED; the time a gate has been open is added in whole
milliseconds, and the part-millisecond carried. Nothing else changes (R7). -/
def Obligations.ATailChangeSetsTheGate : Prop :=
  ∀ (p : Part) (q : List Instr) (dt : Nat) (active : Bool), p.power = .on →
    let g := p.capture.tail
    let now := p.now + dt
    let openNow : Option Nat := if active = true ∧ p.capture.engaged = true then some now else none
    let becomes := fun g' : TailGate => exec (.tailChange dt active) ⟨p, q⟩ =
      .next ⟨{ p.later dt with lines := { p.lines with tail := active }, capture := { p.capture with tail := g' } }, q⟩
    (g.openSince = none → becomes { g with openSince := openNow })
    ∧ (∀ b, g.openSince = some b →
        becomes ⟨openNow, g.activeMs + (g.carry + (now - b)) / 1000, (g.carry + (now - b)) % 1000⟩)

/-- SEP_LEVEL_CHANGE: a new level starts the 50 ms of qualification, or ends them where it is the level of the separator state; a
level that the line has already is no change. Nothing else changes (R8). -/
def Obligations.ASepLevelChangeStartsTheQualification : Prop :=
  ∀ (p : Part) (q : List Instr) (dt : Nat) (engaged : Bool), p.power = .on →
    (p.lines.sep = engaged → exec (.sepLevelChange dt engaged) ⟨p, q⟩ = .next ⟨p.later dt, q⟩)
    ∧ (p.lines.sep ≠ engaged → exec (.sepLevelChange dt engaged) ⟨p, q⟩ =
        .next ⟨{ p.later dt with
          lines := { p.lines with sep := engaged }
          capture := { p.capture with
            sepQualifyAt := if engaged = p.capture.engaged then none else some (p.now + dt + 50000) } }, q⟩)

/-- SEP_QUALIFY_EXPIRY: the separator state takes the level that has held; the window in progress closes PARTIAL, with a record when
it has lasted 100 ms, and the next one starts under the new state. Supply, lines, the loss inputs' last hits and service mode are
untouched (R8, R11, R12). At a disengagement Plug Relief is DISARMED with its timers stopped; every move ends ABORTED; where no
close applies parameters, every AUTOMATIC entry is discarded (R78), and a referenced channel of the park mask gets its PARK move,
unless a shutdown runs, its other entries staying listed (R155, R156). At an engagement, where no close applies parameters, Plug
Relief becomes SPINUP if the conditions of R145 allow (R157); a referenced channel away from its setpoint by more than the deadband
takes a RESTORE, an unreferenced one is homed before it, one that is blocked lists it, and one busy with a higher requester's move
drops it (R77). Of LOUVER that is said where no FOLLOW can come between. That the elapsed time is in whole ms, rounded down, and
held to the window's length, and the record that hangs on it, are the model's choices, logs 20 and 31. -/
def Obligations.ALevelThatHasHeldBecomesTheSeparatorState : Prop :=
  ∀ (p : Part) (q : List Instr) (o : Order) (d : Nat), p.power = .on → p.capture.sepQualifyAt = some d →
    let now := max p.now d
    let elapsed := min (p.window.length * 100) ((now - p.window.startedAt) / 1000)
    ∃ t : Part, exec (.sepQualifyExpiry o) ⟨p, q⟩ = .next ⟨t, q⟩ ∧ t.now = now
      ∧ t.capture.engaged = p.lines.sep ∧ t.capture.sepQualifyAt = none
      ∧ t.window.engaged = p.lines.sep ∧ t.window.startedAt = now
      ∧ (100 ≤ elapsed → t.window.number = nextWindowNumber p.window.number
          ∧ ∃ r, t.window.history.getLast? = some r ∧ r.number = p.window.number ∧ r.cause = .partialClose ∧ r.elapsed = elapsed)
      ∧ (elapsed < 100 → t.window.number = p.window.number ∧ t.window.history = p.window.history)
      ∧ t.power = .on ∧ t.lines = p.lines ∧ t.phold = p.phold ∧ t.shutdown = p.shutdown ∧ t.service = p.service
      ∧ (∀ i, (t.capture.loss.get i).lastHit = (p.capture.loss.get i).lastHit ∧ (t.capture.loss.get i).hits = 0)
      ∧ (let k := p.store
         let unapplied := k.pendingPreset = k.activePreset ∧ k.loadMark = none ∧ k.pendingCal = k.activeCal
         let cal := fun x : PosChannel => k.activeCal.figures.pos.get x
         let sound := fun c => ∀ cause, (p.motionOf c).phase ≠ .faulted cause
         let parked := fun x : PosChannel => p.shutdown = none ∧ (cal x).inParkMask = true
           ∧ (p.motionOf x.channel).referenced = true ∧ sound x.channel
         let numbered := fun (n : Nat) => n = p.window.number ∨ n = t.window.number
         (p.lines.sep = false → t.override = Override.reset
            ∧ (∀ c mv, (t.motionOf c).move = some mv → (∀ cause, mv.owner ≠ .request (.automatic cause))
                ∧ (mv.owner = .override → mv.kind = .park ∧ p.shutdown = none))
            ∧ (unapplied → ∀ c, (c = .louver → p.harvesting = false) →
                (∀ e ∈ (t.entryOf c).requests, ∀ cause, e.requester ≠ .automatic cause)
                ∧ (∀ mv, (p.motionOf c).move = some mv → (p.entryOf c).requests = [] → sound c →
                    (∀ x : PosChannel, c = x.channel → ¬parked x) → (t.motionOf c).move = none
                    ∧ ∃ n, numbered n ∧ (t.entryOf c).last = some ⟨.aborted, mv.owner, n⟩)
                ∧ ∀ x : PosChannel, c = x.channel → parked x → (p.motionOf c).standing = none →
                    let factory := k.activeCal.figures.factory.get c
                    let target := p.countsOf x (clamp factory.min factory.max (cal x).parkValue)
                    target ≠ (p.motionOf c).position →
                    (∃ mv, (t.motionOf c).move = some mv ∧ mv.kind = .park ∧ mv.owner = .override ∧ mv.target = some target)
                      ∧ (p.harvesting = false → (t.entryOf c).setpoint = (p.entryOf c).setpoint
                          ∧ (t.entryOf c).requests = (p.entryOf c).requests.filter (·.requester.rank ≠ 0))))
         ∧ (p.lines.sep = true → unapplied → p.override.relief = .disarmed →
             ((p.entryOf .concave).requests = [] → (p.motionOf .concave).standing = none →
                let allowed := k.activePreset.relief.enable = true ∧ (p.motionOf .concave).referenced = true ∧ sound .concave
                  ∧ p.shutdown = none
                (allowed → t.override.relief = .spinup) ∧ (¬allowed → t.override.relief = .disarmed))
             ∧ ∀ x : PosChannel, p.shutdown = none → sound x.channel →
                 (x = .louver → (p.entryOf .louver).mode = .manual ∨ (p.entryOf .louver).hold ≠ none) →
                 let c := x.channel
                 let m := p.motionOf c
                 let setpoint := (p.entryOf c).setpoint
                 let away := p.deadbandCounts x < distance m.position (unitsToCounts (cal x).cal16 setpoint)
                 let listed := ∃ n, numbered n ∧ (t.entryOf c).requests = [⟨.automatic .restore, .set none, n, none, false⟩]
                 (p.standsFree c → m.referenced = true → ¬away → t.motionOf c = m ∧ t.entryOf c = p.entryOf c)
                 ∧ (p.standsFree c → m.referenced = true → away → p.countsOf x setpoint ≠ m.position →
                     (∃ mv, (t.motionOf c).move = some mv ∧ mv.kind = .set ∧ mv.owner = .request (.automatic .restore)
                       ∧ mv.target = some (p.countsOf x setpoint) ∧ mv.tag = none)
                     ∧ t.entryOf c = p.entryOf c)
                 ∧ (p.standsFree c → m.referenced = false → 0 < (cal x).homeTravel → listed
                     ∧ (∃ mv, (t.motionOf c).move = some mv ∧ mv.kind = .home ∧ mv.owner = .request (.automatic .restore))
                     ∧ (t.entryOf c).setpoint = setpoint)
                 ∧ (∀ mv, m.move = some mv → mv.kind.blocks = true → (p.entryOf c).requests = [] →
                     (m.referenced = false ∨ away → listed) ∧ (m.referenced = true → ¬away → t.entryOf c = p.entryOf c))
                 ∧ (∀ mv, m.move = some mv → p.blocked c = false → 0 < mv.owner.rank → t.entryOf c = p.entryOf c)))

/-! ### Windows and records (chapters 1 and 2) -/

/-- R24: the sieve loss of a record is the rounded mean of its two sieve-rear indices as stored; it lies in 0..65535, is 0 only when
both are, rounds an odd sum upward, and the walker-end index does not enter it. -/
def Obligations.SieveLossIsTheRoundedMean : Prop :=
  (∀ (p : Part) (l : Latched), let r := p.recordOf l
    r.sl = roundHalfUp (r.lossIndex.left + r.lossIndex.right) 2 ∧ r.lossIndex.left ≤ 65535 ∧ r.lossIndex.right ≤ 65535
      ∧ r.sl ≤ 65535 ∧ (r.sl = 0 ↔ r.lossIndex.left = 0 ∧ r.lossIndex.right = 0)
      ∧ (∀ m : Latched, m.elapsed = l.elapsed → m.loss.left = l.loss.left → m.loss.right = l.loss.right →
          (p.recordOf m).sl = r.sl))
    ∧ (∀ a b : Nat, (a + b) % 2 = 1 → roundHalfUp (a + b) 2 = (a + b) / 2 + 1)
    ∧ roundHalfUp (1249 + 630) 2 = 940

/-- R25: the side imbalance of a record in per mille, from its two sieve-rear indices as stored: sign, range, the one silent side,
equal and clamped indices; a record with a silent sieve-rear input carries SENSOR_SILENT and is not clean, so is not averaged. -/
def Obligations.SideImbalanceComparesTheSieveRearIndices : Prop :=
  ∀ (p : Part) (l : Latched), let r := p.recordOf l
    let a := r.lossIndex.left
    let b := r.lossIndex.right
    (a + b = 0 → r.imb = 0)
    ∧ (a + b ≠ 0 → r.imb = ((a : Int) - b).sign * (roundHalfUp (((a : Int) - b).natAbs * 1000) (a + b) : Nat))
    ∧ (-1000 ≤ r.imb ∧ r.imb ≤ 1000)
    ∧ (0 < b → a = 0 → r.imb = -1000) ∧ (0 < a → b = 0 → r.imb = 1000) ∧ (a = b → r.imb = 0)
    ∧ (0 < r.imb → b < a) ∧ (r.imb < 0 → a < b)
    ∧ (a = 65535 → b = 65535 → r.imb = 0 ∧ r.sl = 65535)
    ∧ ((p.nextSilentRuns l).left.silent = true ∨ (p.nextSilentRuns l).right.silent = true →
        r.tags.sensorSilent = true ∧ r.tags.clean = false)

/-- The load index of a record is the largest of droop, tailings occupancy and feeder load, in 0..1000, and 1000 with a stopped drum
under a setpoint above 0; the record's LOAD, spoiled or not, is in its second WINDOW_REPORT frame and becomes the Feed Restrain's
latest LOAD; a NOT_HARVESTING record makes the Feed Restrain OPEN while relief is neither OPENING nor OPEN_HELD (R32, R46). -/
def Obligations.LoadIsTheLargestOfThreeFigures : Prop :=
  (∀ (p : Part) (l : Latched), let r := p.recordOf l
    r.load = max r.droopPm (max r.tailPm r.feederPm) ∧ r.load ≤ 1000
      ∧ (r.rpm.drum = 0 → 0 < (p.book.get .drum).setpoint → r.load = 1000))
    ∧ ∀ (p : Part) (r : WindowRecord),
        (.windowReport2 r.rpm.drum r.rpm.fan r.tailPm r.load p.window.number ∈ p.reportFrames r)
        ∧ (p.judgeLoad r).evaluator.latestLoad = r.load
        ∧ (r.tags.notHarvesting = true → p.override.relief.opens = false → (p.judgeLoad r).evaluator.restrain = .opened)

/-- The other figures of a record: loss indices, rpm, tailings occupancy, held and valid tilt angles, feeder load, droop (R20, R23,
R26 to R31); and what an appended record calls for. The louver target of the Slope Follower, where its conditions hold and it lies
at least the deadband from the setpoint, is posted, and on a free LOUVER committed and moved to stepwise (R91, R92); louver_trim
moves to the side of an imbalance, within its limit (R93); the fan pitch offset follows the pitch, and the FAN effective target with
it (R96, R98); a speed channel at rest outside its hold band is driven to its target, and no setpoint is committed (R125). -/
def Obligations.RecordFiguresFollowTheirFormulas : Prop :=
  (∀ (p : Part) (l : Latched), let r := p.recordOf l
    let k := p.store.activeCal.figures
    (∀ i, r.lossIndex.get i = min 65535 (roundHalfUp ((l.loss.get i).hits * k.gain.get i * 60000) (l.elapsed * 64)))
    ∧ (∀ v, (l.speed.get v).count = 0 → r.rpm.get v = 0)
    ∧ (∀ v, (l.speed.get v).count ≠ 0 → (l.speed.get v).periodSum ≠ 0 →
        r.rpm.get v = min 4095 (roundHalfUp (960000000 * (l.speed.get v).count)
          ((l.speed.get v).periodSum * (k.speed.get v).teeth * (k.speed.get v).ratio16)))
    ∧ r.tailPm = min 1000 (roundHalfUp (l.tailActiveMs * 1000) l.elapsed)
    ∧ (∀ d, l.duty.roll = some d → 50 ≤ d → d ≤ 950 →
        r.roll = clamp (-300) 300 (roundSigned (((d : Int) - 500 - k.rollZero) * 3) 4))
    ∧ ((∀ d, l.duty.roll = some d → d < 50 ∨ 950 < d) → r.roll = p.window.heldRoll ∧ r.tags.tiltFault = true)
    ∧ (∀ d, l.duty.pitch = some d → 50 ≤ d → d ≤ 950 →
        r.pitch = clamp (-300) 300 (roundSigned (((d : Int) - 500 - k.pitchZero) * 3) 4))
    ∧ ((∀ d, l.duty.pitch = some d → d < 50 ∨ 950 < d) → r.pitch = p.window.heldPitch ∧ r.tags.tiltFault = true)
    ∧ (∀ d, l.duty.feeder = some d → r.feederPm = min 1000 (roundHalfUp ((d - k.feedZero) * 1000) k.feedSpan))
    ∧ (l.duty.feeder = none → r.feederPm = 0)
    ∧ ((r.rpm.drum : Int) < (p.book.get .drum).setpoint → r.droopPm =
        roundHalfUp (((p.book.get .drum).setpoint - r.rpm.drum).toNat * 1000) (p.book.get .drum).setpoint.toNat)
    ∧ ((p.book.get .drum).setpoint ≤ r.rpm.drum → r.droopPm = 0))
  ∧ ∀ (p : Part) (r : WindowRecord),
    let k := p.store.activePreset.slope
    let auto := fun c : Channel => (p.entryOf c).mode = .auto ∧ (p.entryOf c).hold = none
    let target := p.clampToEnvelope .louver (roundSigned (r.roll * k.louverGain16) 16 + p.louverTrim)
    let counts := p.countsOf .louver target
    let posts := p.harvesting = true ∧ r.tags.tiltFault = false ∧ auto .louver ∧ (p.motionOf .louver).referenced = true
      ∧ (∀ cause, (p.motionOf .louver).phase ≠ .faulted cause) ∧ p.shutdown = none
      ∧ k.louverDeadband ≤ distance target (p.entryOf .louver).setpoint
    (¬posts → p.followRoll r = p)
    ∧ (posts → p.capture.engaged = true → p.standsFree .louver → p.store.activePreset.envelopesOrdered →
        counts ≠ (p.motionOf .louver).position →
        let t := p.followRoll r
        (∃ mv, (t.motionOf .louver).move = some mv ∧ mv.kind = .set ∧ mv.scheduling = .stepwise
          ∧ mv.owner = .request (.automatic .follow) ∧ mv.target = some counts ∧ mv.tag = none)
        ∧ t.drivesOrWaits .louver p.slots.length
        ∧ (t.entryOf .louver).setpoint = target ∧ (t.entryOf .louver).origin = .follow ∧ (t.entryOf .louver).requests = []
        ∧ (∀ c, c ≠ .louver → t.entryOf c = p.entryOf c) ∧ t.louverTrim = p.louverTrim ∧ t.settle = p.settle)
    ∧ (let e := p.evaluator.evaluation
       let trims := e.averages.isSome = true ∧ p.harvesting = true ∧ e.symptoms.sideImbalance = true ∧ auto .louver
         ∧ (p.motionOf .louver).referenced = true
       let step : Int := if e.side = .left then -(k.louverTrimStep : Int) else k.louverTrimStep
       (trims → p.trimLouver = { p with louverTrim := clamp (-(k.louverTrimMax : Int)) k.louverTrimMax (p.louverTrim + step) })
       ∧ (¬trims → p.trimLouver = p))
    ∧ (let offset := fun v : Int => p.followPitch r = { p with
         fanOffset := v, fanTarget := p.clampToEnvelope .fan ((p.entryOf .fan).setpoint + v) }
       (¬(p.harvesting = true ∧ auto .fan) → offset 0)
       ∧ (p.harvesting = true ∧ auto .fan → r.tags.tiltFault = true → offset p.fanOffset)
       ∧ (p.harvesting = true ∧ auto .fan → r.tags.tiltFault = false → offset (roundSigned (r.pitch * k.fanPitchGain16) 16)))
    ∧ ∀ o : Order,
      let off := fun v : SpeedChannel => p.capture.engaged = true ∧ (p.motionOf v.channel).phase = .idle ∧ 0 < r.speedCount.get v
        ∧ (p.store.activePreset.bands.get v).hold < distance (r.rpm.get v : Nat) (p.speedTarget v)
      ((∀ v, ¬off v) → p.regulate r o = p)
      ∧ ∀ v, off v → (∀ w, w ≠ v → ¬off w) → p.standsFree v.channel → p.shutdown = none →
          let t := p.regulate r o
          (∃ mv, (t.motionOf v.channel).move = some mv ∧ mv.kind = .set ∧ mv.owner = .request (.automatic .regulate)
            ∧ mv.target = some (p.speedTarget v) ∧ mv.tag = none)
          ∧ (2 ≤ p.slots.length → (t.motionOf v.channel).phase = .waiting)
          ∧ (p.slots.length < 2 → 0 < (p.store.activeCal.figures.speed.get v).maxDriveTime →
              (p.store.activePreset.bands.get v).approach < distance (p.speedTarget v) (p.rpmOf v) →
              (t.motionOf v.channel).phase = .driving)
          ∧ t.book = p.book ∧ t.fanTarget = p.fanTarget

/-- WINDOW_TIMER_EXPIRY: the window closes FULL; its record, formed by the formulas from the accumulators latched, is appended, the
oldest of seventeen dropped; the next window starts at the deadline with the length in force after the parameter application; the
accumulators are clear; the Evaluation and the latest LOAD are that record's. Supply, lines, service mode and the separator state
are untouched (R10, R12, R13, R21, R36, R46). The state left is that of the record's nine readers, each run once in the command's
order on the state with the record appended, those that read the Evaluation after it (R22); the six BOOK_STATUS and the three
WINDOW_REPORT frames are two of them (R178). The silent and fault runs advance with the record and raise their events, in an order
that is the model's choice, log 25, its tags are the latched marks and those of the runs, and the next window's marks are fresh (R16
to R20). The parameter application of a close, the order inside which is the model's choice, log 34: where no pending set differs
and none carries a load mark, nothing; otherwise the pending sets become the active ones, envelopes clamped to the factory limits,
setpoints follow their envelopes, a LOAD brings its modes and its setpoints of origin PRESET, removes the OPERATOR holds and
louver_trim, and PARAMS_APPLIED is raised with the next window's number; a valid calibration takes its channels from the fault
NO_CALIBRATION to IDLE (R14, R59, R94, R114, R165). -/
def Obligations.AFullCloseAppendsItsRecord : Prop :=
  (∀ (p : Part) (q : List Instr) (o : Order), p.power = .on → 1 ≤ p.window.length →
    let s := p.atTime (p.window.startedAt + p.window.length * 100000)
    let l := s.latched .full
    let r := s.recordOf l
    let n := nextWindowNumber p.window.number
    let begun := (((s.clearAccumulators.raiseRuns l).advanceRuns l r).applyParameters o n).startWindow n
    let t := (begun.append r).react o r
    exec (.windowTimerExpiry o) ⟨p, q⟩ = .next ⟨t, q⟩ ∧ t.now = s.now
      ∧ r.number = p.window.number ∧ r.elapsed = p.window.length * 100 ∧ r.cause = .full
      ∧ t.window.history = ((if p.window.number = 1 then [] else p.window.history) ++ [r]).drop
          ((if p.window.number = 1 then [] else p.window.history).length + 1 - 16)
      ∧ t.window.number = nextWindowNumber p.window.number ∧ t.window.startedAt = s.now
      ∧ t.window.length = t.store.activePreset.windowLength ∧ t.window.engaged = p.capture.engaged
      ∧ (∀ i, (t.capture.loss.get i).hits = 0 ∧ (t.capture.loss.get i).doubleHits = 0
          ∧ (t.capture.loss.get i).lastHit = (p.capture.loss.get i).lastHit)
      ∧ (∀ v, (t.capture.speed.get v).count = 0 ∧ (t.capture.speed.get v).lastEdge = (p.capture.speed.get v).lastEdge)
      ∧ (∀ i, (t.capture.pwm.get i).sumTotal = 0 ∧ (t.capture.pwm.get i).opened = (p.capture.pwm.get i).opened)
      ∧ t.capture.tail.activeMs = 0 ∧ t.capture.engaged = p.capture.engaged
      ∧ t.evaluator.evaluation.number = p.window.number ∧ t.evaluator.latestLoad = r.load
      ∧ t.power = .on ∧ t.lines = p.lines ∧ t.phold = p.phold ∧ t.shutdown = p.shutdown ∧ t.service = p.service
      ∧ t.store.memory = p.store.memory ∧ t.store.pageStates = p.store.pageStates)
  ∧ (∀ (p : Part) (o : Order) (r : WindowRecord) (n : Nat),
    let reaction := fun (u : Part) (k : Task) => match k with
      | .evaluation => u.formEvaluation r
      | .feedRestrain => u.judgeLoad r
      | .louverFeed => u.followRoll r
      | .fanOffset => u.followPitch r
      | .regulation => u.regulate r o
      | .trim => u.trim
      | .imbalance => u.trimLouver
      | .bookStatus =>
        let frame := fun c : Channel => (⟨u.store.activeCal.figures.nodeAddress, .bookStatus c (u.motionOf c).phase
          (u.motionOf c).referenced ((u.entryOf c).hold.map (·.holder)) (u.entryOf c).mode (u.entryOf c).origin
          ((u.entryOf c).last.map (·.outcome)) (u.entryOf c).setpoint (u.actualValue c) u.window.number⟩ : Frame)
        let bus := ((u.bus.push (frame .drum)).push (frame .concave)).push (frame .upperSieve)
        { u with bus := ((bus.push (frame .lowerSieve)).push (frame .fan)).push (frame .louver) }
      | .windowReport =>
        let e := u.evaluator.evaluation
        let frame := fun body : FrameBody => (⟨u.store.activeCal.figures.nodeAddress, body⟩ : Frame)
        let one := frame (.windowReport1 (r.number % 65536) r.sl r.lossIndex.walker r.imb u.window.number)
        let two := frame (.windowReport2 r.rpm.drum r.rpm.fan r.tailPm r.load u.window.number)
        let three := frame (.windowReport3 r.roll r.pitch e.symptoms e.grainAvailable e.side r.tags (r.number % 256)
          u.window.number)
        { u with bus := ((u.bus.push one).push two).push three }
      | _ => u
    p.react o r = (appendSchedule o).foldl reaction p
    ∧ (appendSchedule o).Perm
        [.evaluation, .feedRestrain, .louverFeed, .fanOffset, .regulation, .bookStatus, .trim, .imbalance, .windowReport]
    ∧ (∃ before after, appendSchedule o = before ++ .evaluation :: after ∧ .trim ∉ before ∧ .imbalance ∉ before
        ∧ .windowReport ∉ before)
    ∧ (let marks := (p.startWindow n).window.marks
       (marks.shifted = true ↔ ∃ c, c ≠ .louver ∧ ((p.motionOf c).phase = .driving ∨ (p.motionOf c).phase = .coasting)
          ∧ ((∃ mv, (p.motionOf c).move = some mv ∧ mv.bearing = true)
            ∨ ((p.motionOf c).move = none ∧ (p.motionOf c).coastShifts = true)))
       ∧ marks.notHarvesting = !p.harvesting
       ∧ (marks.relief = true ↔ p.override.relief = .suspect ∨ p.override.relief.blocks = true)))
  ∧ (∀ (p : Part) (l : Latched),
    let r := p.recordOf l
    let t := (p.raiseRuns l).advanceRuns l r
    let stopped := fun v => p.window.engaged = true ∧ (l.speed.get v).count = 0
    let reached := fun v => stopped v ∧ p.window.faultRun.get v = 1
    let silenced := fun i => (p.window.silentRun.get i).silent = false ∧ (t.window.silentRun.get i).silent = true
    (∀ i,
      let run := p.window.silentRun.get i
      let next := t.window.silentRun.get i
      (1 ≤ (l.loss.get i).hits → next = ⟨0, false⟩)
      ∧ ((l.loss.get i).hits = 0 → l.marks.notHarvesting = true ∨ (∀ j, j ≠ i → (l.loss.get j).hits = 0) → next = run)
      ∧ ((l.loss.get i).hits = 0 → l.marks.notHarvesting = false → (∃ j, j ≠ i ∧ 1 ≤ (l.loss.get j).hits) →
          next = ⟨min 4 (run.count + 1), run.silent || 3 ≤ run.count⟩)
      ∧ (silenced i → p.bus.queue.length < 20 → t.notified .lossSensorSilent none
          (match i with | .left => 0 | .right => 1 | .walker => 2) 0 p.window.number))
    ∧ (∀ v, (stopped v → t.window.faultRun.get v = min 2 (p.window.faultRun.get v + 1))
        ∧ (¬stopped v → t.window.faultRun.get v = 0)
        ∧ (reached v → p.bus.queue.length < 20 → t.notified .speedSensor none
            (match v with | .drum => 0 | .fan => 1) 0 p.window.number))
    ∧ ((∀ i, ¬silenced i) → (∀ v, ¬reached v) → t.bus = p.bus)
    ∧ r.tags.shifted = l.marks.shifted ∧ r.tags.notHarvesting = l.marks.notHarvesting ∧ r.tags.relief = l.marks.relief
    ∧ (r.tags.short = true ↔ l.cause = .partialClose) ∧ (r.tags.saturated = true ↔ ∃ i, (l.loss.get i).saturated = true)
    ∧ (r.tags.sensorSilent = true ↔ ∃ i, (t.window.silentRun.get i).silent = true)
    ∧ (r.tags.speedFault = true ↔ ∃ v, stopped v)
    ∧ (p.latched l.cause).marks = p.window.marks)
  ∧ ∀ (p : Part) (o : Order) (n : Nat),
    let k := p.store
    let preset := k.pendingPreset.clampEnvelopes k.pendingCal.figures.factory
    let within := fun (c : Channel) (v : Int) => clamp (preset.envelope.get c).min (preset.envelope.get c).max v
    let same := k.pendingPreset = k.activePreset ∧ k.loadMark = none
    let t := p.applyParameters o n
    (same → k.pendingCal = k.activeCal → t = p)
    ∧ (¬(same ∧ k.pendingCal = k.activeCal) →
        t.store = { k with activeCal := k.pendingCal, activePreset := preset, pendingPreset := preset
                           loadMark := none, activeSlot := k.loadMark.or k.activeSlot }
        ∧ (∀ d8 : Nat, (d8 = 1 ∨ d8 = 3 ↔ ¬same) → (d8 = 2 ∨ d8 = 3 ↔ k.pendingCal ≠ k.activeCal) →
            t.notified .paramsApplied none d8 (k.loadMark.getD 0xFFFF) n ∨ 24 ≤ t.bus.queue.length)
        ∧ (k.loadMark = none → (∀ c, (p.entryOf c).requests = []) → ∀ c,
            (t.entryOf c).setpoint = within c (p.entryOf c).setpoint ∧ (t.entryOf c).origin = (p.entryOf c).origin
            ∧ (t.entryOf c).mode = (p.entryOf c).mode ∧ (t.entryOf c).hold = (p.entryOf c).hold)
        ∧ (∀ slot, k.loadMark = some slot → t.louverTrim = 0 ∧ ∀ c,
            (t.entryOf c).mode = preset.initialMode.get c ∧ (∀ h, (t.entryOf c).hold = some h → h.holder = .service)
            ∧ (p.standsFree c → p.shutdown = none → preset.envelopesOrdered →
                (∀ x : PosChannel, c = x.channel → (p.motionOf c).referenced = true) →
                (t.entryOf c).setpoint = within c (preset.initialSetpoint.get c) ∧ (t.entryOf c).origin = .preset
                  ∧ (t.entryOf c).requests = []))
        ∧ (∀ c, k.pendingCal.valid = true → (p.motionOf c).phase = .faulted .noCalibration → (p.motionOf c).move = none →
            (p.entryOf c).requests = [] → (c = .concave → p.override.relief.blocks = false) →
            (t.motionOf c).phase = .idle ∧ (t.motionOf c).referenced = false ∧ (t.motionOf c).position = 0))

/-- WINDOW_RESTART from the Cab Terminal or the Service Tool: answered ACCEPTED; the window closes PARTIAL, with a record when it
has lasted at least 100 ms, with the reactions of its readers, otherwise its number stands and no record is appended; a new window
starts at once (R11 to R13, R22). At such a discarded close one RESTRAIN_NOTICE is sent where the parameter application changed the
reported reduction (R53), unless the application has sent it already, which is the model's choice, log 25. That the elapsed time is
in whole ms, rounded down, and held to the window's length, and the record that hangs on it, are the model's choices, logs 20 and
31. -/
def Obligations.AWindowRestartClosesTheWindow : Prop :=
  ∀ (p : Part) (q : List Instr) (dt : Nat) (h : FrameHeader) (source tag : Byte) (o : Order),
    source = cabAddress ∨ source = serviceAddress → p.receives h source 2 → p.shutdown = none →
    let s := p.later dt
    let elapsed := min (p.window.length * 100) ((s.now - p.window.startedAt) / 1000)
    ∃ t : Part, exec (.windowRestart dt h tag o) ⟨p, q⟩ = .next ⟨t, q⟩ ∧ t.now = s.now
      ∧ (p.bus.queue.length < 24 → p.replyFrame source 0x05 tag .accepted 0xFF 0 ∈ t.bus.queue)
      ∧ (100 ≤ elapsed → t.window.number = nextWindowNumber p.window.number
          ∧ t.window.history.getLast? = some (s.recordOf (s.latched .partialClose))
          ∧ (s.recordOf (s.latched .partialClose)).elapsed = elapsed)
      ∧ (elapsed < 100 → t.window.number = p.window.number ∧ t.window.history = p.window.history
          ∧ t.evaluator.evaluation = p.evaluator.evaluation)
      ∧ t.window.startedAt = s.now ∧ t.window.engaged = p.capture.engaged ∧ (∀ i, (t.capture.loss.get i).hits = 0)
      ∧ t.capture.engaged = p.capture.engaged ∧ t.power = .on ∧ t.lines = p.lines ∧ t.shutdown = none ∧ t.service = p.service
      ∧ t.store.memory = p.store.memory
      ∧ (let cleared := (s.answered source 0x05 tag .accepted 0xFF 0).clearAccumulators
         let l := s.latched .partialClose
         let r := s.recordOf l
         let n := nextWindowNumber p.window.number
         let a := cleared.applyParameters o p.window.number
         let notice : Frame := ⟨a.store.activeCal.figures.nodeAddress, .restrainNotice a.evaluator.restrain a.reduction
           a.evaluator.latestLoad (a.window.number % 65536)⟩
         (100 ≤ elapsed → t = (((((cleared.raiseRuns l).advanceRuns l r).applyParameters o n).startWindow n).append r).react o r)
         ∧ (elapsed < 100 → a.reduction ≠ p.reduction → a.reduction ≠ a.evaluator.sentReduction → t = ({ a with
              bus := a.bus.push notice
              evaluator := { a.evaluator with sentReduction := a.reduction } } : Part).startWindow p.window.number)
         ∧ (elapsed < 100 → a.reduction = p.reduction ∨ a.reduction = a.evaluator.sentReduction →
             t = a.startWindow p.window.number))

/-! ### Evaluations, symptoms and the Feed Restrain (chapters 2 and 3) -/

/-- The Evaluation averages the newest clean records among those newer than the newest spoiled one, as many as the averaging depth,
and is invalid where there are too few (R34, R35). At each Evaluation the Trim Engine counts its settle countdown down, and, where
it stands at 0 and the conditions on the Evaluation hold, takes the first entry of the Trim Table that qualifies: its target is
committed with origin TRIM and moved to stepwise, the countdown starts again, and TRIM_APPLIED is raised; otherwise nothing else
changes (R84, R86 to R88). -/
def Obligations.AnEvaluationAveragesTheNewestCleanRecords : Prop :=
  (∀ (older newer : List WindowRecord) (depth : Nat),
    (∀ r ∈ newer, r.tags.spoiled = false) → (∀ r, older.getLast? = some r → r.tags.spoiled = true) →
    let clean := newer.filter fun r => r.tags.clean
    let used := clean.drop (clean.length - depth)
    (clean.length < depth → evaluate (older ++ newer) depth = none)
    ∧ (depth ≤ clean.length → evaluate (older ++ newer) depth = some
        { sl := roundHalfUp (used.map (·.sl)).sum depth
          liW := roundHalfUp (used.map (·.lossIndex.walker)).sum depth
          tailPm := roundHalfUp (used.map (·.tailPm)).sum depth
          droopPm := roundHalfUp (used.map (·.droopPm)).sum depth
          imb := roundSigned (used.map (·.imb)).sum depth }))
  ∧ ∀ p : Part,
    let symptoms := p.evaluator.evaluation.symptoms
    let s : Part := { p with settle := p.settle - 1 }
    let acts := p.evaluator.evaluation.averages.isSome = true ∧ p.harvesting = true ∧ p.override.relief = .armed
      ∧ p.shutdown = none ∧ p.settle ≤ 1
    let target := fun e : TrimEntry => p.clampToEnvelope e.channel ((p.entryOf e.channel).setpoint + e.step)
    let qualifies := fun e : TrimEntry => e.enabled = true ∧ symptoms.get e.required = true
      ∧ (∀ x, e.excluded = some x → symptoms.get x = false)
      ∧ (p.entryOf e.channel).mode = .auto ∧ (p.entryOf e.channel).hold = none
      ∧ (p.motionOf e.channel).phase = .idle ∧ p.blocked e.channel = false
      ∧ (∀ x : PosChannel, e.channel = x.channel → (p.motionOf e.channel).referenced = true)
      ∧ target e ≠ (p.entryOf e.channel).setpoint
    (¬acts → p.trim = s)
    ∧ ((∀ e ∈ p.store.activePreset.trimTable, ¬qualifies e) → p.trim = s)
    ∧ ∀ (before after : List TrimEntry) (e : TrimEntry), acts → p.store.activePreset.trimTable = before ++ e :: after →
        (∀ x ∈ before, ¬qualifies x) → qualifies e → p.standsFree e.channel → p.capture.engaged = true →
        p.store.activePreset.envelopesOrdered →
        let t := p.trim
        t.settle = p.store.activePreset.settleCount
        ∧ (t.entryOf e.channel).setpoint = target e ∧ (t.entryOf e.channel).origin = .trim ∧ (t.entryOf e.channel).requests = []
        ∧ (∀ c, c ≠ e.channel → t.entryOf c = p.entryOf c)
        ∧ (p.bus.queue.length < 23 →
            t.notified .trimApplied (some e.channel) before.length (BitVec.ofInt 16 (target e)).toNat p.window.number)
        ∧ (∀ x : PosChannel, e.channel = x.channel → p.countsOf x (target e) ≠ (p.motionOf e.channel).position →
            (∃ mv, (t.motionOf e.channel).move = some mv ∧ mv.kind = .set ∧ mv.scheduling = .stepwise
              ∧ mv.owner = .request (.automatic .trim) ∧ mv.target = some (p.countsOf x (target e)) ∧ mv.tag = none)
            ∧ t.drivesOrWaits e.channel p.slots.length)
        ∧ t.store = p.store ∧ t.capture = p.capture ∧ t.evaluator = p.evaluator ∧ t.window.history = p.window.history

/-- Symptoms against their thresholds: a window-based symptom is SET at or above its set threshold, CLEAR at or below its clear
threshold, kept between and on an invalid Evaluation; a grain symptom likewise with a current report and CLEAR without one; the side
of an imbalance that is SET is the sign's, kept at 0 and otherwise (R38, R40, R43). An Evaluation is formed from an appended record:
the held report ages by one up to 255, and is current where its age is then below quality_max_age; where grain quality was available
and the report is not current, QUALITY_STALE carries the age and the last report's samples; nothing else changes (R34, R42 to R44).
-/
def Obligations.SymptomsFollowTheirThresholds : Prop :=
  (∀ (t : PerSymptom ThresholdPair) (averages : Option Averages) (report : Option QualityReport) (now : PerSymptom Bool),
    (∀ k, (t.get k).clearAt < (t.get k).setAt) →
    let judged := fun (k : Symptom) (figure : Nat) =>
      ((t.get k).setAt ≤ figure → (nextSymptoms t averages report now).get k = true)
      ∧ (figure ≤ (t.get k).clearAt → (nextSymptoms t averages report now).get k = false)
      ∧ ((t.get k).clearAt < figure → figure < (t.get k).setAt → (nextSymptoms t averages report now).get k = now.get k)
    (∀ a, averages = some a → judged .sieveLoss a.sl ∧ judged .walkerLoss a.liW ∧ judged .tailingsHigh a.tailPm
        ∧ judged .drumDroop a.droopPm ∧ judged .sideImbalance a.imb.natAbs)
    ∧ (averages = none → ∀ k, k ≠ .grainDirty → k ≠ .grainBroken → (nextSymptoms t averages report now).get k = now.get k)
    ∧ (∀ g, report = some g → judged .grainDirty g.foreignPm ∧ judged .grainBroken g.broken)
    ∧ (report = none → (nextSymptoms t averages report now).grainDirty = false
        ∧ (nextSymptoms t averages report now).grainBroken = false)
    ∧ ∀ (imbalanced : Bool) (side : Side),
        (∀ a, averages = some a → imbalanced = true → 0 < a.imb → nextSide averages imbalanced side = .left)
        ∧ (∀ a, averages = some a → imbalanced = true → a.imb < 0 → nextSide averages imbalanced side = .right)
        ∧ (∀ a, averages = some a → imbalanced = false ∨ a.imb = 0 → nextSide averages imbalanced side = side)
        ∧ (averages = none → nextSide averages imbalanced side = side))
  ∧ ∀ (p : Part) (r : WindowRecord),
    let k := p.store.activePreset
    let before := p.evaluator.evaluation
    let averages := evaluate p.window.history k.averagingDepth
    let formed := fun (held : Option FreshReport) (report : Option QualityReport) =>
      let symptoms := nextSymptoms k.thresholds averages report before.symptoms
      ({ p with evaluator := { p.evaluator with
          freshReport := held
          evaluation := ⟨r.number, averages, symptoms, report.isSome,
            nextSide averages symptoms.sideImbalance before.side⟩ } } : Part)
    let samples := (p.evaluator.lastReport.map (·.samples)).getD 0
    (∀ f, p.evaluator.freshReport = some f →
      let age := min 255 (f.age + 1)
      (age < k.qualityMaxAge → p.formEvaluation r = formed (some ⟨f.report, age⟩) (some f.report))
      ∧ (k.qualityMaxAge ≤ age → before.grainAvailable = true →
          p.formEvaluation r = (formed (some ⟨f.report, age⟩) none).raise .qualityStale none age samples)
      ∧ (k.qualityMaxAge ≤ age → before.grainAvailable = false → p.formEvaluation r = formed (some ⟨f.report, age⟩) none))
    ∧ (p.evaluator.freshReport = none →
        p.formEvaluation r =
          if before.grainAvailable = true then (formed none none).raise .qualityStale none 0 samples else formed none none)

/-- R47: a record appended in PENDING, with Plug Relief neither OPENING nor OPEN_HELD and without NOT_HARVESTING: at or above
restrain_set it counts, and at confirm the state is RESTRAINED with cause LOAD and held 0; below restrain_set, wherever
restrain_clear lies, the state is OPEN, from which the next record that counts begins at one. -/
def Obligations.APendingRestraintCountsConsecutiveRecords : Prop :=
  ∀ (p : Part) (r : WindowRecord) (n : Nat), p.evaluator.restrain = .pending n → p.override.relief.opens = false →
    r.tags.notHarvesting = false →
    let k := p.store.activePreset.restrain
    let after := (p.judgeLoad r).evaluator.restrain
    (k.setAt ≤ r.load → k.confirm ≤ n + 1 → after = .restrained .load 0)
    ∧ (k.setAt ≤ r.load → n + 1 < k.confirm → after = .pending (n + 1))
    ∧ (r.load < k.setAt → after = .opened)
    ∧ (∀ m : RestrainParams, m = { k with clearAt := m.clearAt } → Restrain.onLoad (.pending n) m r.load = after)
    ∧ (∀ r' : WindowRecord, r.load < k.setAt → k.setAt ≤ r'.load → 1 < k.confirm →
        Restrain.onLoad after k r'.load = .pending 1)

/-- The Feed Restrain in its other states: OPEN counts a first record at or above restrain_set; RESTRAINED counts its records up to
255 and opens at or below restrain_clear once held for min_hold; NOT_HARVESTING opens it; while relief is OPENING or OPEN_HELD a
restraint stands and counts (R46, R48, R49). At the append one RESTRAIN_NOTICE is queued, with the state, the reported reduction,
the record's LOAD and the window's number, where state or cause changed, the reduction differs from the one last sent, the state is
RESTRAINED, or the record is the first since reset; otherwise none (R52 to R54). Where Plug Relief is disarmed in OPENING or
OPEN_HELD the state is RESTRAINED with cause LOAD and held 0, announced where state, cause or reduction changed (R50, R53). -/
def Obligations.TheFeedRestrainHoldsAndOpens : Prop :=
  ∀ (p : Part) (r : WindowRecord),
    let k := p.store.activePreset.restrain
    let after := (p.judgeLoad r).evaluator.restrain
    (p.override.relief.opens = false → r.tags.notHarvesting = true → after = .opened)
    ∧ (p.override.relief.opens = false → r.tags.notHarvesting = false →
        (p.evaluator.restrain = .opened →
          (r.load < k.setAt → after = .opened)
          ∧ (k.setAt ≤ r.load → k.confirm ≤ 1 → after = .restrained .load 0)
          ∧ (k.setAt ≤ r.load → 1 < k.confirm → after = .pending 1))
        ∧ (∀ cause held, p.evaluator.restrain = .restrained cause held →
          (r.load ≤ k.clearAt → k.minHold ≤ min 255 (held + 1) → after = .opened)
          ∧ (k.clearAt < r.load ∨ min 255 (held + 1) < k.minHold → after = .restrained cause (min 255 (held + 1)))))
    ∧ (p.override.relief.opens = true → ∀ cause held, p.evaluator.restrain = .restrained cause held →
        after = .restrained cause (min 255 (held + 1)))
    ∧ (let t := p.judgeLoad r
       let face : Restrain → Nat := fun x => match x with
         | .opened => 0
         | .pending _ => 1
         | .restrained .load _ => 2
         | .restrained .relief _ => 3
       let reported := fun x : Restrain => if p.override.relief.opens = true then 1000 else if 2 ≤ face x then k.reduction else 0
       let notice := fun (x : Restrain) (reduction load : Nat) => (⟨p.store.activeCal.figures.nodeAddress,
         .restrainNotice x reduction load (p.window.number % 65536)⟩ : Frame)
       let due := face after ≠ face p.evaluator.restrain ∨ reported after ≠ p.evaluator.sentReduction ∨ 2 ≤ face after
         ∨ p.evaluator.appended = false
       p.reduction = reported p.evaluator.restrain ∧ t.reduction = reported after ∧ t.evaluator.appended = true
       ∧ (due → t.bus = p.bus.push (notice after (reported after) r.load) ∧ t.evaluator.sentReduction = reported after)
       ∧ (¬due → t.bus = p.bus ∧ t.evaluator.sentReduction = p.evaluator.sentReduction)
       ∧ (p.override.relief.opens = false → p.disarm = { p with override := Override.reset })
       ∧ (p.override.relief.opens = true →
           let ended : Part := { p with
             override := Override.reset, evaluator := { p.evaluator with restrain := .restrained .load 0 } }
           (face p.evaluator.restrain ≠ 2 ∨ k.reduction ≠ 1000 → p.disarm = { ended with
             bus := p.bus.push (notice (.restrained .load 0) k.reduction p.evaluator.latestLoad)
             evaluator := { ended.evaluator with sentReduction := k.reduction } })
           ∧ (face p.evaluator.restrain = 2 → k.reduction = 1000 → p.disarm = ended)))

/-- QUALITY_REPORT, addressed to the part or broadcast: taken from the Grain Quality Node with its 6 bytes, its figures clamped to
1000; it becomes the last report, and, with enough samples, the held fresh one with age 0; any other source, or a shorter frame,
is ignored. Nothing else changes (R41, R171). -/
def Obligations.AQualityReportIsHeld : Prop :=
  ∀ (p : Part) (q : List Instr) (dt : Nat) (h : FrameHeader) (b f n : Word), p.power = .on → p.bus.silentUntil = none →
    h.source ≠ p.store.activeCal.figures.nodeAddress →
    h.destination = p.store.activeCal.figures.nodeAddress ∨ h.destination = broadcastAddress →
    let report : QualityReport := ⟨min 1000 b.toNat, min 1000 f.toNat, n.toNat⟩
    (h.source = qualityAddress → 6 ≤ h.length → exec (.qualityReport dt h b f n) ⟨p, q⟩ =
      .next ⟨{ p.later dt with evaluator := { p.evaluator with
        lastReport := some report
        freshReport := if p.store.activePreset.qualityMinSamples ≤ n.toNat then some ⟨report, 0⟩
          else p.evaluator.freshReport } }, q⟩)
    ∧ (h.source ≠ qualityAddress ∨ h.length < 6 → exec (.qualityReport dt h b f n) ⟨p, q⟩ = .next ⟨p.later dt, q⟩)

/-! ### The Setting Book (chapter 4) -/

/-- A SETTING_REQUEST's refusals in their order (R65), with OUTRANKED of the arrival rule (R69): the REPLY is queued and nothing
else changes. A JOG_STOP passes after checks 1 to 4, and is answered ACCEPTED. -/
def Obligations.SettingRequestsAreRefusedInOrder : Prop :=
  ∀ (p : Part) (q : List Instr) (dt : Nat) (h : FrameHeader) (source : Byte) (f : SettingFields) (k : SettingKind),
    source = cabAddress ∨ source = serviceAddress → p.receives h source 6 →
    let refused := fun e : Result => exec (settingCommand k dt h f) ⟨p, q⟩ =
      .next ⟨(p.later dt).answered source 0x01 f.tag e f.channel 0, q⟩
    (p.shutdown.isSome = true → refused .shuttingDown)
    ∧ (p.shutdown = none → 5 < f.channel.toNat → refused .badChannel)
    ∧ ∀ c, p.shutdown = none → Channel.ofCode f.channel.toNat = some c →
      let barred := source = cabAddress ∧ p.service = true
      let odd := (k = .home ∨ k = .shake) ∧ c ∈ [Channel.drum, Channel.fan]
      let faulted := (k = .home ∧ p.store.activeCal.valid = false)
        ∨ (k ≠ .home ∧ ∃ cause, (p.motionOf c).phase = .faulted cause)
      (barred → refused .notPermitted)
      ∧ (¬barred → k ≠ .jogStop → odd → refused .badChannel)
      ∧ (¬barred → k ≠ .jogStop → ¬odd → faulted → refused .faulted)
      ∧ (¬barred → ¬odd → ¬faulted →
          (k = .jogStart → f.value = 0 → refused .inconsistent)
          ∧ (k = .jogStart → f.value ≠ 0 → c ∈ [Channel.drum, Channel.fan] → p.capture.engaged = false → refused .notTurning)
          ∧ ((k = .jogStart ∧ f.value ≠ 0) ∨ k = .shake → c ∉ [Channel.drum, Channel.fan] → (p.motionOf c).referenced = false →
              refused .notReferenced)
          ∧ (k ≠ .jogStop → (k = .jogStart → f.value ≠ 0 ∧ (c ∈ [Channel.drum, Channel.fan] → p.capture.engaged = true)) →
              (k = .jogStart ∨ k = .shake → c ∉ [Channel.drum, Channel.fan] → (p.motionOf c).referenced = true) →
              p.busy c = true → (∃ mv, (p.motionOf c).move = some mv ∧ (if source = cabAddress then 1 else 2) < mv.owner.rank) →
              refused .outranked))
      ∧ (¬barred → k = .jogStop → ∃ t : Part, exec (settingCommand k dt h f) ⟨p, q⟩ = .next ⟨t, q⟩ ∧ t.now = p.now + dt
          ∧ (p.bus.queue.length < 24 → p.replyFrame source 0x01 f.tag .accepted f.channel f.value ∈ t.bus.queue))

/-- A SET of the Cab Terminal or the Service Tool on a positional channel that stands free, referenced and away from the target: it
is answered, starts a hold where one starts (R62), its setpoint is committed at the clamped value with the requester's origin, the
move handed with its counts (R56, R58, R66, R72, R105), and driven at once where a slot is free (R131). The commitment raises the
Trim Engine's countdown to the settle count (R85), and on LOUVER clears louver_trim instead (R94). Other channels' settings, store,
capture, windows and lines are untouched. On a channel that does not so stand: listed where it is blocked; listed behind a HOME
where it is unreferenced (R73); a driven move of a lower requester ends SUPERSEDED, one of the requester's own REPLACED, and the SET
is listed while the channel coasts (R69); the requester's own SET with the new target ahead is retargeted in place (R70). At the end
of such a coast the first entry is taken, the others ending SUPERSEDED, behind a HOME again where the channel is unreferenced; a JOG
or SHAKE ends ABORTED there, and a stale TRIM or FOLLOW SUPERSEDED (R72, R73); that the others end in the order of the list, so that
the last of it is the last outcome, is the model's choice, log 25, and that a stale entry's age is counted over the wrap of the
window number is the model's reading, log 28 (DEDUCED). -/
def Obligations.ASetOnAFreePositionalChannelIsTaken : Prop :=
  (∀ (p : Part) (q : List Instr) (dt : Nat) (h : FrameHeader) (source : Byte) (f : SettingFields) (x : PosChannel),
    (source = cabAddress ∧ p.service = false) ∨ source = serviceAddress → p.receives h source 6 → p.shutdown = none →
    Channel.ofCode f.channel.toNat = some x.channel → p.standsFree x.channel → (p.motionOf x.channel).referenced = true →
    p.store.activePreset.envelopesOrdered →
    let target := p.clampToEnvelope x.channel f.value.toInt
    let counts := p.countsOf x target
    let position := (p.motionOf x.channel).position
    counts ≠ position →
    ∃ (t : Part) (mv : Move), exec (.set dt h f) ⟨p, q⟩ = .next ⟨t, q⟩ ∧ t.now = p.now + dt
      ∧ (p.bus.queue.length < 24 → p.replyFrame source 0x01 f.tag
            (if target = f.value.toInt then .accepted else .acceptedClamped) f.channel
            (if target = f.value.toInt then f.value else BitVec.ofInt 16 target) ∈ t.bus.queue)
      ∧ (t.entryOf x.channel).setpoint = target
      ∧ (t.entryOf x.channel).origin = (if source = cabAddress then .operator else .service)
      ∧ (t.entryOf x.channel).hold = (p.later dt).holdAfter x.channel (if source = cabAddress then .operator else .service)
      ∧ (t.entryOf x.channel).requests = []
      ∧ (t.motionOf x.channel).move = some mv ∧ mv.kind = .set ∧ mv.target = some counts ∧ mv.tag = some f.tag
      ∧ mv.owner = .request (if source = cabAddress then .operator else .service)
      ∧ mv.base = distance counts position ∧ mv.remaining = distance counts position
      ∧ mv.direction = some (if position < counts then .up else .down)
      ∧ (p.slots.length < 2 → (t.motionOf x.channel).phase = .driving)
      ∧ (2 ≤ p.slots.length → (t.motionOf x.channel).phase = .waiting)
      ∧ (t.motionOf x.channel).position = position
      ∧ t.settle = (if x = .louver then p.settle else max p.settle p.store.activePreset.settleCount)
      ∧ t.louverTrim = (if x = .louver then 0 else p.louverTrim) ∧ t.override = p.override
      ∧ (∀ c, c ≠ x.channel → t.entryOf c = p.entryOf c)
      ∧ t.store = p.store ∧ t.capture = p.capture ∧ t.lines = p.lines ∧ t.power = .on ∧ t.shutdown = none
      ∧ t.service = p.service ∧ t.window.number = p.window.number ∧ t.window.history = p.window.history)
  ∧ (∀ (p : Part) (q : List Instr) (dt : Nat) (h : FrameHeader) (source : Byte) (f : SettingFields) (x : PosChannel),
    (source = cabAddress ∧ p.service = false) ∨ source = serviceAddress → p.receives h source 6 → p.shutdown = none →
    Channel.ofCode f.channel.toNat = some x.channel → (∀ cause, (p.motionOf x.channel).phase ≠ .faulted cause) →
    let c := x.channel
    let m := p.motionOf c
    let who : Requester := if source = cabAddress then .operator else .service
    let target := p.clampToEnvelope c f.value.toInt
    let counts := p.countsOf x target
    let entry : Entry := ⟨who, .set (some target), p.window.number, some f.tag, false⟩
    let leads := fun holds : Part → Prop => ∃ t : Part, exec (.set dt h f) ⟨p, q⟩ = .next ⟨t, q⟩ ∧ t.now = p.now + dt
      ∧ (∀ e, e ≠ c → t.entryOf e = p.entryOf e) ∧ t.store = p.store ∧ t.capture = p.capture ∧ t.lines = p.lines ∧ holds t
    let listedAfter := fun (mv : Move) (o : OutcomeCode) => leads fun t =>
      (t.motionOf c).phase = .coasting ∧ (t.motionOf c).move = none
        ∧ (t.motionOf c).coastEndsAt = some (p.now + dt + p.coastTime c * 1000) ∧ (∀ y ∈ t.slots, y.channel ≠ c)
        ∧ (t.entryOf c).requests = [entry] ∧ (t.entryOf c).setpoint = (p.entryOf c).setpoint
        ∧ (t.entryOf c).last = some ⟨o, mv.owner, p.window.number⟩
    (p.blocked c = true → (p.entryOf c).requests = [] → leads fun t => t.motion = p.motion ∧ t.slots = p.slots
      ∧ (t.entryOf c).requests = [entry] ∧ (t.entryOf c).setpoint = (p.entryOf c).setpoint)
    ∧ (p.standsFree c → m.referenced = false → 0 < (p.store.activeCal.figures.pos.get x).homeTravel → leads fun t =>
        (t.entryOf c).requests = [entry] ∧ (t.entryOf c).setpoint = (p.entryOf c).setpoint
        ∧ (∃ mv, (t.motionOf c).move = some mv ∧ mv.kind = .home ∧ mv.owner = .request who ∧ mv.tag = none)
        ∧ t.drivesOrWaits c p.slots.length)
    ∧ ∀ mv, m.move = some mv → p.blocked c = false →
        (m.phase = .driving → (p.entryOf c).requests = [] →
          (mv.owner.rank < who.rank → listedAfter mv .superseded)
          ∧ (mv.owner = .request who → (mv.kind = .set → ∀ d, mv.direction = some d → d.sign * (counts - m.position) ≤ 0) →
              listedAfter mv .replaced))
        ∧ (∀ d, mv.kind = .set → mv.owner = .request who → mv.direction = some d → 0 < d.sign * (counts - m.position) →
            p.store.activePreset.envelopesOrdered → leads fun t =>
              t.motion = p.motion.set c { m with move := some { mv with
                target := some counts, tag := some f.tag, base := distance counts m.position
                remaining := distance counts m.position, corrected := false } }
              ∧ t.slots = p.slots ∧ (t.entryOf c).setpoint = target ∧ (t.entryOf c).requests = (p.entryOf c).requests
              ∧ (t.entryOf c).origin = (if source = cabAddress then .operator else .service)))
  ∧ ∀ (p : Part) (q : List Instr) (x : PosChannel) (first : Bool) (d : Nat) (e : Entry) (others : List Entry),
    let c := x.channel
    let m := p.motionOf c
    let n := p.window.number
    p.power = .on → p.shutdown = none → m.coastEndsAt = some d → m.move = none → m.standing = none →
    (c = .concave → p.override.relief.blocks = false) → (p.entryOf c).requests = e :: others →
    let superseded := match others.getLast? with
      | some y => some ⟨.superseded, .request y.requester, n⟩
      | none => (p.entryOf c).last
    let dropped := fun (t : Part) (o : OutcomeCode) => (t.motionOf c).phase = .idle ∧ (t.motionOf c).move = none
      ∧ (t.entryOf c).requests = [] ∧ (t.entryOf c).last = some ⟨o, .request e.requester, n⟩
      ∧ (t.entryOf c).setpoint = (p.entryOf c).setpoint
    ∃ t : Part, exec (.coastTimerExpiry x first) ⟨p, q⟩ = .next ⟨t, q⟩ ∧ t.now = max p.now d
      ∧ (∀ y, y ≠ c → t.entryOf y = p.entryOf y) ∧ t.store = p.store ∧ t.capture = p.capture ∧ t.lines = p.lines
      ∧ (∀ v, e.kind = .set (some v) → e.requester = .operator ∨ e.requester = .service →
          (m.referenced = true → p.store.activePreset.envelopesOrdered →
            let target := p.clampToEnvelope c v
            (t.entryOf c).setpoint = target ∧ (t.entryOf c).origin = e.requester.origin e.preset ∧ (t.entryOf c).requests = []
            ∧ (p.countsOf x target ≠ m.position → (t.entryOf c).last = superseded
                ∧ (∃ mv, (t.motionOf c).move = some mv ∧ mv.kind = .set ∧ mv.owner = .request e.requester ∧ mv.tag = e.tag
                  ∧ mv.target = some (p.countsOf x target))
                ∧ t.drivesOrWaits c p.slots.length))
          ∧ (m.referenced = false → 0 < (p.store.activeCal.figures.pos.get x).homeTravel →
              (∀ y ∈ others, y.requester.rank < e.requester.rank) →
              (t.entryOf c).requests = [e] ∧ (t.entryOf c).setpoint = (p.entryOf c).setpoint ∧ (t.entryOf c).last = superseded
              ∧ (∃ mv, (t.motionOf c).move = some mv ∧ mv.kind = .home ∧ mv.owner = .request e.requester ∧ mv.tag = none)
              ∧ t.drivesOrWaits c p.slots.length))
      ∧ (m.referenced = false → others = [] → e.requester = .operator ∨ e.requester = .service →
          (∃ way, e.kind = .jog way) ∨ (∃ a k, e.kind = .shake a k) → dropped t .aborted)
      ∧ (others = [] → e.requester = .automatic .trim ∨ e.requester = .automatic .follow → 1 < windowsAbove n e.arrival →
          dropped t .superseded)

/-- A SET on a speed channel that stands free: with the separator DISENGAGED no move starts, the clamped target is committed and the
outcome is DEFERRED (R74); with it ENGAGED the move is in flight toward the committed setpoint or the FAN effective target, and
where a slot is free it is driven from outside the approach band, and coasts at once within it; it waits where none is (R60, R72,
R123, R131). The commitment raises the Trim Engine's countdown to the settle count (R85), and a DRUM setpoint above the one it
replaces returns an ARMED or SUSPECT Plug Relief to SPINUP (R147), while one of 0 stops the watch timer (R146). On a channel that
does not so stand: listed where it is blocked; a driven move of a lower requester ends SUPERSEDED, one of the requester's own
REPLACED, and the SET is listed while the channel coasts (R69); the requester's own SET with the new target ahead of the rpm is
retargeted in place (R70). A hold that the request starts on FAN makes the pitch offset 0 (R97), and so the target handed or
retargeted to is the setpoint itself: that it is started before the placing is the model's choice, log 17 (DESIGN CHOICE). The test
fails for a granted move without a direction, which is the model's choice, log 46. -/
def Obligations.ASetOnAFreeSpeedChannelIsTakenOrDeferred : Prop :=
  (∀ (p : Part) (q : List Instr) (dt : Nat) (h : FrameHeader) (source : Byte) (f : SettingFields) (v : SpeedChannel),
    (source = cabAddress ∧ p.service = false) ∨ source = serviceAddress → p.receives h source 6 → p.shutdown = none →
    Channel.ofCode f.channel.toNat = some v.channel → p.standsFree v.channel →
    p.store.activePreset.envelopesOrdered →
    let target := p.clampToEnvelope v.channel f.value.toInt
    ∃ t : Part, exec (.set dt h f) ⟨p, q⟩ = .next ⟨t, q⟩ ∧ t.now = p.now + dt
      ∧ (p.bus.queue.length < 24 → p.replyFrame source 0x01 f.tag
            (if target = f.value.toInt then .accepted else .acceptedClamped) f.channel
            (if target = f.value.toInt then f.value else BitVec.ofInt 16 target) ∈ t.bus.queue)
      ∧ (t.entryOf v.channel).setpoint = target
      ∧ (t.entryOf v.channel).origin = (if source = cabAddress then .operator else .service)
      ∧ (t.entryOf v.channel).requests = []
      ∧ t.fanTarget = (if v = .fan then t.clampToEnvelope .fan (target + t.fanOffset) else p.fanTarget)
      ∧ (p.capture.engaged = false → t.motion = p.motion ∧ t.slots = p.slots ∧ (t.entryOf v.channel).last =
            some ⟨.deferred, .request (if source = cabAddress then .operator else .service), p.window.number⟩)
      ∧ (p.capture.engaged = true → ∃ mv, (t.motionOf v.channel).move = some mv ∧ mv.kind = .set ∧ mv.tag = some f.tag
          ∧ mv.target = some (if v = .fan then t.fanTarget else target)
          ∧ mv.owner = .request (if source = cabAddress then .operator else .service)
          ∧ (2 ≤ p.slots.length → (t.motionOf v.channel).phase = .waiting)
          ∧ (p.slots.length < 2 → ∀ w, mv.target = some w →
              ((p.store.activePreset.bands.get v).approach < distance w (p.rpmOf v) →
                0 < (p.store.activeCal.figures.speed.get v).maxDriveTime → (t.motionOf v.channel).phase = .driving)
              ∧ (distance w (p.rpmOf v) ≤ (p.store.activePreset.bands.get v).approach →
                (t.motionOf v.channel).phase = .coasting)))
      ∧ t.settle = max p.settle p.store.activePreset.settleCount ∧ t.louverTrim = p.louverTrim
      ∧ (v = .fan → t.override = p.override)
      ∧ (v = .drum →
          let o := p.override
          let raised := (p.entryOf .drum).setpoint < target ∧ (o.relief = .armed ∨ o.relief = .suspect)
          let watches := 0 < target ∧ o.relief ≠ .disarmed ∧ o.relief ≠ .spinup ∧ o.relief ≠ .opening
          (raised → t.override = { o with relief := .spinup, confirmAt := none, watchAt := none })
          ∧ (¬raised → watches → t.override = o) ∧ (¬raised → ¬watches → t.override = { o with watchAt := none }))
      ∧ (∀ c, c ≠ v.channel → t.entryOf c = p.entryOf c)
      ∧ t.store = p.store ∧ t.capture = p.capture ∧ t.lines = p.lines ∧ t.power = .on ∧ t.shutdown = none
      ∧ t.service = p.service ∧ t.window.number = p.window.number ∧ t.window.history = p.window.history)
  ∧ ∀ (p : Part) (q : List Instr) (dt : Nat) (h : FrameHeader) (source : Byte) (f : SettingFields) (v : SpeedChannel),
    (source = cabAddress ∧ p.service = false) ∨ source = serviceAddress → p.receives h source 6 → p.shutdown = none →
    Channel.ofCode f.channel.toNat = some v.channel → (∀ cause, (p.motionOf v.channel).phase ≠ .faulted cause) →
    let c := v.channel
    let m := p.motionOf c
    let who : Requester := if source = cabAddress then .operator else .service
    let target := p.clampToEnvelope c f.value.toInt
    let entry : Entry := ⟨who, .set (some target), p.window.number, some f.tag, false⟩
    let leads := fun holds : Part → Prop => ∃ t : Part, exec (.set dt h f) ⟨p, q⟩ = .next ⟨t, q⟩ ∧ t.now = p.now + dt
      ∧ (∀ e, e ≠ c → t.entryOf e = p.entryOf e) ∧ t.store = p.store ∧ t.capture = p.capture ∧ t.lines = p.lines ∧ holds t
    let listedAfter := fun (mv : Move) (o : OutcomeCode) => leads fun t =>
      (t.motionOf c).phase = .coasting ∧ (t.motionOf c).move = none
        ∧ (t.motionOf c).coastEndsAt = some (p.now + dt + p.coastTime c * 1000) ∧ (∀ y ∈ t.slots, y.channel ≠ c)
        ∧ (t.entryOf c).requests = [entry] ∧ (t.entryOf c).setpoint = (p.entryOf c).setpoint
        ∧ (t.entryOf c).last = some ⟨o, mv.owner, p.window.number⟩
    (p.blocked c = true → (p.entryOf c).requests = [] → leads fun t => t.motion = p.motion ∧ t.slots = p.slots
      ∧ (t.entryOf c).requests = [entry] ∧ (t.entryOf c).setpoint = (p.entryOf c).setpoint)
    ∧ ∀ mv, m.move = some mv → p.blocked c = false →
        let offset : Int := if p.startsHold c (if source = cabAddress then .operator else .service) = true then 0 else p.fanOffset
        let value := if v = .fan then p.clampToEnvelope c (target + offset) else target
        let direction := if mv.granted = true then mv.direction
          else mv.target.bind fun w => if p.rpmOf v < w then some .up else if w < p.rpmOf v then some .down else none
        let ahead := ∃ d : Direction, direction = some d ∧ 0 < d.sign * (value - p.rpmOf v)
        (m.phase = .driving → (p.entryOf c).requests = [] →
          (mv.owner.rank < who.rank → listedAfter mv .superseded)
          ∧ (mv.owner = .request who → mv.kind ≠ .set ∨ ¬ahead → listedAfter mv .replaced))
        ∧ (mv.kind = .set → mv.owner = .request who → ahead → p.store.activePreset.envelopesOrdered → leads fun t =>
              t.motion = p.motion.set c { m with move := some { mv with target := some value, tag := some f.tag } }
              ∧ t.slots = p.slots ∧ (t.entryOf c).setpoint = target ∧ (t.entryOf c).requests = (p.entryOf c).requests
              ∧ (t.entryOf c).origin = (if source = cabAddress then .operator else .service))

/-- JOG_START on a positional channel that stands free, referenced and short of the edge: answered ACCEPTED, a JOG in the direction
of the value's sign is in flight up to the envelope's edge; at the edge already it commits the position and ends COMPLETE at once.
On a speed channel that stands free, with the separator ENGAGED, it is in flight up to the edge, and coasts at once where the rpm
stands there; on a blocked channel it is listed. A JOG_START that repeats the direction of the requester's own jog in flight is
answered and changes nothing else. In each case but that of a jog ended at once the channel's refresh timer of 300 ms is started, or
started again (R66, R69, R71, R118, R120, R126, R175; one timer for each channel is the model's choice, log 18). -/
def Obligations.AJogStartsOrIsRefreshed : Prop :=
  ∀ (p : Part) (q : List Instr) (dt : Nat) (h : FrameHeader) (source : Byte) (f : SettingFields) (c : Channel),
    (source = cabAddress ∧ p.service = false) ∨ source = serviceAddress → p.receives h source 6 → p.shutdown = none →
    Channel.ofCode f.channel.toNat = some c → f.value ≠ 0 →
    let who : Requester := if source = cabAddress then .operator else .service
    let d : Direction := if f.value.toInt < 0 then .down else .up
    let s := (p.later dt).answered source 0x01 f.tag .accepted f.channel f.value
    let timers := p.bus.jogTimers.set c (some (p.now + dt + 300000))
    let frame := fun t : Part => t.now = p.now + dt ∧ (∀ e, e ≠ c → t.entryOf e = p.entryOf e) ∧ t.store = p.store
      ∧ t.capture = p.capture ∧ t.lines = p.lines ∧ t.power = .on ∧ t.service = p.service
      ∧ t.window.number = p.window.number ∧ t.window.history = p.window.history
    (∀ x : PosChannel, c = x.channel → p.standsFree c → (p.motionOf c).referenced = true →
      let travel := distanceToEdge d (p.motionOf c).position (p.jogEdge c d)
      (travel ≠ 0 →
        ∃ (t : Part) (mv : Move), exec (.jogStart dt h f) ⟨p, q⟩ = .next ⟨t, q⟩ ∧ frame t
          ∧ (t.motionOf c).move = some mv ∧ mv.kind = .jog ∧ mv.owner = .request who ∧ mv.direction = some d
          ∧ mv.base = travel ∧ mv.remaining = travel ∧ mv.edge = p.jogEdge c d ∧ mv.tag = some f.tag ∧ mv.scheduling = .held
          ∧ t.drivesOrWaits c p.slots.length
          ∧ t.bus = { s.bus with jogTimers := timers }
          ∧ (t.entryOf c).setpoint = (p.entryOf c).setpoint ∧ (t.entryOf c).requests = [])
      ∧ (travel = 0 →
        ∃ t : Part, exec (.jogStart dt h f) ⟨p, q⟩ = .next ⟨t, q⟩ ∧ frame t
          ∧ (t.motionOf c).phase = .idle ∧ (t.motionOf c).move = none ∧ t.bus.jogTimers = p.bus.jogTimers.set c none
          ∧ (t.entryOf c).setpoint = p.clampToEnvelope c (p.unitsOf x (p.motionOf c).position)
          ∧ (t.entryOf c).requests = [] ∧ (t.entryOf c).last = some ⟨.complete, .request who, p.window.number⟩))
    ∧ (∀ v : SpeedChannel, c = v.channel → p.standsFree c → p.capture.engaged = true →
        ∃ (t : Part) (mv : Move), exec (.jogStart dt h f) ⟨p, q⟩ = .next ⟨t, q⟩ ∧ frame t
          ∧ (t.motionOf c).move = some mv ∧ mv.kind = .jog ∧ mv.owner = .request who ∧ mv.direction = some d
          ∧ mv.edge = p.jogEdge c d ∧ mv.tag = some f.tag
          ∧ (p.slots.length < 2 → 0 < (p.store.activeCal.figures.speed.get v).maxDriveTime → (t.motionOf c).phase =
              if distanceToEdge d (p.rpmOf v) (p.jogEdge c d) = 0 then .coasting else .driving)
          ∧ (2 ≤ p.slots.length → (t.motionOf c).phase = .waiting)
          ∧ t.bus.jogTimers = timers
          ∧ (t.entryOf c).setpoint = (p.entryOf c).setpoint ∧ (t.entryOf c).requests = [])
    ∧ (p.blocked c = true → (p.entryOf c).requests = [] → (∀ cause, (p.motionOf c).phase ≠ .faulted cause) →
        (c ∈ [Channel.drum, Channel.fan] → p.capture.engaged = true) →
        (c ∉ [Channel.drum, Channel.fan] → (p.motionOf c).referenced = true) →
        (∀ mv, (p.motionOf c).move = some mv → mv.kind ≠ .jog) →
        ∃ t : Part, exec (.jogStart dt h f) ⟨p, q⟩ = .next ⟨t, q⟩ ∧ frame t ∧ t.motion = p.motion ∧ t.slots = p.slots
          ∧ (t.entryOf c).requests = [⟨who, .jog d, p.window.number, some f.tag, false⟩]
          ∧ (t.entryOf c).setpoint = (p.entryOf c).setpoint ∧ t.bus = { s.bus with jogTimers := timers })
    ∧ (∀ mv, (p.motionOf c).move = some mv → mv.kind = .jog → mv.owner = .request who → mv.direction = some d →
        (c ∈ [Channel.drum, Channel.fan] → p.capture.engaged = true) →
        (c ∉ [Channel.drum, Channel.fan] → (p.motionOf c).referenced = true) →
        (∀ cause, (p.motionOf c).phase ≠ .faulted cause) →
        exec (.jogStart dt h f) ⟨p, q⟩ = .next ⟨{ s with bus := { s.bus with jogTimers := timers } }, q⟩)

/-- The end of a jog, by its requester's JOG_STOP, which is answered ACCEPTED, or by the expiry of its refresh timer: the drive of a
jog that is DRIVING turns off and the channel coasts for its coast or settle time; without a jog of the requester, in flight or
listed, and without a waiting request, a JOG_STOP changes nothing else. The expiry stops the timer, and leaves no JOG listed (R71,
R107, R119, R120, R175; that it serves every jog of its channel is the model's choice, log 18). At the coast or settle expiry a jog
so ended, or at its edge, commits the position or the rpm, clamped, for its requester, and ends COMPLETE, or LIMIT at the maximum
drive time; a stalled one commits and ends STALLED, the third stall a fault; one preempted short of its edge waits again (R58, R109,
R112, R118 to R120, R141). That a preempted speed jog at its edge ends there is the model's choice, log 40. -/
def Obligations.AJogEndsAtItsStopOrRefreshExpiry : Prop :=
  ∀ (p : Part) (q : List Instr) (c : Channel),
    let ends := fun (t s : Part) =>
      (t.motionOf c).phase = .coasting ∧ (t.motionOf c).coastEndsAt = some (s.now + s.coastTime c * 1000)
        ∧ (t.motionOf c).position = (s.motionOf c).position
        ∧ (∃ mv, (t.motionOf c).move = some mv ∧ mv.kind = .jog ∧ mv.driveEnd = .jogEnd)
        ∧ (∀ x ∈ t.slots, x.channel ≠ c) ∧ t.bus = s.bus ∧ t.book = s.book ∧ t.store = s.store ∧ t.capture = s.capture
        ∧ t.lines = s.lines ∧ t.now = s.now ∧ t.power = s.power ∧ t.window.number = s.window.number
        ∧ t.window.history = s.window.history
    (∀ (dt : Nat) (h : FrameHeader) (source : Byte) (f : SettingFields),
      (source = cabAddress ∧ p.service = false) ∨ source = serviceAddress → p.receives h source 6 → p.shutdown = none →
      Channel.ofCode f.channel.toNat = some c →
      let who : Requester := if source = cabAddress then .operator else .service
      let s := (p.later dt).answered source 0x01 f.tag .accepted f.channel f.value
      (∀ mv d, (p.motionOf c).move = some mv → mv.kind = .jog → mv.owner = .request who → mv.direction = some d →
        (p.motionOf c).phase = .driving →
        ∃ t : Part, exec (.jogStop dt h f) ⟨p, q⟩ = .next ⟨t, q⟩ ∧ ends t s)
      ∧ ((∀ mv, (p.motionOf c).move = some mv → mv.kind ≠ .jog ∨ mv.owner ≠ .request who) → (p.entryOf c).requests = [] →
          exec (.jogStop dt h f) ⟨p, q⟩ = .next ⟨s, q⟩))
    ∧ (∀ d, p.power = .on → p.bus.jogTimers.get c = some d →
      let s := p.atTime d
      let s := { s with bus := { s.bus with jogTimers := s.bus.jogTimers.set c none } }
      ∃ t : Part, exec (.jogRefreshExpiry c) ⟨p, q⟩ = .next ⟨t, q⟩ ∧ t.now = s.now ∧ t.bus.jogTimers = s.bus.jogTimers
        ∧ (∀ e ∈ (t.entryOf c).requests, ∀ way, e.kind ≠ .jog way)
        ∧ (∀ mv, (p.motionOf c).move = some mv → mv.kind = .jog → (p.motionOf c).phase = .driving →
            (∀ e ∈ (p.entryOf c).requests, ∀ way, e.kind ≠ .jog way) → ends t s))
    ∧ ∀ (d : Nat) (mv : Move) (r : Requester), p.power = .on → (p.motionOf c).coastEndsAt = some d →
      (p.motionOf c).move = some mv → mv.kind = .jog → mv.owner = .request r → mv.begunCoasting = false →
      (p.entryOf c).requests = [] →
      let frame := fun t : Part => t.now = max p.now d ∧ (∀ e, e ≠ c → t.entryOf e = p.entryOf e) ∧ t.store = p.store
        ∧ t.capture = p.capture ∧ t.lines = p.lines ∧ t.power = .on ∧ t.window.number = p.window.number
        ∧ t.window.history = p.window.history ∧ t.service = p.service ∧ t.shutdown = p.shutdown
      let commits := fun (t : Part) (v : Int) (o : OutcomeCode) =>
        (t.motionOf c).move = none ∧ t.bus.jogTimers = p.bus.jogTimers.set c none
          ∧ (t.entryOf c).setpoint = p.clampToEnvelope c v ∧ (t.entryOf c).origin = r.origin false
          ∧ (t.entryOf c).last = some ⟨o, mv.owner, p.window.number⟩ ∧ (t.entryOf c).requests = []
      let own : OutcomeCode := if mv.limit = true then .limit else .complete
      let stays := fun t : Part => (∃ mv', (t.motionOf c).move = some mv' ∧ mv'.kind = .jog ∧ mv'.owner = mv.owner
          ∧ mv'.direction = mv.direction) ∧ t.entryOf c = p.entryOf c ∧ t.bus = p.bus
        ∧ (2 ≤ p.slots.length → (t.motionOf c).phase = .waiting)
      (∀ (x : PosChannel) (first : Bool), c = x.channel →
        let value := p.unitsOf x (p.motionOf c).position
        let finished := mv.driveEnd = .jogEnd ∨ mv.remaining = 0
          ∨ ∃ way, mv.direction = some way ∧ distanceToEdge way (p.motionOf c).position mv.edge = 0
        ∃ t : Part, exec (.coastTimerExpiry x first) ⟨p, q⟩ = .next ⟨t, q⟩ ∧ frame t
          ∧ (mv.driveEnd = .stall → commits t value .stalled
              ∧ ((p.motionOf c).stallCount < 2 → (t.motionOf c).phase = .idle
                  ∧ (t.motionOf c).stallCount = (p.motionOf c).stallCount + 1)
              ∧ (2 ≤ (p.motionOf c).stallCount → (t.motionOf c).phase = .faulted .stall ∧ (t.motionOf c).referenced = false))
          ∧ (mv.driveEnd ≠ .stall → finished → commits t value own ∧ (t.motionOf c).phase = .idle)
          ∧ (mv.driveEnd ≠ .stall → ¬finished → stays t))
      ∧ ∀ v : SpeedChannel, c = v.channel →
        let reached := ∃ way, mv.direction = some way ∧ distanceToEdge way (p.rpmOf v) mv.edge = 0
        ∃ t : Part, exec (.settleTimerExpiry v) ⟨p, q⟩ = .next ⟨t, q⟩ ∧ frame t
          ∧ (mv.driveEnd ≠ .workLeft ∨ reached → commits t (p.rpmOf v) own ∧ (t.motionOf c).phase = .idle)
          ∧ (mv.driveEnd = .workLeft → ¬reached → stays t)

/-- HOME and SHAKE on a positional channel that stands free, and HOME also on one FAULTED under a valid calibration: answered; a
HOME clears the referenced flag and drives the home travel in the home direction, keeping the fault cause as standing; a SHAKE has
its amplitude clamped to 5..100 and its cycles to 1..15, answered ACCEPTED_CLAMPED with the amplitude, or with the cycles where only
these were clamped, drives its first half outward, away from the envelope's maximum where it does not fit, and has two halves for
each cycle (R66, R115, R121). At the coast expiry a stalled HOME has found its stop: the home value is the position, the channel is
referenced, HOMED is raised, and the outcome COMPLETE; a HOME whose travel is used up faults the channel, HOME_FAILED; any other
goes on (R109, R116, R117). A SHAKE half at its terminal count is followed by the next, back or out, and the last one is judged like
a SET (R122). A half that stalls ends the SHAKE STALLED, and the third stall in a row faults the channel (R112). A half preempted
with counts to go asks for a slot again and keeps its halves (R109); within the deadband of its half target R109 ends it COMPLETE,
which the model takes as the end of the whole SHAKE, log 21 (DEDUCED). -/
def Obligations.HomeAndShakeStartTheirMoves : Prop :=
  (∀ (p : Part) (q : List Instr) (dt : Nat) (h : FrameHeader) (source : Byte) (f : SettingFields) (x : PosChannel),
    (source = cabAddress ∧ p.service = false) ∨ source = serviceAddress → p.receives h source 6 → p.shutdown = none →
    Channel.ofCode f.channel.toNat = some x.channel →
    let c := x.channel
    let who : Requester := if source = cabAddress then .operator else .service
    let frame := fun t : Part => t.now = p.now + dt ∧ (∀ e, e ≠ c → t.entryOf e = p.entryOf e)
      ∧ (t.entryOf c).setpoint = (p.entryOf c).setpoint ∧ (t.entryOf c).requests = [] ∧ t.store = p.store
      ∧ t.capture = p.capture ∧ t.lines = p.lines ∧ t.power = .on ∧ t.service = p.service
      ∧ t.window.number = p.window.number ∧ t.window.history = p.window.history
    (p.store.activeCal.valid = true → 0 < (p.store.activeCal.figures.pos.get x).homeTravel →
      p.standsFree c ∨ (∃ cause, (p.motionOf c).phase = .faulted cause ∧ (p.motionOf c).move = none
        ∧ (c = .concave → p.override.relief.blocks = false) ∧ (p.entryOf c).requests = []) →
      ∃ (t : Part) (mv : Move), exec (.home dt h f) ⟨p, q⟩ = .next ⟨t, q⟩ ∧ frame t
        ∧ (t.motionOf c).referenced = false ∧ (t.motionOf c).position = (p.motionOf c).position
        ∧ (∀ cause, (p.motionOf c).phase = .faulted cause → (t.motionOf c).standing = some cause)
        ∧ (t.motionOf c).move = some mv ∧ mv.kind = .home ∧ mv.owner = .request who ∧ mv.tag = some f.tag
        ∧ mv.direction = some (p.store.activeCal.figures.pos.get x).homeDirection
        ∧ mv.base = (p.store.activeCal.figures.pos.get x).homeTravel ∧ mv.remaining = mv.base
        ∧ (p.slots.length < 2 → (t.motionOf c).phase = .driving)
        ∧ (2 ≤ p.slots.length → (t.motionOf c).phase = .waiting)
        ∧ (p.bus.queue.length < 24 → p.replyFrame source 0x01 f.tag .accepted f.channel f.value ∈ t.bus.queue))
    ∧ (p.standsFree c → (p.motionOf c).referenced = true →
        let amplitude := clamp 5 100 f.value.toInt
        let cycles := clampNat 1 15 f.cycles.toNat
        let answer := (p.later dt).answered source 0x01 f.tag
        let s := if amplitude ≠ f.value.toInt then answer .acceptedClamped f.channel (BitVec.ofInt 16 amplitude)
          else if cycles ≠ f.cycles.toNat then answer .acceptedClamped f.channel (BitVec.ofNat 16 cycles)
          else answer .accepted f.channel f.value
        let counts := clampNat 1 65535 (unitsToCounts (p.store.activeCal.figures.pos.get x).cal16 amplitude).toNat
        let start := (p.motionOf c).position
        let most := unitsToCounts (p.store.activeCal.figures.pos.get x).cal16 (p.envelope c).max
        let out : Int := if most < start + counts then start - counts else start + counts
        out ≤ 32767 → -32768 ≤ out →
        ∃ (t : Part) (mv : Move), exec (.shake dt h f) ⟨p, q⟩ = .next ⟨t, q⟩ ∧ frame t ∧ t.bus = s.bus
          ∧ (t.motionOf c).move = some mv ∧ mv.kind = .shake ∧ mv.owner = .request who ∧ mv.tag = some f.tag
          ∧ mv.target = some out ∧ mv.remaining = counts ∧ mv.halfMoves = 2 * cycles ∧ mv.shakeStart = start
          ∧ (p.slots.length < 2 → (t.motionOf c).phase = .driving)
          ∧ (2 ≤ p.slots.length → (t.motionOf c).phase = .waiting)))
  ∧ ∀ (p : Part) (q : List Instr) (x : PosChannel) (first : Bool) (d : Nat) (mv : Move),
    let c := x.channel
    let m := p.motionOf c
    p.power = .on → m.coastEndsAt = some d → m.move = some mv → mv.begunCoasting = false → (p.entryOf c).requests = [] →
    mv.kind = .home ∨ mv.kind = .shake →
    let ended := fun (t : Part) (o : OutcomeCode) => (t.motionOf c).move = none
      ∧ (t.entryOf c).last = some ⟨o, mv.owner, p.window.number⟩
    ∃ t : Part, exec (.coastTimerExpiry x first) ⟨p, q⟩ = .next ⟨t, q⟩ ∧ t.now = max p.now d
      ∧ (∀ e, e ≠ c → t.entryOf e = p.entryOf e) ∧ (t.entryOf c).setpoint = (p.entryOf c).setpoint ∧ t.store = p.store
      ∧ t.capture = p.capture ∧ t.lines = p.lines ∧ t.window.number = p.window.number ∧ t.window.history = p.window.history
      ∧ (mv.kind = .home → mv.driveEnd = .stall → ended t .complete ∧ (t.motionOf c).phase = .idle
          ∧ (t.motionOf c).position = p.countsOf x (p.store.activeCal.figures.pos.get x).homeValue
          ∧ (t.motionOf c).referenced = true ∧ (t.motionOf c).strayCount = 0 ∧ (t.motionOf c).stallCount = 0
          ∧ (t.motionOf c).standing = none
          ∧ (p.bus.queue.length < 24 → t.notified .homed (some c) 0 (BitVec.ofInt 16 m.position).toNat p.window.number))
      ∧ (mv.kind = .home → mv.driveEnd ≠ .stall → mv.remaining = 0 → ended t .faulted
          ∧ (t.motionOf c).phase = .faulted .homeFailed ∧ (t.motionOf c).referenced = false
          ∧ (p.bus.queue.length < 24 → t.notified .channelFaulted (some c) 2 0 p.window.number))
      ∧ (mv.kind = .home → mv.driveEnd ≠ .stall → mv.remaining ≠ 0 → t.drivesOrWaits c p.slots.length ∧ t.book = p.book
          ∧ ∃ mv', (t.motionOf c).move = some mv' ∧ mv'.kind = .home ∧ mv'.remaining = mv.remaining ∧ mv'.tag = mv.tag)
      ∧ (mv.kind = .shake → mv.driveEnd ≠ .stall → mv.remaining = 0 → 1 < mv.halfMoves → t.book = p.book
          ∧ (2 ≤ p.slots.length → (t.motionOf c).phase = .waiting)
          ∧ ∃ mv', (t.motionOf c).move = some mv' ∧ mv'.kind = .shake ∧ mv'.halfMoves = mv.halfMoves - 1
            ∧ mv'.target = some (if mv.halfMoves % 2 = 0 then mv.shakeStart else mv.shakeOut) ∧ mv'.base = mv.shakeAmplitude)
      ∧ (∀ target, mv.kind = .shake → mv.driveEnd ≠ .stall → mv.remaining = 0 → mv.halfMoves ≤ 1 → mv.target = some target →
          let off := distance target m.position
          (off ≤ p.deadbandCounts x → ended t .complete ∧ (t.motionOf c).phase = .idle)
          ∧ (p.deadbandCounts x < off → mv.corrected = true → ended t .completeOff ∧ (t.motionOf c).phase = .idle)
          ∧ (p.deadbandCounts x < off → mv.corrected = false → t.drivesOrWaits c p.slots.length
              ∧ ∃ mv', (t.motionOf c).move = some mv' ∧ mv'.target = some target ∧ mv'.corrected = true))
      ∧ (mv.kind = .shake → mv.driveEnd = .stall →
          let stalls := m.stallCount + 1
          (stalls < 3 → ended t .stalled ∧ (t.motionOf c).phase = .idle ∧ (t.motionOf c).stallCount = stalls
              ∧ (t.motionOf c).referenced = m.referenced ∧ (t.motionOf c).position = m.position ∧ t.override = p.override)
          ∧ (3 ≤ stalls → ended t .stalled ∧ (t.motionOf c).phase = .faulted .stall ∧ (t.motionOf c).referenced = false
              ∧ (t.motionOf c).position = m.position
              ∧ (p.bus.queue.length < 24 → t.notified .channelFaulted (some c) 1 0 p.window.number)
              ∧ (c ≠ .concave → t.override = p.override)
              ∧ (c = .concave → p.override.relief ≠ .disarmed → t.override = Override.reset)))
      ∧ (∀ target, mv.kind = .shake → mv.driveEnd ≠ .stall → mv.remaining ≠ 0 → mv.target = some target →
          let off := distance target m.position
          (off ≤ p.deadbandCounts x → ended t .complete ∧ (t.motionOf c).phase = .idle ∧ (t.motionOf c).stallCount = 0)
          ∧ (p.deadbandCounts x < off → 0 < mv.base → t.drivesOrWaits c p.slots.length ∧ t.book = p.book
              ∧ ∃ mv', (t.motionOf c).move = some mv' ∧ mv'.kind = .shake ∧ mv'.target = some target ∧ mv'.tag = mv.tag
                ∧ mv'.halfMoves = mv.halfMoves ∧ mv'.base = mv.base
                ∧ (p.slots.length < 2 → mv'.remaining = min mv.base off)))

/-- MODE_REQUEST and the hold timer: AUTO selects AUTO and removes the hold, MANUAL selects MANUAL, on FAN with the pitch offset 0,
RELEASE_HOLD removes the hold, each answered ACCEPTED; the refusals come in the order SHUTTING_DOWN, CHANNEL, NOT_PERMITTED for the
operator in service mode, OUTRANKED for the operator on a SERVICE hold. A hold's one-second timer takes a second off and starts
again, or ends the hold at its last (R61 to R63, R97). Nothing else changes. -/
def Obligations.ModesAndHoldsChangeAsAsked : Prop :=
  (∀ (p : Part) (q : List Instr) (dt : Nat) (h : FrameHeader) (source : Byte) (f : ModeFields) (o : ModeOp),
    source = cabAddress ∨ source = serviceAddress → p.receives h source 3 →
    let s := p.later dt
    let answer := fun r : Result => s.answered source 0x02 f.tag r f.channel 0
    let refused := fun r : Result => exec (modeCommand o dt h f) ⟨p, q⟩ = .next ⟨answer r, q⟩
    (p.shutdown.isSome = true → refused .shuttingDown)
    ∧ (p.shutdown = none → 5 < f.channel.toNat → refused .badChannel)
    ∧ ∀ c, p.shutdown = none → Channel.ofCode f.channel.toNat = some c →
      (source = cabAddress → p.service = true → refused .notPermitted)
      ∧ (source = cabAddress → p.service = false → o ≠ .manual → (∃ k, (p.entryOf c).hold = some k ∧ k.holder = .service) →
          refused .outranked)
      ∧ (source = serviceAddress ∨ (p.service = false ∧ (o = .manual ∨ ∀ k, (p.entryOf c).hold = some k → k.holder = .operator)) →
          (o = .auto → exec (modeCommand o dt h f) ⟨p, q⟩ =
            .next ⟨{ answer .accepted with book := p.book.set c { p.entryOf c with mode := .auto, hold := none } }, q⟩)
          ∧ (o = .manual → c ≠ .fan → exec (modeCommand o dt h f) ⟨p, q⟩ =
            .next ⟨{ answer .accepted with book := p.book.set c { p.entryOf c with mode := .manual } }, q⟩)
          ∧ (o = .manual → c = .fan → exec (modeCommand o dt h f) ⟨p, q⟩ =
            .next ⟨{ answer .accepted with
              book := p.book.set c { p.entryOf c with mode := .manual }
              fanOffset := 0
              fanTarget := p.clampToEnvelope .fan (p.entryOf .fan).setpoint }, q⟩)
          ∧ (o = .releaseHold → exec (modeCommand o dt h f) ⟨p, q⟩ =
            .next ⟨{ answer .accepted with book := p.book.set c { p.entryOf c with hold := none } }, q⟩)))
  ∧ ∀ (p : Part) (q : List Instr) (c : Channel) (who : Holder) (left d : Nat), p.power = .on →
      (p.entryOf c).hold = some ⟨who, .seconds left d⟩ →
      exec (.holdTimerExpiry c) ⟨p, q⟩ = .next ⟨{ p.atTime d with book := p.book.set c { p.entryOf c with
        hold := if left ≤ 1 then none else some ⟨who, .seconds (left - 1) (max p.now d + 1000000)⟩ } }, q⟩

/-- ENTER, from the Service Tool: refused NOT_STATIONARY unless ground speed is known and 0 and the separator DISENGAGED; answered
ACCEPTED otherwise. In service mode already, it changes nothing more. Otherwise service mode becomes ACTIVE, every channel gets a
SERVICE hold until release, the fan pitch offset is 0, and only moves of the Override Unit or of SERVICE and listed entries of
SERVICE remain: every other move ends ABORTED, and so does every other entry, while a RELIEF, RETURN or PARK move goes on (R79,
R97). That the entries of one list end in its order, so that the last of it is the last outcome, is the model's choice, log 25. -/
def Obligations.EnterStartsServiceMode : Prop :=
  ∀ (p : Part) (q : List Instr) (dt : Nat) (h : FrameHeader) (tag : Byte) (o : Order),
    p.receives h serviceAddress 2 → p.shutdown = none →
    let s := p.later dt
    let stationary := p.bus.speedKnown = true ∧ p.bus.groundSpeed = 0 ∧ p.capture.engaged = false
    (¬stationary → exec (.enter dt h tag o) ⟨p, q⟩ = .next ⟨s.answered serviceAddress 0x05 tag .notStationary 0xFF 0, q⟩)
    ∧ (stationary → p.service = true →
        exec (.enter dt h tag o) ⟨p, q⟩ = .next ⟨s.answered serviceAddress 0x05 tag .accepted 0xFF 0, q⟩)
    ∧ (stationary → p.service = false → ∃ t : Part, exec (.enter dt h tag o) ⟨p, q⟩ = .next ⟨t, q⟩ ∧ t.now = s.now
        ∧ (p.bus.queue.length < 24 → p.replyFrame serviceAddress 0x05 tag .accepted 0xFF 0 ∈ t.bus.queue)
        ∧ t.service = true ∧ t.fanOffset = 0 ∧ (∀ c, (t.entryOf c).hold = some ⟨.service, .untilRelease⟩)
        ∧ (∀ c mv, (t.motionOf c).move = some mv → mv.owner = .override ∨ mv.owner = .request .service)
        ∧ (∀ c, ∀ e ∈ (t.entryOf c).requests, e.requester = .service)
        ∧ (∀ c mv, (p.motionOf c).move = some mv → mv.owner ≠ .override → (p.entryOf c).requests = [] →
            (t.motionOf c).move = none ∧ (t.entryOf c).last = some ⟨.aborted, mv.owner, p.window.number⟩)
        ∧ (∀ c before e, (p.entryOf c).requests = before ++ [e] → (∀ x ∈ before ++ [e], x.requester ≠ .service) →
            (p.motionOf c).standing = none →
            (t.entryOf c).requests = [] ∧ (t.entryOf c).last = some ⟨.aborted, .request e.requester, p.window.number⟩)
        ∧ (∀ c mv, (p.motionOf c).move = some mv → mv.owner = .override → mv.kind.blocks = true →
            ∃ mv', (t.motionOf c).move = some mv' ∧ mv'.owner = .override ∧ mv'.kind = mv.kind ∧ mv'.target = mv.target)
        ∧ (∀ c, (t.entryOf c).mode = (p.entryOf c).mode)
        ∧ t.capture = p.capture ∧ t.lines = p.lines ∧ t.power = .on ∧ t.shutdown = none ∧ t.store = p.store
        ∧ t.window.number = p.window.number ∧ t.window.history = p.window.history)

/-- R80: LEAVE, from the Service Tool: refused SHUTTING_DOWN during key-off shutdown, otherwise answered ACCEPTED; ACTIVE service
mode becomes INACTIVE and every SERVICE hold is removed, while moves and listed entries, and everything else, stay as they are; with
service mode INACTIVE it changes nothing. From then on the check that turns OPERATOR requests away no longer does. -/
def Obligations.LeaveEndsServiceMode : Prop :=
  ∀ (p : Part) (q : List Instr) (dt : Nat) (h : FrameHeader) (tag : Byte), p.receives h serviceAddress 2 →
    let s := (p.later dt).answered serviceAddress 0x05 tag .accepted 0xFF 0
    let t : Part := { s with
      service := false
      book := .build fun c => { p.entryOf c with
        hold := match (p.entryOf c).hold with
          | some k => if k.holder = .service then none else some k
          | none => none } }
    (p.shutdown.isSome = true → exec (.leave dt h tag) ⟨p, q⟩ =
      .next ⟨(p.later dt).answered serviceAddress 0x05 tag .shuttingDown 0xFF 0, q⟩)
    ∧ (p.shutdown = none → p.service = true → exec (.leave dt h tag) ⟨p, q⟩ = .next ⟨t, q⟩)
    ∧ (p.shutdown = none → p.service = false → exec (.leave dt h tag) ⟨p, q⟩ = .next ⟨s, q⟩)
    ∧ t.motion = p.motion ∧ (∀ c, (t.entryOf c).requests = (p.entryOf c).requests)
    ∧ ∀ (channel : Byte) (k : Option SettingKind) (v : Int), t.checkSetting .operator channel k v ≠ .error .notPermitted

/-! ### The Motion Engine and the drive slots (chapters 6 and 7) -/

/-- FEEDBACK_PULSE: in DRIVING the position moves by one in the drive's direction within its range, the remaining count falls, the
stint count of a STEPWISE move rises, and the stall timer starts again; at the terminal count, or at the end of a stint, the drive
turns off instead, and the slot is released. In COASTING the position moves in the direction last driven, and the remaining count of
a HOME or JOG falls. In any other state the pulse is a stray, counted up to 255, and moves nothing: a channel that is blocked,
waits, or has no request listed is otherwise as it was. The eighth clears the referenced flag and raises POSITION_LOST with the
position; a move other than HOME that waits ends ABORTED, and Plug Relief is DISARMED where the channel is CONCAVE. The channel is
then free, and what is first in its Request List is taken, the others ending SUPERSEDED: a SET behind a HOME of its requester (R73),
a HOME itself; a JOG or SHAKE ends ABORTED (R72, R106, R107, R110, R111, R145). That the others end in the order of the list is the
model's choice, log 25. -/
def Obligations.AFeedbackPulseMovesTheCountOrIsAStray : Prop :=
  ∀ (p : Part) (q : List Instr) (dt : Nat) (x : PosChannel), p.power = .on →
    let c := x.channel
    let m := p.motionOf c
    let moved := fun d : Direction => clamp (-32768) 32767 (m.position + d.sign)
    let becomes := fun m' : Motion =>
      exec (.feedbackPulse dt x) ⟨p, q⟩ = .next ⟨{ p.later dt with motion := p.motion.set c m' }, q⟩
    (∀ mv d, m.phase = .driving → m.move = some mv → mv.direction = some d →
      let stint := mv.stintCount + (if mv.scheduling = .stepwise then 1 else 0)
      let full := mv.scheduling = .stepwise ∧ p.store.activePreset.stint ≤ stint
      (1 < mv.remaining → ¬full → becomes { m with
          position := moved d
          move := some { mv with remaining := mv.remaining - 1, stintCount := stint }
          stallAt := some (p.now + dt + (p.store.activeCal.figures.pos.get x).stallTime * 1000) })
      ∧ (mv.remaining ≤ 1 ∨ full → ∃ t : Part, exec (.feedbackPulse dt x) ⟨p, q⟩ = .next ⟨t, q⟩ ∧ t.now = p.now + dt
          ∧ (t.motionOf c).phase = .coasting ∧ (t.motionOf c).position = moved d ∧ (t.motionOf c).stallAt = none
          ∧ (t.motionOf c).coastEndsAt = some (p.now + dt + p.coastTime c * 1000)
          ∧ (t.motionOf c).move = some { mv with
              remaining := mv.remaining - 1, stintCount := stint
              driveEnd := if mv.remaining ≤ 1 then .ownEnd else .workLeft }
          ∧ (∀ y ∈ t.slots, y.channel ≠ c) ∧ t.book = p.book ∧ t.bus = p.bus ∧ t.store = p.store ∧ t.capture = p.capture
          ∧ t.lines = p.lines ∧ t.power = .on ∧ t.window.number = p.window.number ∧ t.window.history = p.window.history))
    ∧ (∀ d, m.phase = .coasting → m.lastDirection = some d →
        becomes { m with
          position := moved d
          move := m.move.map fun mv =>
            if mv.kind = .home ∨ mv.kind = .jog then { mv with remaining := mv.remaining - 1 } else mv })
    ∧ (m.phase = .idle ∨ m.phase = .waiting ∨ (∃ cause, m.phase = .faulted cause) →
        (p.entryOf c).requests = [] ∨ m.phase = .waiting ∨ p.blocked c = true →
        m.strayCount < 7 ∨ m.referenced = false → becomes { m with strayCount := min 255 (m.strayCount + 1) })
    ∧ (m.strayCount = 7 → m.referenced = true →
        let n := p.window.number
        let loses := fun holds : Part → Prop => ∃ t : Part, exec (.feedbackPulse dt x) ⟨p, q⟩ = .next ⟨t, q⟩
          ∧ t.now = p.now + dt ∧ (t.motionOf c).referenced = false ∧ (t.motionOf c).strayCount = 8
          ∧ (t.motionOf c).position = m.position ∧ (t.entryOf c).setpoint = (p.entryOf c).setpoint
          ∧ (∀ e, e ≠ c → t.entryOf e = p.entryOf e)
          ∧ (p.bus.queue.length < 24 → t.notified .positionLost (some c) 0 (BitVec.ofInt 16 m.position).toNat n)
          ∧ (c ≠ .concave → t.override = p.override)
          ∧ (c = .concave → p.override.relief ≠ .disarmed → t.override = Override.reset)
          ∧ t.store = p.store ∧ t.capture = p.capture ∧ t.lines = p.lines ∧ t.power = .on
          ∧ t.window.number = n ∧ t.window.history = p.window.history ∧ holds t
        let waits := fun mv : Move => m.phase = .waiting ∧ m.move = some mv ∧ mv.kind ≠ .home
        let aborted := fun (t : Part) (mv : Move) => p.bus.queue.length < 23 →
          t.notified .moveDone (some c) 4 (tagDetail mv.tag) n
        (m.phase = .idle ∨ m.phase = .waiting ∨ (∃ cause, m.phase = .faulted cause) → m.move = none →
          (p.entryOf c).requests = [] → loses fun t =>
            t.motion = p.motion.set c { m with strayCount := 8, referenced := false } ∧ t.book = p.book)
        ∧ (∀ mv, waits mv → m.standing = none → (p.entryOf c).requests = [] → loses fun t =>
            (t.motionOf c).phase = .idle ∧ (t.motionOf c).move = none ∧ t.slots = p.slots ∧ (t.entryOf c).requests = []
              ∧ (t.entryOf c).last = some ⟨.aborted, mv.owner, n⟩ ∧ aborted t mv)
        ∧ (∀ (e : Entry) (others : List Entry), (p.entryOf c).requests = e :: others → p.shutdown = none → m.standing = none →
            (m.phase = .idle ∧ m.move = none) ∨ (∃ mv, waits mv) → (∀ y ∈ others, y.requester.rank < e.requester.rank) →
            e.requester = .operator ∨ e.requester = .service →
            let before := match m.move with
              | some mv => some ⟨.aborted, mv.owner, n⟩
              | none => (p.entryOf c).last
            let last := match others.getLast? with
              | some y => some ⟨.superseded, .request y.requester, n⟩
              | none => before
            let homes := fun (t : Part) (tag : Option Byte) => (t.entryOf c).last = last
              ∧ (∃ mv, (t.motionOf c).move = some mv ∧ mv.kind = .home ∧ mv.owner = .request e.requester ∧ mv.tag = tag)
              ∧ t.drivesOrWaits c p.slots.length
            loses fun t => (∀ mv, m.move = some mv → aborted t mv)
              ∧ (∀ v, e.kind = .set v → 0 < (p.store.activeCal.figures.pos.get x).homeTravel →
                  (t.entryOf c).requests = [e] ∧ homes t none)
              ∧ (e.kind = .home → 0 < (p.store.activeCal.figures.pos.get x).homeTravel →
                  (t.entryOf c).requests = [] ∧ homes t e.tag)
              ∧ ((∃ way, e.kind = .jog way) ∨ (∃ a k, e.kind = .shake a k) → others = [] →
                  (t.entryOf c).requests = [] ∧ (t.motionOf c).phase = .idle ∧ (t.motionOf c).move = none
                    ∧ (t.entryOf c).last = some ⟨.aborted, .request e.requester, n⟩)))

/-- COAST_TIMER_EXPIRY and SETTLE_TIMER_EXPIRY: a SET of a positional channel at its terminal count ends COMPLETE within the
deadband, is corrected once outside it, and then ends COMPLETE_OFF; a speed move ends COMPLETE, or LIMIT at the maximum drive time.
A channel that ends is IDLE without a move, its outcome recorded with the window's number (R75, R104, R108, R124). A stalled SET
ends STALLED, and its third stall in a row faults the channel, clears its reference and raises CHANNEL_FAULTED (R112, R113); one
stopped with work left ends COMPLETE within the deadband, or the approach band of a speed channel, and otherwise asks for a slot
again (R109, R141). So do the Override Unit's moves, of which PARK changes nothing else: RELIEF ending in OPENING makes Plug Relief
OPEN_HELD with its give-up and watch timers (R150), RETURN ending in RETURNING makes it ARMED and raises RELIEF_RECOVERED (R152),
and the third stall of CONCAVE disarms it. A move handed to a coasting channel takes its counts at the coast expiry, and ends there
with none to go (R103). Which of a preemption and a release of the same instant is taken first is the operand of log 45, the model's
choice; that RELIEF_RECOVERED carries the low 16 bits of a drum rpm above 65535 is the model's choice too, log 41. -/
def Obligations.ACoastOrSettleEndsTheMove : Prop :=
  ∀ (p : Part) (q : List Instr) (c : Channel) (d : Nat) (mv : Move) (first : Bool), p.power = .on →
    (p.motionOf c).coastEndsAt = some d → (p.motionOf c).move = some mv → mv.kind ∈ [.set, .relief, .returning, .park] →
    (p.entryOf c).requests = [] →
    let now := max p.now d
    let k := p.store.activePreset.relief
    let drum := (p.entryOf .drum).setpoint
    let speed := p.store.activeCal.figures.speed.drum
    let watch := if 0 < drum
      then some (now + roundHalfUp 96000000000 (k.recoverPercent * drum.toNat * speed.teeth * speed.ratio16)) else none
    let opened := mv.kind = .relief ∧ p.override.relief = .opening
    let returned := mv.kind = .returning ∧ p.override.relief = .returning
    let ended := fun (t : Part) (o : OutcomeCode) =>
      (t.motionOf c).phase = .idle ∧ (t.motionOf c).move = none ∧ (t.motionOf c).coastEndsAt = none
        ∧ (t.motionOf c).position = (p.motionOf c).position ∧ (t.entryOf c).last = some ⟨o, mv.owner, p.window.number⟩
        ∧ (t.entryOf c).setpoint = (p.entryOf c).setpoint ∧ t.evaluator = p.evaluator
        ∧ (opened → t.window.marks.relief = true ∧ t.override = { p.override with
            relief := .openHeld false, giveUpAt := some (now + k.giveUpTime * 1000), watchAt := watch })
        ∧ (returned → t.override = { p.override with relief := .armed, confirmAt := none }
            ∧ (p.bus.queue.length < 23 → t.notified .reliefRecovered (some .concave)
                (if o = .complete then 0 else if o = .completeOff then 1 else 2) (p.capture.speed.drum.rpm % 65536)
                p.window.number))
        ∧ (¬opened → ¬returned → t.override = p.override)
    let frame := fun t : Part => t.now = now ∧ (∀ e, e ≠ c → t.entryOf e = p.entryOf e) ∧ t.store = p.store
      ∧ t.capture = p.capture ∧ t.lines = p.lines ∧ t.power = .on ∧ t.window.number = p.window.number
      ∧ t.window.history = p.window.history ∧ t.service = p.service ∧ t.shutdown = p.shutdown
    (∀ (x : PosChannel) (target : Int), c = x.channel → mv.target = some target → mv.begunCoasting = false →
      mv.driveEnd = .ownEnd → mv.remaining = 0 →
      let off := distance target (p.motionOf c).position
      ∃ t : Part, exec (.coastTimerExpiry x first) ⟨p, q⟩ = .next ⟨t, q⟩ ∧ frame t
        ∧ (off ≤ p.deadbandCounts x → ended t .complete)
        ∧ (p.deadbandCounts x < off → mv.corrected = true → ended t .completeOff)
        ∧ (p.deadbandCounts x < off → mv.corrected = false → ∃ mv', (t.motionOf c).move = some mv' ∧ mv'.corrected = true
            ∧ mv'.target = some target ∧ mv'.base = off ∧ mv'.remaining = off ∧ t.entryOf c = p.entryOf c
            ∧ t.override = p.override ∧ t.servedOrWaits p c mv.kind first))
    ∧ (∀ x : PosChannel, c = x.channel → mv.begunCoasting = false → mv.driveEnd = .stall →
        let stalls := (p.motionOf c).stallCount + 1
        ∃ t : Part, exec (.coastTimerExpiry x first) ⟨p, q⟩ = .next ⟨t, q⟩ ∧ frame t
          ∧ (stalls < 3 → ended t .stalled ∧ (t.motionOf c).stallCount = stalls
              ∧ (t.motionOf c).referenced = (p.motionOf c).referenced)
          ∧ (3 ≤ stalls → (t.motionOf c).phase = .faulted .stall ∧ (t.motionOf c).move = none
              ∧ (t.motionOf c).referenced = false ∧ (t.entryOf c).last = some ⟨.stalled, mv.owner, p.window.number⟩
              ∧ (p.bus.queue.length < 24 → t.notified .channelFaulted (some c) 1 0 p.window.number)
              ∧ (c = .concave → p.override.relief ≠ .disarmed → t.override = Override.reset)
              ∧ (c = .concave → p.override.relief.opens = true → t.evaluator.restrain = .restrained .load 0
                  ∧ ((∃ held, p.evaluator.restrain = .restrained .relief held) → p.bus.queue.length < 22 → t.restrainSent))
              ∧ (c ≠ .concave → t.override = p.override)))
    ∧ (∀ (x : PosChannel) (target : Int), c = x.channel → mv.target = some target → mv.begunCoasting = false →
        mv.driveEnd = .workLeft → mv.remaining ≠ 0 → 0 < mv.base →
        let off := distance target (p.motionOf c).position
        ∃ t : Part, exec (.coastTimerExpiry x first) ⟨p, q⟩ = .next ⟨t, q⟩ ∧ frame t
          ∧ (off ≤ p.deadbandCounts x → ended t .complete)
          ∧ (p.deadbandCounts x < off → t.entryOf c = p.entryOf c ∧ t.override = p.override ∧ t.servedOrWaits p c mv.kind first
              ∧ ∃ mv', (t.motionOf c).move = some mv' ∧ mv'.target = some target ∧ mv'.tag = mv.tag
                ∧ (p.slots.length < 2 → mv'.remaining = min mv.base off)))
    ∧ (∀ (x : PosChannel) (target : Int), c = x.channel → mv.target = some target → mv.begunCoasting = true →
        let off := distance target (p.motionOf c).position
        ∃ t : Part, exec (.coastTimerExpiry x first) ⟨p, q⟩ = .next ⟨t, q⟩ ∧ frame t
          ∧ (off = 0 → ended t .complete)
          ∧ (off ≠ 0 → t.entryOf c = p.entryOf c ∧ t.override = p.override ∧ t.servedOrWaits p c mv.kind first
              ∧ ∃ mv', (t.motionOf c).move = some mv' ∧ mv'.kind = mv.kind ∧ mv'.target = some target ∧ mv'.owner = mv.owner
                ∧ mv'.tag = mv.tag ∧ mv'.base = off ∧ mv'.remaining = off ∧ mv'.corrected = false ∧ mv'.begunCoasting = false))
    ∧ (∀ v : SpeedChannel, c = v.channel → mv.kind = .set → mv.driveEnd = .ownEnd →
        ∃ t : Part, exec (.settleTimerExpiry v) ⟨p, q⟩ = .next ⟨t, q⟩ ∧ frame t
          ∧ (mv.limit = true → ended t .limit) ∧ (mv.limit = false → ended t .complete))
    ∧ (∀ (v : SpeedChannel) (target : Int), c = v.channel → mv.kind = .set → mv.target = some target → mv.driveEnd = .workLeft →
        let off := distance target (p.rpmOf v)
        ∃ t : Part, exec (.settleTimerExpiry v) ⟨p, q⟩ = .next ⟨t, q⟩ ∧ frame t
          ∧ (off ≤ (p.store.activePreset.bands.get v).approach → ended t .complete)
          ∧ ((p.store.activePreset.bands.get v).approach < off → t.entryOf c = p.entryOf c
              ∧ (∃ mv', (t.motionOf c).move = some mv' ∧ mv'.target = some target ∧ mv'.tag = mv.tag)
              ∧ (2 ≤ p.slots.length → (t.motionOf c).phase = .waiting)))

/-- STALL_TIMER_EXPIRY and MAXIMUM_DRIVE_TIME_EXPIRY: the drive turns off, the slot is released, and the channel coasts for its
coast or settle time, to be judged as a stall, or at the limit (R107, R111, R124, R133). The released slot is granted to the waiting
channel of the highest class, of these the earliest in the live rank order, which a grant turns in ROTATING mode alone (R128 to
R130, R132). A channel that asks is granted a free slot; where both are held it waits, but a RELIEF move takes the slot of the
holder of the lowest class below OVERRIDE, of two the more recent grant, whose move is kept (R131, R140, R141), unless a release
that falls together with its entry is taken first: then it waits for that, and nothing is preempted (R142; an operand says which,
log 45). -/
def Obligations.AStallOrALimitTurnsTheDriveOff : Prop :=
  (∀ (p : Part) (q : List Instr) (c : Channel) (mv : Move), p.power = .on → (p.motionOf c).phase = .driving →
    (p.motionOf c).move = some mv →
    let off := fun (t : Part) (now : Nat) (e : DriveEnd) (limit : Bool) =>
      t.now = now ∧ (t.motionOf c).phase = .coasting ∧ (t.motionOf c).coastEndsAt = some (now + p.coastTime c * 1000)
        ∧ (∃ mv', (t.motionOf c).move = some mv' ∧ mv'.driveEnd = e ∧ mv'.limit = limit ∧ mv'.kind = mv.kind)
        ∧ (∀ x ∈ t.slots, x.channel ≠ c) ∧ (t.motionOf c).position = (p.motionOf c).position
        ∧ (∀ w, p.bestWaiting = some w → (p.motionOf w).move.isSome = true → (p.slots.filter (·.channel ≠ c)).length < 2 →
            (t.motionOf w).phase = .coasting ∨ ((t.motionOf w).phase = .driving ∧ ⟨w, now⟩ ∈ t.slots))
        ∧ t.book = p.book ∧ t.bus = p.bus ∧ t.store = p.store ∧ t.capture = p.capture ∧ t.lines = p.lines
        ∧ t.window.number = p.window.number ∧ t.window.history = p.window.history
    (∀ (x : PosChannel) (d : Nat), c = x.channel → (p.motionOf c).stallAt = some d →
      ∃ t : Part, exec (.stallTimerExpiry x) ⟨p, q⟩ = .next ⟨t, q⟩ ∧ off t (max p.now d) .stall mv.limit)
    ∧ (∀ v : SpeedChannel, c = v.channel →
      ∃ t : Part, exec (.maximumDriveTimeExpiry v) ⟨p, q⟩ = .next ⟨t, q⟩
        ∧ off t (max p.now ((p.motionOf c).drivingSince
            + ((p.store.activeCal.figures.speed.get v).maxDriveTime * 1000 - mv.driveTime))) .ownEnd true))
  ∧ (∀ s : Preset, (s.rankList.Pairwise fun a b => s.rank.get a < s.rank.get b ∨ s.rank.get a = s.rank.get b ∧ a.index < b.index)
      ∧ ∀ c, s.rank.get c ≤ 5 → c ∈ s.rankList)
  ∧ ∀ p : Part,
    let waiting := fun c => (p.motionOf c).phase = .waiting
    ((∀ c ∈ p.rankOrder, ¬waiting c) → p.bestWaiting = none)
    ∧ (∀ before c after, p.rankOrder = before ++ c :: after → waiting c →
        (∀ x ∈ before, waiting x → p.classOf x < p.classOf c) → (∀ x ∈ after, waiting x → p.classOf x ≤ p.classOf c) →
        p.bestWaiting = some c)
    ∧ ∀ c mv, (p.motionOf c).move = some mv →
      p.classOf c = (match mv.owner with
        | .override => 3
        | .request .service => 2
        | .request .operator => 1
        | .request (.automatic _) => 0)
      ∧ (p.grant c).rankOrder = (match p.store.activePreset.arbiterMode with
        | .fixed => p.rankOrder
        | .rotating => p.rankOrder.filter (· ≠ c) ++ [c])
      ∧ (p.slots.length < 2 → ((p.askSlot c).motionOf c).phase = .driving ∨ ((p.askSlot c).motionOf c).phase = .coasting)
      ∧ (2 ≤ p.slots.length → p.askSlot c = p)
      ∧ p.preemptUnless true c = p ∧ p.preemptUnless false c = p.preempt c
      ∧ (p.slots.length < 2 ∨ mv.kind ≠ .relief ∨ ¬waiting c → p.preempt c = p)
      ∧ ((∀ x ∈ p.slots, p.classOf x.channel = 3) → p.preempt c = p)
      ∧ ∀ before h after held, p.slots = before ++ h :: after → 2 ≤ p.slots.length → mv.kind = .relief → waiting c →
          h.channel ≠ c → (p.motionOf h.channel).move = some held → p.classOf h.channel < 3 →
          (∀ x ∈ before, p.classOf h.channel ≤ p.classOf x.channel) → (∀ x ∈ after, p.classOf h.channel < p.classOf x.channel) →
          let t := p.preempt c
          (t.motionOf h.channel).phase = .coasting ∧ (∀ x ∈ t.slots, x.channel ≠ h.channel)
            ∧ (∃ kept, (t.motionOf h.channel).move = some kept ∧ kept.driveEnd = .workLeft ∧ kept.target = held.target
              ∧ kept.remaining = held.remaining)
            ∧ ((t.motionOf c).phase = .driving ∨ (t.motionOf c).phase = .coasting)

/-! ### Plug Relief (chapter 8) -/

/-- DRUM_WATCH_TIMER_EXPIRY and GIVE_UP_TIMER_EXPIRY: the watch timer starts again with the period of its state's threshold, or
stops where the state does not watch or the DRUM setpoint is 0, and the expiry is an overdue period: an ARMED relief becomes
SUSPECT, with the RELIEF mark and the confirm timer; in SUSPECT the confirm timer goes on; in OPEN_HELD without the failed mark the
recover timer stops; in RETURNING the confirm timer starts unless it runs; the other states take no notice. The give-up timer sets
the failed mark, stops both timers and raises RELIEF_FAILED. Nothing else changes (R17, R146, R148, R151, R152; the low 16 bits of
an rpm above 65535 are the model's choice, log 41). -/
def Obligations.TheWatchSuspectsAndReliefGivesUp : Prop :=
  (∀ (p : Part) (q : List Instr) (d : Nat), p.power = .on → p.override.watchAt = some d →
    let s := p.atTime d
    let k := p.store.activeCal.figures.speed.drum
    let t := (p.entryOf .drum).setpoint
    let relief := p.store.activePreset.relief
    let watch := fun percent : Nat =>
      if 0 < t then some (s.now + roundHalfUp 96000000000 (percent * t.toNat * k.teeth * k.ratio16)) else none
    let confirm := s.now + relief.confirmTime * 1000
    let becomes := fun o : Override => exec .drumWatchTimerExpiry ⟨p, q⟩ = .next ⟨{ s with override := o }, q⟩
    (p.override.relief = .armed → exec .drumWatchTimerExpiry ⟨p, q⟩ = .next ⟨{ s with
      override := { p.override with relief := .suspect, watchAt := watch relief.enterPercent, confirmAt := some confirm }
      window := { p.window with marks := { p.window.marks with relief := true } } }, q⟩)
    ∧ (p.override.relief = .suspect → becomes { p.override with watchAt := watch relief.enterPercent })
    ∧ (p.override.relief = .openHeld false →
        becomes { p.override with watchAt := watch relief.recoverPercent, recoverAt := none })
    ∧ (p.override.relief = .openHeld true → becomes { p.override with watchAt := watch relief.recoverPercent })
    ∧ (p.override.relief = .returning → p.override.confirmAt = none →
        becomes { p.override with watchAt := watch relief.enterPercent, confirmAt := some confirm })
    ∧ (p.override.relief = .returning → p.override.confirmAt ≠ none →
        becomes { p.override with watchAt := watch relief.enterPercent })
    ∧ (p.override.relief = .disarmed ∨ p.override.relief = .spinup ∨ p.override.relief = .opening →
        becomes { p.override with watchAt := none }))
  ∧ ∀ (p : Part) (q : List Instr) (d : Nat), p.power = .on → p.override.giveUpAt = some d →
      exec .giveUpTimerExpiry ⟨p, q⟩ = .next ⟨({ p.atTime d with
        override := { p.override with relief := .openHeld true, giveUpAt := none, recoverAt := none }
        window := { p.window with marks := { p.window.marks with relief := true } } } : Part).raise .reliefFailed (some .concave) 0
          (p.capture.speed.drum.rpm % 65536), q⟩

/-- CONFIRM_TIMER_EXPIRY in SUSPECT or RETURNING: Plug Relief is OPENING with its timers stopped, the RELIEF mark is set, a move in
flight on CONCAVE ends ABORTED, its list untouched, and a RELIEF move to the relief gap, held to the factory limits, or to the
position where that is wider, is in flight: it begins in COASTING on a concave that coasts or was driven, and elsewhere asks for a
slot, which it preempts where both are held, unless a release that falls together with its entry is taken first (R103, R140, R142);
with no count to go it ends COMPLETE at once and Plug Relief is OPEN_HELD (R150). The Feed Restrain is forced RESTRAINED with cause
RELIEF, which a RESTRAIN_NOTICE announces, and RELIEF_STARTED is queued (R17, R49, R52 to R54, R149). The low 16 bits of an rpm
above 65535 are the model's choice, log 41, and so is the operand that says which is taken first, log 45. -/
def Obligations.AConfirmedPlugOpensTheConcave : Prop :=
  ∀ (p : Part) (q : List Instr) (d : Nat) (first : Bool) (entry : Nat), p.power = .on → p.override.confirmAt = some d →
    (p.override.relief = .suspect ∧ entry = 1) ∨ (p.override.relief = .returning ∧ entry = 2) →
    let now := max p.now d
    let m := p.motionOf .concave
    let e := p.entryOf .concave
    let n := p.window.number
    let f := p.store.activeCal.figures.factory.concave
    let k := p.store.activePreset.relief
    let target := max (p.countsOf .concave (clamp f.min f.max k.gap)) m.position
    let rests := m.phase = .idle ∧ m.move = none
    let waits := m.phase = .waiting ∧ m.move.isSome = true ∧ m.standing = none
    let rolls := m.phase = .coasting ∨ (m.phase = .driving ∧ m.move.isSome = true)
    let hands := fun (t : Part) => ∃ mv, (t.motionOf .concave).move = some mv ∧ mv.kind = .relief ∧ mv.owner = .override
      ∧ mv.scheduling = .whole ∧ mv.target = some target ∧ mv.base = distance target m.position ∧ mv.tag = none
      ∧ (m.position < target → mv.direction = some .up) ∧ (mv.begunCoasting = true ↔ rolls)
    let ended := fun (t : Part) (last : Option LastOutcome) => t.entryOf .concave = { e with last := last }
    rests ∨ waits ∨ rolls →
    ∃ t : Part, exec (.confirmTimerExpiry first) ⟨p, q⟩ = .next ⟨t, q⟩ ∧ t.now = now ∧ t.window.marks.relief = true
      ∧ (t.motionOf .concave).position = m.position
      ∧ (rolls → hands t ∧ (t.motionOf .concave).phase = .coasting ∧ (∀ y ∈ t.slots, m.phase = .driving → y.channel ≠ .concave)
          ∧ (t.motionOf .concave).coastEndsAt =
              (if m.phase = .driving then some (now + p.coastTime .concave * 1000) else m.coastEndsAt))
      ∧ (rests ∨ waits → m.position < target → hands t ∧ t.servedOrWaits p .concave .relief first)
      ∧ (rolls ∨ m.position < target → t.override = { Override.reset with relief := .opening }
          ∧ (m.move = none → ended t e.last) ∧ (∀ mv, m.move = some mv → ended t (some ⟨.aborted, mv.owner, n⟩)))
      ∧ (rests ∨ waits → target = m.position → (t.motionOf .concave).phase = .idle ∧ (t.motionOf .concave).move = none
          ∧ ended t (some ⟨.complete, .override, n⟩) ∧ t.override.relief = .openHeld false
          ∧ t.override.giveUpAt = some (now + k.giveUpTime * 1000) ∧ t.override.confirmAt = none ∧ t.override.recoverAt = none)
      ∧ t.evaluator = { p.evaluator with restrain := .restrained .relief 0, sentReduction := t.evaluator.sentReduction }
      ∧ t.reduction = 1000
      ∧ (p.bus.queue.length < 20 → t.notified .reliefStarted (some .concave) entry (p.capture.speed.drum.rpm % 65536) n)
      ∧ (p.bus.queue.length < 20 → (∀ held, p.evaluator.restrain ≠ .restrained .relief held) →
          t.restrainSent ∧ t.evaluator.sentReduction = 1000)
      ∧ (∀ c, c ≠ .concave → t.entryOf c = p.entryOf c) ∧ t.store = p.store ∧ t.capture = p.capture ∧ t.lines = p.lines
      ∧ t.power = .on ∧ t.service = p.service ∧ t.window.number = n ∧ t.window.history = p.window.history

/-- RECOVER_TIMER_EXPIRY, the concave at rest away from its setpoint: Plug Relief is RETURNING, its other timers stopped, a RETURN
move to the CONCAVE setpoint is in flight, and the Feed Restrain is RESTRAINED with cause LOAD and held 0 (R50, R146, R152), which a
RESTRAIN_NOTICE announces with the preset reduction (R52 to R54). With the concave at its setpoint the RETURN ends COMPLETE at once,
Plug Relief is ARMED, and RELIEF_RECOVERED is queued (R152; the low 16 bits of an rpm above 65535 are the model's choice, log 41).
-/
def Obligations.ARecoveredDrumReturnsTheConcave : Prop :=
  ∀ (p : Part) (q : List Instr) (d : Nat), p.power = .on → p.override.recoverAt = some d →
    (p.motionOf .concave).phase = .idle → (p.motionOf .concave).move = none →
    let target := p.countsOf .concave (p.entryOf .concave).setpoint
    let away := target ≠ (p.motionOf .concave).position
    ∃ t : Part, exec .recoverTimerExpiry ⟨p, q⟩ = .next ⟨t, q⟩ ∧ t.now = max p.now d
      ∧ t.override.confirmAt = none ∧ t.override.recoverAt = none ∧ t.override.giveUpAt = none
      ∧ t.window.marks.relief = true
      ∧ (away ∨ (p.entryOf .concave).requests = [] → (t.override.watchAt.isSome = true ↔ 0 < (p.entryOf .drum).setpoint))
      ∧ (away → t.override.relief = .returning ∧ t.book = p.book
          ∧ (∃ mv, (t.motionOf .concave).move = some mv ∧ mv.kind = .returning ∧ mv.owner = .override ∧ mv.target = some target)
          ∧ t.drivesOrWaits .concave p.slots.length)
      ∧ (¬away → (p.entryOf .concave).requests = [] → t.override.relief = .armed ∧ (t.motionOf .concave).phase = .idle
          ∧ (t.motionOf .concave).move = none
          ∧ t.entryOf .concave = { p.entryOf .concave with last := some ⟨.complete, .override, p.window.number⟩ }
          ∧ (p.bus.queue.length < 20 → t.notified .reliefRecovered (some .concave) 0 (p.capture.speed.drum.rpm % 65536)
              p.window.number))
      ∧ t.evaluator.restrain = .restrained .load 0
      ∧ (p.override.relief.opens = true → p.bus.queue.length < 20 → (∃ held, p.evaluator.restrain = .restrained .relief held) →
          t.reduction = p.store.activePreset.restrain.reduction ∧ t.restrainSent ∧ t.evaluator.sentReduction = t.reduction)
      ∧ (∀ c, c ≠ .concave → t.entryOf c = p.entryOf c) ∧ t.store = p.store ∧ t.capture = p.capture ∧ t.lines = p.lines
      ∧ t.power = .on ∧ t.service = p.service ∧ t.window.number = p.window.number ∧ t.window.history = p.window.history

/-! ### The Preset Store (chapter 9) -/

/-- R158: a page that reads 0xFFFF in every word is EMPTY; otherwise VALID where its last word is the low 16 bits of the sum of the
other 255 words plus 0x5A5A, in page 0 with the lock word taken as 0xFFFF, and DAMAGED where it is not; so an erased page, whose
check would be 0x595B, is never VALID, and the lock word changes no VALID page 0. Start-up finds the states of all 18 pages by
reading them; the end of an operation sets its page's state to what it then reads. -/
def Obligations.PageStatesAreJudgedByTheCheckValue : Prop :=
  (∀ (page : Nat) (words : List Word), words.length = 256 →
    let summed := if page = 0 then words.set lockWordIndex 0xFFFF else words
    let check : Word := BitVec.ofNat 16 (((summed.take 255).map (·.toNat)).sum + 0x5A5A)
    ((∀ w ∈ words, w = 0xFFFF) → judgePage page words = .empty)
    ∧ (¬(∀ w ∈ words, w = 0xFFFF) → words.getD 255 0 = check → judgePage page words = .valid)
    ∧ (¬(∀ w ∈ words, w = 0xFFFF) → words.getD 255 0 ≠ check → judgePage page words = .damaged))
  ∧ (∀ (words : List Word) (w : Word), words.length = 256 → w ≠ 0xFFFF → judgePage 0 words = .valid →
      judgePage 0 (words.set lockWordIndex w) = .valid)
  ∧ checkValue 1 erasedWords = 0x595B
  ∧ (∀ (s : Part) (causes : ResetCauses) (page : Nat), page < 18 →
      (s.startState causes).pageState page = judgePage page (s.store.memory.page page))
  ∧ (∀ (s : Part) (page : Nat) (words : List Word), page < s.store.pageStates.length →
      (s.readBack page words).pageState page = judgePage page words)

/-- A page written reads the words written, little-endian, and every byte outside it reads as before; a page that does not exist
changes nothing (09 9.1). -/
def Obligations.APageWrittenLeavesTheOthers : Prop :=
  ∀ (m : Memory) (page : Nat) (words : List Word), m.wf →
    (∀ a : Nat, a < page * 512 ∨ (page + 1) * 512 ≤ a → (m.setPage page words).byte a = m.byte a)
    ∧ (page < 18 → ∀ i : Nat, i < 256 →
        (m.setPage page words).word page i = words.getD i 0xFFFF)
    ∧ (18 ≤ page → m.setPage page words = m)

/-- SAVE, ERASE, WIPE, SAVE_CAL and LOCK_CAL accepted: answered ACCEPTED, and the operation is in flight on its pages for its time,
with the words its pages are to read; nothing else changes (R159 to R162). -/
def Obligations.StoreRequestsBeginTheirOperations : Prop :=
  ∀ (p : Part) (q : List Instr) (dt : Nat) (h : FrameHeader) (source : Byte) (f : PresetFields),
    let now := p.now + dt
    let begun := fun (o : PresetOp) (op : StoreOp) => exec (presetCommand o dt h f) ⟨p, q⟩ =
      .next ⟨{ (p.later dt).answered source 0x03 f.tag .accepted 0xFF 0 with store := { p.store with op := some op } }, q⟩
    let free := p.receives h source 4 ∧ p.shutdown = none ∧ p.store.inhibit = false ∧ p.store.op = none
    (source = cabAddress ∨ source = serviceAddress → free → f.slot.toNat ≤ 15 →
        begun .save ⟨.save, [f.slot.toNat + 2], presetPage (f.slot.toNat + 2) p.store.pendingPreset, now, now + 60000⟩
        ∧ begun .erase ⟨.erase, [f.slot.toNat + 2], List.replicate 256 0xFFFF, now, now + 40000⟩)
    ∧ (source = serviceAddress → free → f.includeCalibration = 0 →
        begun .wipe ⟨.wipe, (List.range 17).map (· + 1), List.replicate 256 0xFFFF, now, now + 680000⟩)
    ∧ (source = serviceAddress → free → p.service = true → p.store.lockMark = false →
        (f.includeCalibration ≠ 0 →
          begun .wipe ⟨.wipe, (List.range 17).map (· + 1) ++ [0], List.replicate 256 0xFFFF, now, now + 720000⟩)
        ∧ begun .saveCal ⟨.saveCal, [0], calibrationPage p.store.pendingCal.figures, now, now + 60000⟩
        ∧ (p.pageState 0 = .valid →
            begun .lockCal ⟨.lockCal, [0], (p.store.memory.page 0).set lockWordIndex lockMarkWord, now, now + 20000⟩))

/-- LOAD of a slot whose page is VALID and holds a preset fills the pending set with it and marks it, and INHIBIT sets the inhibit
latch until a reset; both answered ACCEPTED, nothing else changed. LOAD is refused in the order SHUTTING_DOWN, INCONSISTENT for a
slot above 15, BUSY, EMPTY_SLOT, INCONSISTENT for contents that hold no preset; the writing requests, SAVE, ERASE, WIPE, SAVE_CAL
and LOCK_CAL, in the order SHUTTING_DOWN, INCONSISTENT for a slot above 15, NOT_PERMITTED for an operation on page 0 outside service
mode, INHIBITED once the latch is set, LOCKED for an operation on page 0 under the lock mark, INCONSISTENT for a LOCK_CAL without a
VALID page 0, BUSY; NOT_PERMITTED to the Cab Terminal for WIPE, SAVE_CAL and LOCK_CAL. No command but one that restarts the part
clears the latch (R160, R161, R171). -/
def Obligations.LoadFillsThePendingSetAndInhibitLatches : Prop :=
  (∀ (p : Part) (q : List Instr) (dt : Nat) (h : FrameHeader) (source : Byte) (f : PresetFields),
    source = cabAddress ∨ source = serviceAddress → p.receives h source 4 →
    let s := p.later dt
    let answer := fun r : Result => s.answered source 0x03 f.tag r 0xFF 0
    let refused := fun (o : PresetOp) (r : Result) => exec (presetCommand o dt h f) ⟨p, q⟩ = .next ⟨answer r, q⟩
    (∀ o, p.shutdown.isSome = true → source = serviceAddress ∨ o = .load ∨ o = .save ∨ o = .erase ∨ o = .inhibit →
        refused o .shuttingDown)
    ∧ (source = cabAddress → refused .wipe .notPermitted ∧ refused .saveCal .notPermitted ∧ refused .lockCal .notPermitted)
    ∧ (p.shutdown = none →
        (15 < f.slot.toNat → refused .load .inconsistent ∧ refused .save .inconsistent ∧ refused .erase .inconsistent)
        ∧ (f.slot.toNat ≤ 15 → p.store.inhibit = true → refused .save .inhibited ∧ refused .erase .inhibited)
        ∧ (source = serviceAddress → p.store.inhibit = true →
            (p.service = true ∨ f.includeCalibration = 0 → refused .wipe .inhibited)
            ∧ (p.service = true → refused .saveCal .inhibited ∧ refused .lockCal .inhibited))
        ∧ (source = serviceAddress → p.service = false → refused .saveCal .notPermitted ∧ refused .lockCal .notPermitted
            ∧ (f.includeCalibration ≠ 0 → refused .wipe .notPermitted))
        ∧ (source = serviceAddress → p.service = true → p.store.inhibit = false → p.store.lockMark = true →
            refused .saveCal .locked ∧ refused .lockCal .locked ∧ (f.includeCalibration ≠ 0 → refused .wipe .locked))
        ∧ (source = serviceAddress → p.service = true → p.store.inhibit = false → p.store.lockMark = false →
            (p.pageState 0 ≠ .valid → refused .lockCal .inconsistent)
            ∧ (p.store.op.isSome = true → refused .saveCal .busy ∧ (p.pageState 0 = .valid → refused .lockCal .busy)
                ∧ refused .wipe .busy))
        ∧ (p.store.inhibit = false → p.store.op.isSome = true →
            (f.slot.toNat ≤ 15 → refused .save .busy ∧ refused .erase .busy)
            ∧ (source = serviceAddress → f.includeCalibration = 0 → refused .wipe .busy))
        ∧ (f.slot.toNat ≤ 15 → p.store.op.isSome = true → refused .load .busy)
        ∧ (f.slot.toNat ≤ 15 → p.store.op = none → p.pageState (f.slot.toNat + 2) ≠ .valid → refused .load .emptySlot)
        ∧ (f.slot.toNat ≤ 15 → p.store.op = none → p.pageState (f.slot.toNat + 2) = .valid →
            readPreset (p.store.memory.page (f.slot.toNat + 2)) = none → refused .load .inconsistent)
        ∧ (∀ preset, f.slot.toNat ≤ 15 → p.store.op = none → p.pageState (f.slot.toNat + 2) = .valid →
            readPreset (p.store.memory.page (f.slot.toNat + 2)) = some preset →
            exec (.load dt h f) ⟨p, q⟩ = .next ⟨{ answer .accepted with
              store := { p.store with pendingPreset := preset, loadMark := some f.slot.toNat } }, q⟩)
        ∧ exec (.inhibit dt h f) ⟨p, q⟩ = .next ⟨{ answer .accepted with store := { p.store with inhibit := true } }, q⟩))
  ∧ (∀ (p t : Part) (q r : List Instr) (c : Instr), p.store.inhibit = true → exec c ⟨p, q⟩ = .next ⟨t, r⟩ →
      (∀ dt, c ≠ .powerOn dt ∧ c ≠ .keyReturns dt ∧ c ≠ .supplyDip dt) → (∀ back, c ≠ .positionWriteCompletes back) →
      c ≠ .deadlineTimerExpiry → t.store.inhibit = true)
  ∧ ∀ (p : Part) (q : List Instr) (dt : Nat), ∃ t : Part, exec (.powerOn dt) ⟨p, q⟩ = .next ⟨t, q⟩ ∧ t.store.inhibit = false

/-- The ends of SAVE, ERASE, SAVE_CAL, LOCK_CAL and the start-up's POSITION_ERASE: the page reads as the operation meant, or as the
completion says it reads, its state is judged, no operation is in flight, and STORE_DONE carries the operation's code, its page and
whether it is good; a good SAVE_CAL makes the pending calibration valid, a good LOCK_CAL sets the lock mark. Nothing else
changes (R159, R161, R162). -/
def Obligations.StoreOperationsEndWithStoreDone : Prop :=
  ∀ (p : Part) (q : List Instr) (op : StoreOp) (page : Nat) (back : ReadBack), p.power = .on → p.store.op = some op →
    op.pages = [page] → page < p.store.pageStates.length →
    let words := back.getD op.image
    let state := judgePage page words
    let s : Part := { p.atTime op.endsAt with store := { p.store with
      op := none, memory := p.store.memory.setPage page words, pageStates := p.store.pageStates.set page state } }
    let done := fun (code : Nat) (good : PageState) => s.raise .storeDone none code (page + 256 * (if state = good then 0 else 1))
    (op.kind = .save → exec (.saveCompletes back) ⟨p, q⟩ = .next ⟨done 2 .valid, q⟩)
    ∧ (op.kind = .erase → exec (.eraseCompletes back) ⟨p, q⟩ = .next ⟨done 3 .empty, q⟩)
    ∧ (op.kind = .positionErase → exec (.positionEraseCompletes back) ⟨p, q⟩ = .next ⟨done 9 .empty, q⟩)
    ∧ (op.kind = .saveCal → exec (.saveCalCompletes back) ⟨p, q⟩ = .next ⟨
        if state = .valid then { done 7 .valid with store := { s.store with
          pendingCal := { s.store.pendingCal with valid := true } } }
        else done 7 .valid, q⟩)
    ∧ (op.kind = .lockCal → exec (.lockCalCompletes back) ⟨p, q⟩ = .next ⟨
        if state = .valid then { done 5 .valid with store := { s.store with lockMark := true } } else done 5 .valid, q⟩)

/-- The end of a WIPE: every page of it reads erased, or as the completion says it reads, and is judged; every byte and state of the
other pages stays; no operation is in flight; one STORE_DONE carries code 4, page 0xFF and whether all its pages are EMPTY. Nothing
else changes (R159, R161). -/
def Obligations.AWipeEndsWithOneStoreDone : Prop :=
  ∀ (p : Part) (q : List Instr) (op : StoreOp) (back : List (Nat × List Word)), p.power = .on → p.store.op = some op →
    op.kind = .wipe → (∀ x ∈ op.pages, x < 18) → p.store.pageStates.length = 18 → p.store.memory.wf →
    let read := fun x : Nat => (back.lookup x).getD (List.replicate 256 0xFFFF)
    let bad : Nat := if ∀ x ∈ op.pages, judgePage x (read x) = .empty then 0 else 1
    ∃ (m : Memory) (states : List PageState),
      exec (.wipeCompletes back) ⟨p, q⟩ = .next ⟨({ p.atTime op.endsAt with store := { p.store with
        op := none, memory := m, pageStates := states } } : Part).raise .storeDone none 4 (255 + 256 * bad), q⟩
      ∧ (∀ x ∈ op.pages, states.getD x .damaged = judgePage x (read x)
          ∧ ∀ i : Nat, i < 256 → m.word x i = (read x).getD i 0xFFFF)
      ∧ (∀ x, x ∉ op.pages → states.getD x .damaged = p.store.pageStates.getD x .damaged)
      ∧ (∀ a : Nat, (∀ x ∈ op.pages, a < x * 512 ∨ (x + 1) * 512 ≤ a) → m.byte a = p.store.memory.byte a)

/-- PARAM_READ and PARAM_WRITE: SHUTTING_DOWN during a shutdown, then UNKNOWN for a number that is not defined, then for a WRITE of
a calibration number NOT_PERMITTED outside service mode and LOCKED under the lock mark. A READ is answered with the pending value; a
WRITE clamps the value to its range, refuses a choice outside its choices or an order the write would break with INCONSISTENT,
changes the pending set at once, and answers with the stored value (R163, R164). Nothing else changes, under the inhibit latch too.
The range that a WRITE of an envelope's end is clamped to, and so the value stored and answered, is the model's choice, log 11
(DEDUCED). The requests are the Service Tool's: those of the Cab Terminal are not spoken of. -/
def Obligations.ParamRequestsReadAndWriteThePendingSet : Prop :=
  ∀ (p : Part) (q : List Instr) (dt : Nat) (h : FrameHeader) (f : ParamFields), p.receives h serviceAddress 6 →
    let s := p.later dt
    let answer := fun (r : Result) (v : Word) => s.answered serviceAddress 0x04 f.tag r 0xFF v
    let read := fun t : Part => exec (.paramRead dt h f) ⟨p, q⟩ = .next ⟨t, q⟩
    let write := fun t : Part => exec (.paramWrite dt h f) ⟨p, q⟩ = .next ⟨t, q⟩
    (p.shutdown.isSome = true → read (answer .shuttingDown 0) ∧ write (answer .shuttingDown 0))
    ∧ (p.shutdown = none → Param.ofNumber f.number.toNat = none → read (answer .unknown 0) ∧ write (answer .unknown 0))
    ∧ (∀ a, p.shutdown = none → Param.ofNumber f.number.toNat = some a →
        read (answer .accepted (BitVec.ofInt 16 (p.pendingValue a))))
    ∧ (∀ a, p.shutdown = none → Param.ofNumber f.number.toNat = some (.cal a) →
        (p.service = false → write (answer .notPermitted 0))
        ∧ (p.service = true → p.store.lockMark = true → write (answer .locked 0))
        ∧ (p.service = true → p.store.lockMark = false →
            let v := a.range.read f.value
            let stored := clamp a.range.lo a.range.hi v
            let k := p.store.pendingCal.figures.put a stored
            (a.range.choice = true → stored ≠ v → write (answer .inconsistent 0))
            ∧ (k.ordered a = false → write (answer .inconsistent 0))
            ∧ (k.ordered a = true → stored = v →
                write { answer .accepted (BitVec.ofInt 16 stored) with
                  store := { p.store with pendingCal := { p.store.pendingCal with figures := k } } })
            ∧ (k.ordered a = true → a.range.choice = false → stored ≠ v →
                write { answer .acceptedClamped (BitVec.ofInt 16 stored) with
                  store := { p.store with pendingCal := { p.store.pendingCal with figures := k } } })))
    ∧ (∀ a, p.shutdown = none → Param.ofNumber f.number.toNat = some (.preset a) →
        p.store.pendingPreset.trimTable.length = 16 → p.store.pendingPreset.cropName.length = 6 →
        let v := a.range.read f.value
        let stored := clamp a.range.lo a.range.hi v
        let k := p.store.pendingPreset.put a stored
        (a.range.choice = true → stored ≠ v → write (answer .inconsistent 0))
        ∧ (k.ordered a = false → write (answer .inconsistent 0))
        ∧ (k.ordered a = true → stored = v →
            write { answer .accepted (BitVec.ofInt 16 stored) with store := { p.store with pendingPreset := k } })
        ∧ (k.ordered a = true → a.range.choice = false → stored ≠ v →
            write { answer .acceptedClamped (BitVec.ofInt 16 stored) with store := { p.store with pendingPreset := k } }))

/-! ### Shutdown, start-up and supply (chapter 9) -/

/-- KEY_FALLS, and RESTART from the Service Tool, which is answered ACCEPTED, outside a shutdown: the shutdown's deadline of 3000 ms
runs, every Request List is empty and no move is in flight, Plug Relief is DISARMED, and where it was OPENING or OPEN_HELD the Feed
Restrain is RESTRAINED with cause LOAD and held 0, which a RESTRAIN_NOTICE announces (R50, R53); KEY_FALLS in one whose deadline
runs, or a commanded one, moves the clock and the line alone, RESTART in any is refused SHUTTING_DOWN (R78, R167, R168, R170). -/
def Obligations.AShutdownDiscardsRequestsAndMoves : Prop :=
  ∀ (p : Part) (q : List Instr) (dt : Nat) (o : Order),
    let entered := fun (t : Part) (k : ShutdownKind) =>
      t.now = p.now + dt ∧ t.shutdown = some ⟨k, some (p.now + dt + 3000000)⟩
        ∧ (∀ c, (t.motionOf c).move = none ∧ (t.entryOf c).requests = []
            ∧ (t.entryOf c).setpoint = (p.entryOf c).setpoint ∧ (t.motionOf c).position = (p.motionOf c).position)
        ∧ (p.override.relief.opens = true → t.evaluator.restrain = .restrained .load 0
            ∧ ((∃ held, p.evaluator.restrain = .restrained .relief held) → p.bus.queue.length ≤ 4 →
                (∀ c, (p.entryOf c).requests.length ≤ 1) → (∀ c, (p.motionOf c).standing = none) → t.restrainSent))
        ∧ t.override = Override.reset ∧ t.power = .on ∧ t.phold = p.phold ∧ t.store = p.store ∧ t.capture = p.capture
        ∧ t.window.number = p.window.number ∧ t.window.history = p.window.history ∧ t.service = p.service
    (p.power = .on → p.shutdown = none →
      ∃ t : Part, exec (.keyFalls dt o) ⟨p, q⟩ = .next ⟨t, q⟩ ∧ entered t .keyOff ∧ t.lines = { p.lines with key := false })
    ∧ (∀ d e, p.power = .on → p.shutdown = some ⟨.commanded, d⟩ ∨ p.shutdown = some ⟨.keyOff, some e⟩ →
        exec (.keyFalls dt o) ⟨p, q⟩ = .next ⟨{ p.later dt with lines := { p.lines with key := false } }, q⟩)
    ∧ ∀ (h : FrameHeader) (tag : Byte), p.receives h serviceAddress 2 →
        (p.shutdown = none → ∃ t : Part, exec (.restart dt h tag o) ⟨p, q⟩ = .next ⟨t, q⟩ ∧ entered t .commanded
          ∧ t.lines = p.lines
          ∧ (p.bus.queue.length < 24 → p.replyFrame serviceAddress 0x05 tag .accepted 0xFF 0 ∈ t.bus.queue))
        ∧ (p.shutdown.isSome = true → exec (.restart dt h tag o) ⟨p, q⟩ =
            .next ⟨(p.later dt).answered serviceAddress 0x05 tag .shuttingDown 0xFF 0, q⟩)

/-- POSITION_WRITE_START in a shutdown with every channel at rest and no operation in flight starts the write of the position
record, 20 ms on an EMPTY page and 60 ms on another; POSITION_WRITE_COMPLETES in a key-off shutdown writes and judges the page,
raises STORE_DONE with code 8 and releases PHOLD while KEY is off; so does, without the write, DEADLINE_TIMER_EXPIRY, also at the
end of a commanded shutdown with KEY off (R159, R166 to R168, R170). KEY_RETURNS during the write stops the deadline; at the write's
completion the shutdown then ends as if cancelled, and the record's page is erased again (R168). A commanded shutdown with KEY on
ends, at the write's completion or at the deadline, in a start-up with cause COMMANDED (R169, R170). An operation in flight at that
deadline is lost as R159 has it for a power loss, which is the model's reading, log 36 (DEDUCED); which pages a WIPE has dealt with
by then is log 8 (DESIGN CHOICE). -/
def Obligations.ThePositionRecordIsWrittenBeforeRelease : Prop :=
  (∀ (p : Part) (q : List Instr), p.power = .on → p.shutdown.isSome = true → p.store.op = none →
    (∀ c, (p.motionOf c).phase = .idle ∨ ∃ cause, (p.motionOf c).phase = .faulted cause) →
    exec .positionWriteStart ⟨p, q⟩ = .next ⟨{ p with store := { p.store with
      op := some ⟨.positionWrite, [1], recordPage p.positionRecord, p.now,
        p.now + (if p.pageState 1 = .empty then 20000 else 60000)⟩ } }, q⟩)
  ∧ (∀ (p : Part) (q : List Instr) (op : StoreOp) (d : Option Nat) (k : ShutdownKind) (back : ReadBack), p.power = .on →
      p.store.op = some op → op.kind = .positionWrite → op.pages = [1] → p.store.pageStates.length = 18 →
      p.shutdown = some ⟨k, d⟩ →
      let words := back.getD op.image
      let state := judgePage 1 words
      let s : Part := { p.atTime op.endsAt with store := { p.store with
        op := none, memory := p.store.memory.setPage 1 words, pageStates := p.store.pageStates.set 1 state } }
      let done := s.raise .storeDone none 8 (if state = .valid then 1 else 257)
      (p.lines.key = false →
        exec (.positionWriteCompletes back) ⟨p, q⟩ = .next ⟨{ done with power := .released, phold := false }, q⟩)
      ∧ (p.lines.key = true → k = .keyOff → ∃ t : Part, exec (.positionWriteCompletes back) ⟨p, q⟩ = .next ⟨t, q⟩
          ∧ t.now = s.now ∧ t.shutdown = none ∧ t.power = .on ∧ t.phold = p.phold
          ∧ t.store = { s.store with op := some ⟨.positionErase, [1], List.replicate 256 0xFFFF, s.now, s.now + 40000⟩ }
          ∧ (p.override.relief = .disarmed → t.bus = done.bus)
          ∧ t.motion = p.motion ∧ t.slots = p.slots ∧ t.book = p.book ∧ t.capture = p.capture ∧ t.lines = p.lines
          ∧ t.window.number = p.window.number ∧ t.window.history = p.window.history)
      ∧ (p.lines.key = true → k = .commanded → ∃ t : Part, exec (.positionWriteCompletes back) ⟨p, q⟩ = .next ⟨t, q⟩
          ∧ t.restarted s.now { p.store.resetCauses with commanded := true } ∧ t.lines = p.lines
          ∧ t.store.memory = s.store.memory))
  ∧ (∀ (p : Part) (q : List Instr) (k : ShutdownKind) (d : Nat), p.power = .on → p.shutdown = some ⟨k, some d⟩ →
      (k = .keyOff ∨ p.lines.key = false →
        exec .deadlineTimerExpiry ⟨p, q⟩ = .next ⟨{ p.atTime d with power := .released, phold := false }, q⟩)
      ∧ (k = .commanded → p.lines.key = true → ∃ t : Part, exec .deadlineTimerExpiry ⟨p, q⟩ = .next ⟨t, q⟩
          ∧ t.restarted (max p.now d) { p.store.resetCauses with commanded := true } ∧ t.lines = p.lines
          ∧ p.cutShort (max p.now d) t.store.memory))
  ∧ ∀ (p : Part) (q : List Instr) (dt : Nat) (op : StoreOp) (d : Option Nat), p.power = .on → p.store.op = some op →
      op.kind = .positionWrite → p.shutdown = some ⟨.keyOff, d⟩ →
      exec (.keyReturns dt) ⟨p, q⟩ = .next ⟨{ p.later dt with
        lines := { p.lines with key := true }, shutdown := some ⟨.keyOff, none⟩ }, q⟩

/-- POWER_ON in any state, SUPPLY_DIP while there is a supply, KEY_RETURNS after the release, and CLEAR_CAUSES from the Service
Tool: a start-up leaves the part working with PHOLD asserted, window 1 in progress, no History, service mode, request or move, the
POSITION_ERASE in flight and START_UP first in the queue; the reset-cause record is POWER_ON alone after a power-on, gains
SUPPLY_DIP at a dip, and is cleared by CLEAR_CAUSES, which changes nothing else. An operation in flight at POWER_LOSS or SUPPLY_DIP
ends without STORE_DONE: the page concerned is DAMAGED or EMPTY, and every other byte, of the pages of a WIPE not yet reached too,
is as it was (R159); that a WIPE deals with a page in 40 ms, so that those done are EMPTY, is the model's choice, log 8, and that
POWER_ON and KEY_RETURNS do the same is logs 5 and 36. Start-up judges every page and reads back, as written, the calibration of
page 0 with its lock mark, the position record of page 1 and the preset of its slot, setpoints clamped to the envelopes and these to
the factory limits; without a VALID page it takes the default calibration, every channel FAULTED, no record, or the fallback preset
(R166, R169 steps 1 to 3; page layout: the model's choice, log 7). Without a VALID page 1 the setpoints are the initial setpoints,
which R169 does not clamp: that they are clamped to the envelopes, as R57 asks of every setpoint, is the model's choice, log 12.
POWER_LOSS stops the part. KEY_RETURNS without supply, in a commanded shutdown or in none changes the line alone; it cancels a
key-off shutdown while no POSITION_WRITE is in flight, and Plug Relief is judged again (R101, R145, R167 to R170). POWER_ON in any
supply state, SUPPLY_DIP after the release or without supply, and POWER_ON as the cause after KEY_RETURNS are the model's choices,
log 5, and so is that POWER_LOSS leaves the volatile fields, log 32. -/
def Obligations.StartUpAndSupply : Prop :=
  ∀ (p : Part) (q : List Instr) (dt : Nat),
    let readsBack := fun t : Part =>
      let page := t.store.memory.page
      let factory := t.store.activeCal.figures.factory
      let preset := t.store.activePreset
      let loaded := fun (slot : Option Nat) (k : Preset) =>
        t.store.activeSlot = slot ∧ preset = k.clampEnvelopes factory ∧ t.store.pendingPreset = preset
      (∀ n, n < 18 → t.pageState n = judgePage n (page n))
      ∧ (∀ k : Calibration, k.lawful →
        (page 0 = calibrationPage k → t.store.activeCal = ⟨k, true⟩ ∧ t.store.pendingCal = ⟨k, true⟩ ∧ t.store.lockMark = false)
        ∧ (page 0 = (calibrationPage k).set lockWordIndex lockMarkWord → t.store.activeCal = ⟨k, true⟩ ∧ t.store.lockMark = true))
      ∧ (judgePage 0 (page 0) ≠ .valid → t.store.activeCal = ⟨.default, false⟩ ∧ t.store.pendingCal = ⟨.default, false⟩
          ∧ t.store.lockMark = false ∧ ∀ c, (t.motionOf c).phase = .faulted .noCalibration)
      ∧ (∀ r : PositionRecord, r.lawful → page 1 = recordPage r →
          t.store.recordNumber = r.number
          ∧ (∀ x : PosChannel, (t.motionOf x.channel).position = r.position.get x
              ∧ (t.motionOf x.channel).referenced = (r.referenced.get x && t.store.activeCal.valid))
          ∧ (∀ c, (t.entryOf c).setpoint = t.clampToEnvelope c (r.setpoint.get c) ∧ (t.entryOf c).origin = r.origin.get c)
          ∧ (∀ n k, r.slot = some n → Preset.lawful k → page (n + 2) = presetPage (n + 2) k → loaded (some n) k)
          ∧ ((∀ n, r.slot = some n → judgePage (n + 2) (page (n + 2)) ≠ .valid) → loaded none (Preset.fallback factory)))
      ∧ (judgePage 1 (page 1) ≠ .valid → t.store.recordNumber = 0 ∧ loaded none (Preset.fallback factory)
          ∧ (∀ x : PosChannel, (t.motionOf x.channel).position = 0 ∧ (t.motionOf x.channel).referenced = false)
          ∧ ∀ c, (t.entryOf c).setpoint = t.clampToEnvelope c (preset.initialSetpoint.get c) ∧ (t.entryOf c).origin = .preset)
      ∧ ∀ c, (t.entryOf c).mode = preset.initialMode.get c
    let started := fun (t : Part) (causes : ResetCauses) => t.restarted (p.now + dt) causes
      ∧ p.cutShort (p.now + dt) t.store.memory ∧ readsBack t
      ∧ ∀ f ∈ t.bus.queue, ∀ c d8 d16 overrun window, f.body ≠ .event .storeDone c d8 d16 overrun window
    (∃ t : Part, exec (.powerOn dt) ⟨p, q⟩ = .next ⟨t, q⟩ ∧ started t ⟨true, false, false⟩ ∧ t.lines = p.lines
      ∧ (t.shutdown.isSome = true ↔ p.lines.key = false))
    ∧ (p.power ≠ .off → ∃ t : Part, exec (.supplyDip dt) ⟨p, q⟩ = .next ⟨t, q⟩
        ∧ started t { p.store.resetCauses with supplyDip := true } ∧ t.lines = p.lines)
    ∧ (p.power = .off → exec (.supplyDip dt) ⟨p, q⟩ = .next ⟨p.later dt, q⟩)
    ∧ (p.power = .released → ∃ t : Part, exec (.keyReturns dt) ⟨p, q⟩ = .next ⟨t, q⟩ ∧ started t ⟨true, false, false⟩
        ∧ t.lines = { p.lines with key := true } ∧ t.shutdown = none)
    ∧ (p.power = .off ∨ (p.power = .on ∧ ∀ d, p.shutdown ≠ some ⟨.keyOff, d⟩) →
        exec (.keyReturns dt) ⟨p, q⟩ = .next ⟨{ p.later dt with lines := { p.lines with key := true } }, q⟩)
    ∧ (∀ d, p.power = .on → p.shutdown = some ⟨.keyOff, d⟩ → (∀ op, p.store.op = some op → op.kind ≠ .positionWrite) →
        let watches := p.capture.engaged = true ∧ p.store.activePreset.relief.enable = true
          ∧ (p.motionOf .concave).referenced = true ∧ ∀ cause, (p.motionOf .concave).phase ≠ .faulted cause
        let cancelled : Part := { p.later dt with lines := { p.lines with key := true }, shutdown := none }
        let becomes := fun t : Part => exec (.keyReturns dt) ⟨p, q⟩ = .next ⟨t, q⟩
        (p.override.relief = .disarmed → watches → becomes { cancelled with
            override := { p.override with relief := .spinup } })
        ∧ (p.override.relief = .disarmed → ¬watches → becomes cancelled)
        ∧ (p.override.relief ≠ .disarmed → watches → becomes cancelled)
        ∧ (p.override.relief ≠ .disarmed → ¬watches → ∃ t, becomes t ∧ t.override = Override.reset ∧ t.shutdown = none
            ∧ t.lines = cancelled.lines ∧ t.motion = p.motion ∧ t.book = p.book ∧ t.store = p.store ∧ t.capture = p.capture))
    ∧ (∃ (m : Memory) (k : Nat), p.cutShort (p.now + dt) m ∧ (p.store.op = none → k = p.freeIndex)
        ∧ exec (.powerLoss dt) ⟨p, q⟩ = .next ⟨{ p.later dt with
            power := .off, phold := false, freeIndex := k, store := { p.store with op := none, memory := m } }, q⟩)
    ∧ ∀ (h : FrameHeader) (tag : Byte), p.receives h serviceAddress 2 → p.shutdown = none →
        exec (.clearCauses dt h tag) ⟨p, q⟩ = .next ⟨{ (p.later dt).answered serviceAddress 0x05 tag .accepted 0xFF 0 with
          store := { p.store with resetCauses := ⟨false, false, false⟩ } }, q⟩

/-! ### The machine bus (chapter 10) -/

/-- The transmit queue: a frame goes to the tail while there are fewer than 24; into a full queue a periodic frame is dropped, and a
notice takes the place of the oldest periodic frame that is not the head, or is dropped with the overrun mark set; nothing else of
the port changes, and no frame that is not periodic leaves (R176). -/
def Obligations.TheQueueDropsPeriodicFramesFirst : Prop :=
  ∀ (b : Bus) (f : Frame),
    (b.queue.length < 24 → b.push f = { b with queue := b.queue ++ [f] })
    ∧ (24 ≤ b.queue.length → f.body.periodic = true → b.push f = b)
    ∧ (24 ≤ b.queue.length → f.body.periodic = false →
        (∀ (head old : Frame) (before after : List Frame), b.queue = head :: (before ++ old :: after) →
          (∀ g ∈ before, g.body.periodic = false) → old.body.periodic = true →
          b.push f = { b with queue := head :: (before ++ after) ++ [f] })
        ∧ ((∀ g ∈ b.queue.drop 1, g.body.periodic = false) → b.push f = { b with overrun := true }))
    ∧ (∀ g ∈ b.queue, g.body.periodic = false → g ∈ (b.push f).queue)

/-- FRAME_TRANSMITTED takes the head from the queue, TRANSMISSION_FAILURE leaves it there, BUS_OFF starts the silence of 1000 ms, in
which nothing is sent, and BUS_OFF_SILENCE_EXPIRY ends it without the periodic frames of earlier windows. Nothing else changes
(R176, R177). That FRAME_TRANSMITTED in the silence has no effect is the model's reading, log 37, and that stamps are compared as
numbers, without regard to the wrap, log 38. -/
def Obligations.TransmissionFollowsTheBus : Prop :=
  ∀ (p : Part) (q : List Instr) (dt : Nat), p.power = .on →
    (p.bus.silentUntil = none → exec (.frameTransmitted dt) ⟨p, q⟩ =
      .next ⟨{ p.later dt with bus := { p.bus with queue := p.bus.queue.drop 1 } }, q⟩)
    ∧ (p.bus.silentUntil ≠ none → exec (.frameTransmitted dt) ⟨p, q⟩ = .next ⟨p.later dt, q⟩)
    ∧ exec (.transmissionFailure dt) ⟨p, q⟩ = .next ⟨p.later dt, q⟩
    ∧ exec (.busOff dt) ⟨p, q⟩ =
        .next ⟨{ p.later dt with bus := { p.bus with silentUntil := some (p.now + dt + 1000000) } }, q⟩
    ∧ (∀ d, p.bus.silentUntil = some d → ∃ left : List Frame, exec .busOffSilenceExpiry ⟨p, q⟩ =
        .next ⟨{ p.atTime d with bus := { p.bus with silentUntil := none, queue := left } }, q⟩
        ∧ left.Sublist p.bus.queue
        ∧ ∀ f ∈ p.bus.queue, (f ∈ left ↔ ∀ n, f.body.stamp = some n → p.window.number ≤ n))

/-- BOOK_QUERY from one of its four sources: refused SHUTTING_DOWN during a shutdown, otherwise answered by the six BOOK_STATUS
frames of channels 0 to 5 as they stand, queued in this order, without a REPLY; another source is answered NOT_PERMITTED. Nothing
else changes (R55, R171, R172). The tag 0 and the channel 0xFF of the REPLY to a refused query are the model's choice, log 15. -/
def Obligations.ABookQueryIsAnsweredBySixFrames : Prop :=
  ∀ (p : Part) (q : List Instr) (dt : Nat) (h : FrameHeader) (source : Byte), p.receives h source 0 →
    let allowed := source ∈ [cabAddress, propulsionAddress, qualityAddress, serviceAddress]
    let s := p.later dt
    let frame := fun c : Channel => (⟨p.store.activeCal.figures.nodeAddress, .bookStatus c (p.motionOf c).phase
      (p.motionOf c).referenced ((p.entryOf c).hold.map (·.holder)) (p.entryOf c).mode (p.entryOf c).origin
      ((p.entryOf c).last.map (·.outcome)) (p.entryOf c).setpoint (p.actualValue c) p.window.number⟩ : Frame)
    (¬allowed → exec (.bookQuery dt h) ⟨p, q⟩ = .next ⟨s.answered source 0x06 0 .notPermitted 0xFF 0, q⟩)
    ∧ (allowed → p.shutdown.isSome = true → exec (.bookQuery dt h) ⟨p, q⟩ =
        .next ⟨s.answered source 0x06 0 .shuttingDown 0xFF 0, q⟩)
    ∧ (allowed → p.shutdown = none → exec (.bookQuery dt h) ⟨p, q⟩ = .next ⟨{ s with bus :=
        ((((((p.bus.push (frame .drum)).push (frame .concave)).push (frame .upperSieve)).push (frame .lowerSieve)).push
          (frame .fan)).push (frame .louver)) }, q⟩)

/-- MOTION_STATUS from the Propulsion Controller, and GROUND_SPEED_FRESHNESS_EXPIRY: a speed is stored, at most 600, known, with its
freshness timer of 1000 ms running; at the expiry it is unknown. The harvesting condition is judged at once, its end setting the
NOT_HARVESTING mark and the fan pitch offset to 0; service mode ends at a speed that is not 0 or unknown: no SERVICE hold is left,
every move of SERVICE in flight ends ABORTED and so does every entry of SERVICE listed, every other move goes on, and SERVICE_ENDED
is raised with reason 1 or 2 (R9, R17, R81, R97, R174). -/
def Obligations.GroundSpeedGovernsHarvestingAndService : Prop :=
  ∀ (p : Part) (q : List Instr) (o : Order), p.power = .on →
    let judged := fun (t : Part) (service : Bool) =>
      t.harvesting = (p.capture.engaged && t.bus.speedKnown && p.store.activePreset.minHarvestSpeed ≤ t.bus.groundSpeed)
        ∧ (p.harvesting = true → t.harvesting = false → t.window.marks.notHarvesting = true ∧ t.fanOffset = 0)
        ∧ t.service = service ∧ t.capture = p.capture ∧ t.lines = p.lines ∧ t.power = .on ∧ t.shutdown = p.shutdown
        ∧ t.store = p.store ∧ t.window.number = p.window.number ∧ t.window.history = p.window.history
        ∧ (p.service = true → service = false →
            (∀ c k, (t.entryOf c).hold = some k → k.holder = .operator)
            ∧ (∀ c mv, (t.motionOf c).move = some mv → mv.owner ≠ .request .service)
            ∧ (∀ c, ∀ e ∈ (t.entryOf c).requests, e.requester ≠ .service)
            ∧ (∀ c mv, (p.motionOf c).move = some mv → mv.owner = .request .service → (p.entryOf c).requests = [] →
                (t.motionOf c).move = none ∧ (t.entryOf c).last = some ⟨.aborted, mv.owner, p.window.number⟩)
            ∧ (∀ c before e, (p.entryOf c).requests = before ++ [e] → (∀ x ∈ before ++ [e], x.requester = .service) →
                (p.motionOf c).standing = none →
                (t.entryOf c).requests = [] ∧ (t.entryOf c).last = some ⟨.aborted, .request .service, p.window.number⟩)
            ∧ (∀ c mv, (p.motionOf c).move = some mv → mv.owner ≠ .request .service →
                (p.motionOf c).phase ∈ [.waiting, .driving, .coasting] →
                ∃ mv', (t.motionOf c).move = some mv' ∧ mv'.owner = mv.owner ∧ mv'.kind = mv.kind ∧ mv'.target = mv.target
                  ∧ mv'.tag = mv.tag)
            ∧ (p.bus.queue.length ≤ 4 → (∀ c, (p.entryOf c).requests.length ≤ 1) →
                t.notified .serviceEnded none (if t.bus.speedKnown = true then 1 else 2) 0 p.window.number))
        ∧ (p.service = service → t.motion = p.motion ∧ t.slots = p.slots ∧ t.book = p.book
            ∧ t.bus = { p.bus with
              groundSpeed := t.bus.groundSpeed, speedKnown := t.bus.speedKnown, freshUntil := t.bus.freshUntil })
    (∀ (dt : Nat) (h : FrameHeader) (speed : Word), p.bus.silentUntil = none →
      h.source = propulsionAddress → propulsionAddress ≠ p.store.activeCal.figures.nodeAddress → 2 ≤ h.length →
      h.destination = p.store.activeCal.figures.nodeAddress ∨ h.destination = broadcastAddress →
      ∃ t : Part, exec (.motionStatus dt h speed o) ⟨p, q⟩ = .next ⟨t, q⟩ ∧ t.now = p.now + dt
        ∧ t.bus.groundSpeed = min 600 speed.toNat ∧ t.bus.speedKnown = true ∧ t.bus.freshUntil = some (p.now + dt + 1000000)
        ∧ judged t (p.service && speed.toNat = 0))
    ∧ (∀ d, p.bus.freshUntil = some d →
      ∃ t : Part, exec (.groundSpeedFreshnessExpiry o) ⟨p, q⟩ = .next ⟨t, q⟩ ∧ t.now = max p.now d
        ∧ t.bus.groundSpeed = p.bus.groundSpeed ∧ t.bus.speedKnown = false ∧ t.bus.freshUntil = none ∧ judged t false)

/-- The reception of frames. A request to another address or broadcast, one from the part's own address, and one in the silence
after a bus-off is ignored; one from a source that is not permitted is answered NOT_PERMITTED; a permitted one too short for its
fields is answered INCONSISTENT with tag 0, its tag byte being the last: so for every SETTING_REQUEST, MODE_REQUEST, PRESET_REQUEST,
PARAM_REQUEST and SERVICE_REQUEST, the Cab Terminal permitted as 10.1 says (R171 steps 1, 3 and 4, R177). A frame of an unlisted
kind addressed to the part, and, outside a shutdown and in the place its owner's checks give it, a request with an operation outside
its range, is answered UNKNOWN with nothing else changed; a broadcast frame of an unlisted kind, and one from the part's own
address, is ignored (R61, R65, R160, R163, R171). The tag 0 and the channel 0xFF of an unlisted kind, the tag 0 of a NOT_PERMITTED
to a frame too short for its tag, the channel 0xFF of a frame too short for its channel, and that a frame too short for the byte
that the test on its source reads passes that test, are the model's choices, log 15. -/
def Obligations.UnknownKindsAndOperationsAreAnsweredUnknown : Prop :=
  (∀ (p : Part) (q : List Instr) (c : Instr) (f : RequestFrame), requestFrame c = some f → p.power = .on →
    let h := f.header
    let s := p.later f.dt
    let answered := fun (tag : Byte) (r : Result) => exec c ⟨p, q⟩ =
      .next ⟨s.answered h.source f.kind tag r (if 0 < h.length then f.channel.getD 0xFF else 0xFF) 0, q⟩
    (¬p.hearsFrame h → exec c ⟨p, q⟩ = .next ⟨s, q⟩)
    ∧ (p.hearsFrame h → ¬f.permitted → answered (if f.bytes ≤ h.length then f.tag else 0) .notPermitted)
    ∧ (p.hearsFrame h → f.permitted → h.length < f.bytes → answered 0 .inconsistent))
  ∧ ∀ (p : Part) (q : List Instr) (dt : Nat) (h : FrameHeader) (source : Byte),
    let s := p.later dt
    (p.power = .on → ¬p.hearsFrame h → exec (.bookQuery dt h) ⟨p, q⟩ = .next ⟨s, q⟩) ∧
    (∀ kind : BitVec 10, kind ∉ listedKinds →
      (p.receives h source 0 → exec (.unknownKindFrame dt h kind) ⟨p, q⟩ =
        .next ⟨s.answered source (kind.setWidth 8) 0 .unknown 0xFF 0, q⟩)
      ∧ (p.power = .on → h.destination ≠ p.store.activeCal.figures.nodeAddress
          ∨ h.source = p.store.activeCal.figures.nodeAddress →
          exec (.unknownKindFrame dt h kind) ⟨p, q⟩ = .next ⟨s, q⟩))
    ∧ (source = cabAddress ∨ source = serviceAddress → p.receives h source 6 → p.shutdown = none →
      (∀ (op : Byte) (f : SettingFields), f.channel.toNat ≤ 5 → exec (.unknownOperation dt h (.setting op f)) ⟨p, q⟩ =
        .next ⟨s.answered source 0x01 f.tag .unknown f.channel 0, q⟩)
      ∧ (∀ (op : Byte) (f : ModeFields), f.channel.toNat ≤ 5 → exec (.unknownOperation dt h (.mode op f)) ⟨p, q⟩ =
        .next ⟨s.answered source 0x02 f.tag .unknown f.channel 0, q⟩)
      ∧ (∀ (op : Byte) (f : PresetFields), exec (.unknownOperation dt h (.preset op f)) ⟨p, q⟩ =
        .next ⟨s.answered source 0x03 f.tag .unknown 0xFF 0, q⟩)
      ∧ (∀ (op : Byte) (f : ParamFields), exec (.unknownOperation dt h (.param op f)) ⟨p, q⟩ =
        .next ⟨s.answered source 0x04 f.tag .unknown 0xFF 0, q⟩)
      ∧ (∀ op tag : Byte, exec (.unknownOperation dt h (.service op tag)) ⟨p, q⟩ =
        .next ⟨s.answered source 0x05 tag .unknown 0xFF 0, q⟩))

end
end

