-- ==== Sys2Proof/Laws/Memory.lean ====
section
/-! SUPPORT. The store's one operation keeps its canonical form, and what it reads afterwards (R158, R159). -/

namespace Sys2Proof.Machine

/-- A cell of a page's image lies in the page and is not erased. -/
theorem mem_pageCells {page : Nat} {words : List Word} {c : Host.Cell} (h : c ∈ pageCells page words) :
    page * pageBytes ≤ c.1 ∧ c.1 < (page + 1) * pageBytes ∧ c.2 ≠ erasedByte := by
  unfold pageCells at h
  simp only [List.mem_filter, List.mem_map, List.mem_range, decide_eq_true_eq, ne_eq] at h
  obtain ⟨⟨k, hk, rfl⟩, hne⟩ := h
  refine ⟨Nat.le_add_right _ _, ?_, by simpa using hne⟩
  show page * pageBytes + k < (page + 1) * pageBytes
  rw [Nat.add_mul, Nat.one_mul]
  exact Nat.add_lt_add_left hk _

/-- The cells of a page's image rise. -/
theorem pageCells_rising (page : Nat) (words : List Word) : (pageCells page words).Pairwise (fun a b => a.1 < b.1) := by
  unfold pageCells
  refine List.Pairwise.filter _ ?_
  rw [List.pairwise_map]
  refine List.Pairwise.imp ?_ List.pairwise_lt_range
  intro a b hab
  exact Nat.add_lt_add_left hab _

/-- The store stays in canonical form. -/
theorem Memory.wf_setPage {m : Memory} (h : m.wf) (page : Nat) (words : List Word) : (m.setPage page words).wf := by
  unfold Memory.setPage
  split
  case isFalse => exact h
  case isTrue hp =>
    obtain ⟨hrise, hcell⟩ := h
    constructor
    · rw [List.pairwise_append, List.pairwise_append]
      refine ⟨⟨hrise.filter _, pageCells_rising page words, ?_⟩, hrise.filter _, ?_⟩
      · intro a ha b hb
        have h1 := (List.mem_filter.1 ha).2
        have h2 := (mem_pageCells hb).1
        simp only [decide_eq_true_eq] at h1
        omega
      · intro a ha b hb
        have h2 := (List.mem_filter.1 hb).2
        simp only [decide_eq_true_eq] at h2
        rcases List.mem_append.1 ha with ha | ha
        · have h1 := (List.mem_filter.1 ha).2
          simp only [decide_eq_true_eq] at h1
          have : page * pageBytes ≤ (page + 1) * pageBytes := Nat.mul_le_mul_right _ (Nat.le_succ _)
          omega
        · have h1 := (mem_pageCells ha).2.1
          omega
    · intro c hc
      rcases List.mem_append.1 hc with hc | hc
      · rcases List.mem_append.1 hc with hc | hc
        · exact hcell c (List.mem_filter.1 hc).1
        · obtain ⟨-, h2, h3⟩ := mem_pageCells hc
          refine ⟨h3, Nat.lt_of_lt_of_le h2 ?_⟩
          exact Nat.mul_le_mul_right _ hp
      · exact hcell c (List.mem_filter.1 hc).1

/-- The erased store is in canonical form. -/
theorem Memory.wf_nil : Memory.wf [] := ⟨List.Pairwise.nil, by simp⟩

/-- Finding a cell in a list of cells that rise. -/
theorem Memory.byte_of_mem {m : Memory} (h : m.Pairwise (fun a b => a.1 < b.1)) {c : Host.Cell} (hc : c ∈ m) :
    m.byte c.1 = c.2 := by
  unfold Memory.byte
  induction m with
  | nil => simp at hc
  | cons d rest ih =>
    rw [List.pairwise_cons] at h
    rw [List.find?_cons]
    rcases List.mem_cons.1 hc with rfl | hc
    · simp
    · have := h.1 c hc
      have hne : decide (d.1 = c.1) = false := by simp only [decide_eq_false_iff_not]; omega
      rw [hne]
      exact ih h.2 hc

/-- An address that no cell has reads erased. -/
theorem Memory.byte_of_not_mem {m : Memory} {a : Nat} (h : ∀ c ∈ m, c.1 ≠ a) : m.byte a = erasedByte := by
  unfold Memory.byte
  rw [List.find?_eq_none.2]
  intro c hc
  simpa using h c hc

/-- Every byte outside the page reads as before. -/
theorem Memory.byte_setPage_of_outside {m : Memory} (h : m.wf) (page : Nat) (words : List Word) {a : Nat}
    (ha : a < page * pageBytes ∨ (page + 1) * pageBytes ≤ a) : (m.setPage page words).byte a = m.byte a := by
  have hwf := Memory.wf_setPage h page words
  by_cases hin : ∃ c ∈ m, c.1 = a
  · obtain ⟨c, hc, rfl⟩ := hin
    rw [Memory.byte_of_mem h.1 hc]
    refine Memory.byte_of_mem hwf.1 ?_
    unfold Memory.setPage
    split
    · simp only [List.mem_append, List.mem_filter, decide_eq_true_eq]
      rcases ha with ha | ha
      · exact Or.inl (Or.inl ⟨hc, ha⟩)
      · exact Or.inr ⟨hc, ha⟩
    · exact hc
  · rw [Memory.byte_of_not_mem, Memory.byte_of_not_mem]
    · exact fun c hc he => hin ⟨c, hc, he⟩
    · intro c hc he
      unfold Memory.setPage at hc
      split at hc
      · simp only [List.mem_append, List.mem_filter, decide_eq_true_eq] at hc
        rcases hc with (⟨hc, -⟩ | hc) | ⟨hc, -⟩
        · exact hin ⟨c, hc, he⟩
        · have := mem_pageCells hc
          omega
        · exact hin ⟨c, hc, he⟩
      · exact hin ⟨c, hc, he⟩

/-- Byte k of the page set reads byte k of the words. -/
theorem Memory.byte_setPage_inside {m : Memory} (h : m.wf) {page : Nat} (hp : page < pageCount) (words : List Word) {k : Nat}
    (hk : k < pageBytes) : (m.setPage page words).byte (page * pageBytes + k) = byteOfWords words k := by
  have hwf := Memory.wf_setPage h page words
  by_cases hb : byteOfWords words k = erasedByte
  · rw [hb]
    refine Memory.byte_of_not_mem ?_
    intro c hc he
    unfold Memory.setPage at hc
    rw [if_pos hp] at hc
    have hstep : (page + 1) * pageBytes = page * pageBytes + pageBytes := by rw [Nat.add_mul, Nat.one_mul]
    simp only [List.mem_append, List.mem_filter, decide_eq_true_eq] at hc
    rcases hc with (⟨-, hc⟩ | hc) | ⟨-, hc⟩
    · omega
    · unfold pageCells at hc
      simp only [List.mem_filter, List.mem_map, List.mem_range, decide_eq_true_eq, ne_eq] at hc
      obtain ⟨⟨j, hj, rfl⟩, hne⟩ := hc
      have : j = k := by simpa using he
      subst this
      simp [hb] at hne
    · omega
  · have hmem : (page * pageBytes + k, byteOfWords words k) ∈ m.setPage page words := by
      unfold Memory.setPage
      rw [if_pos hp]
      refine List.mem_append_left _ (List.mem_append_right _ ?_)
      unfold pageCells
      simp only [List.mem_filter, List.mem_map, List.mem_range, decide_eq_true_eq, ne_eq]
      exact ⟨⟨k, hk, rfl⟩, by simpa using hb⟩
    exact Memory.byte_of_mem hwf.1 hmem

/-- A filter that keeps every cell of an address leaves its byte. -/
theorem Memory.byte_filter {m : Memory} {q : Host.Cell → Bool} {a : Nat} (h : ∀ c : Host.Cell, c.1 = a → q c = true) :
    Memory.byte (m.filter q) a = m.byte a := by
  have e : (m.filter q).find? (fun c => c.1 = a) = m.find? (fun c => c.1 = a) := by
    induction m with
    | nil => rfl
    | cons c m ih =>
      by_cases hc : c.1 = a
      · simp [h c hc, hc]
      · by_cases hq : q c = true <;> simp [hq, hc, ih]
  simp only [Memory.byte, e]

/-- The words of a page are the words at its addresses. -/
theorem Memory.page_eq (m : Memory) (page : Nat) : m.page page = (List.range pageWords).map (m.word page) := by
  refine List.map_congr_left fun i hi => ?_
  have : i < 256 := List.mem_range.mp hi
  simp only [Memory.word]
  rw [Memory.byte_filter, Memory.byte_filter] <;>
  · intro c hc
    simp only [hc, pageBytes, Bool.and_eq_true, decide_eq_true_eq]
    omega

/-- The word of its two bytes. -/
theorem Word.ofBytes_low_high (w : Word) : Word.ofBytes w.low w.high = w := by
  refine BitVec.eq_of_getLsbD_eq fun i hi => ?_
  rw [Word.ofBytes, BitVec.getLsbD_append]
  by_cases h : i < 8
  · simp [Word.low, h]
  · have : i - 8 < 8 := by omega
    simp [Word.high, h, this, Nat.add_sub_cancel' (Nat.le_of_not_lt h)]

/-- A page reads the words it was set to. -/
theorem Memory.page_setPage {m : Memory} (h : m.wf) {page : Nat} (hp : page < pageCount) {words : List Word}
    (hl : words.length = pageWords) : (m.setPage page words).page page = words := by
  rw [Memory.page_eq]
  refine List.ext_getElem (by simp [hl]) fun i hi hj => ?_
  have hi' : i < 256 := by simpa [pageWords] using hi
  simp only [List.getElem_map, List.getElem_range, Memory.word]
  rw [Nat.add_assoc, Memory.byte_setPage_inside h hp words (by simp [pageBytes]; omega),
    Memory.byte_setPage_inside h hp words (by simp [pageBytes]; omega)]
  have h1 : (2 * i + 1) / 2 = i := by omega
  have h2 : (2 * i + 1) % 2 = 1 := by omega
  simp [byteOfWords, h1, h2, hj, Word.ofBytes_low_high]

/-- Another page reads as before. -/
theorem Memory.page_setPage_of_ne {m : Memory} (h : m.wf) {page other : Nat} (ne : other ≠ page) (words : List Word) :
    (m.setPage page words).page other = m.page other := by
  rw [Memory.page_eq, Memory.page_eq]
  refine List.map_congr_left fun i hi => ?_
  have : i < 256 := List.mem_range.mp hi
  simp only [Memory.word]
  rw [Memory.byte_setPage_of_outside h, Memory.byte_setPage_of_outside h] <;>
  · simp only [pageBytes]
    omega

theorem wf_erasePages (l : List Nat) : ∀ {m : Memory}, m.wf → (l.foldl (fun m p => Memory.setPage m p erasedWords) m).wf := by
  induction l with
  | nil => exact fun h => h
  | cons p rest ih => exact fun h => ih (Memory.wf_setPage h p _)

/-- Another page reads as before when pages are erased. -/
theorem page_erasePages_of_not_mem (l : List Nat) {page : Nat} : ∀ {m : Memory}, m.wf → page ∉ l →
    (l.foldl (fun m p => Memory.setPage m p erasedWords) m).page page = m.page page := by
  induction l with
  | nil => exact fun _ _ => rfl
  | cons p rest ih =>
    intro m h hn
    simp only [List.mem_cons, not_or] at hn
    exact (ih (Memory.wf_setPage h p _) hn.2).trans (Memory.page_setPage_of_ne h hn.1 _)

/-- An erased page reads erased. -/
theorem page_erasePages_of_mem (l : List Nat) {page : Nat} : ∀ {m : Memory}, m.wf → page < pageCount → page ∈ l →
    (l.foldl (fun m p => Memory.setPage m p erasedWords) m).page page = erasedWords := by
  induction l with
  | nil => exact fun _ _ hm => absurd hm List.not_mem_nil
  | cons p rest ih =>
    intro m h hp hm
    by_cases hr : page ∈ rest
    · exact ih (Memory.wf_setPage h p _) hp hr
    · have he : page = p := (List.mem_cons.mp hm).resolve_right hr
      subst he
      exact (page_erasePages_of_not_mem rest (Memory.wf_setPage h _ _) hr).trans
        (Memory.page_setPage h hp (by simp [erasedWords]))

/-- Every byte outside the pages erased reads as before. -/
theorem byte_erasePages_of_outside (l : List Nat) {a : Nat} : ∀ {m : Memory}, m.wf → (∀ x ∈ l, a / pageBytes ≠ x) →
    (l.foldl (fun m p => Memory.setPage m p erasedWords) m).byte a = m.byte a := by
  induction l with
  | nil => exact fun _ _ => rfl
  | cons p rest ih =>
    intro m h hn
    refine (ih (Memory.wf_setPage h p _) fun x hx => hn x (List.mem_cons_of_mem _ hx)).trans ?_
    refine Memory.byte_setPage_of_outside h _ _ ?_
    have := hn p List.mem_cons_self
    simp only [pageBytes] at this ⊢
    omega

/-! ### A torn page (R159) -/

theorem judgePage_erasedWords (page : Nat) : judgePage page erasedWords = .empty := by
  simp [judgePage, erasedWords]

theorem tornWords_length (page k : Nat) : (tornWords page k).length = pageWords := by
  unfold tornWords
  extract_lets words
  split
  · simp [erasedWords]
  · simp [words, erasedWords]

/-- A torn page is never VALID. -/
theorem judgePage_tornWords (page k : Nat) :
    judgePage page (tornWords page k) = .damaged ∨ judgePage page (tornWords page k) = .empty := by
  unfold tornWords
  extract_lets words
  split
  · exact Or.inr (judgePage_erasedWords page)
  · rename_i h
    cases e : judgePage page words
    · exact Or.inr rfl
    · exact absurd e h
    · exact Or.inl rfl

end Sys2Proof.Machine
end

