-- ==== Sys2Proof/Laws/Containers.lean ====
section
/-! SUPPORT. Reading and writing one member of a finite family (Machine/Containers.lean), and arranging a list. -/

namespace Sys2Proof.Machine

@[simp] theorem PerChannel.get_set_self {α : Type} (t : PerChannel α) (i : Channel) (v : α) : (t.set i v).get i = v := by
  cases i <;> rfl

theorem PerChannel.get_set_ne {α : Type} (t : PerChannel α) {i j : Channel} (v : α) (h : j ≠ i) : (t.set i v).get j = t.get j := by
  cases i <;> cases j <;> first | rfl | exact absurd rfl h

theorem PerChannel.get_set {α : Type} (t : PerChannel α) (i j : Channel) (v : α) : (t.set i v).get j = if j = i then v else t.get j := by
  cases i <;> cases j <;> rfl

@[simp] theorem PerChannel.get_build {α : Type} (g : Channel → α) (i : Channel) : (PerChannel.build g).get i = g i := by
  cases i <;> rfl

@[simp] theorem PerChannel.get_const {α : Type} (v : α) (i : Channel) : (PerChannel.const v).get i = v := by
  cases i <;> rfl

theorem PerChannel.ext_get {α : Type} {t u : PerChannel α} (h : ∀ i, t.get i = u.get i) : t = u := by
  cases t; cases u
  simp only [PerChannel.mk.injEq]
  refine ⟨h .drum, h .concave, h .upperSieve, h .lowerSieve, h .fan, h .louver⟩

@[simp] theorem PerPos.get_set_self {α : Type} (t : PerPos α) (i : PosChannel) (v : α) : (t.set i v).get i = v := by
  cases i <;> rfl

theorem PerPos.get_set_ne {α : Type} (t : PerPos α) {i j : PosChannel} (v : α) (h : j ≠ i) : (t.set i v).get j = t.get j := by
  cases i <;> cases j <;> first | rfl | exact absurd rfl h

theorem PerPos.get_set {α : Type} (t : PerPos α) (i j : PosChannel) (v : α) : (t.set i v).get j = if j = i then v else t.get j := by
  cases i <;> cases j <;> rfl

@[simp] theorem PerPos.get_build {α : Type} (g : PosChannel → α) (i : PosChannel) : (PerPos.build g).get i = g i := by
  cases i <;> rfl

@[simp] theorem PerPos.get_const {α : Type} (v : α) (i : PosChannel) : (PerPos.const v).get i = v := by
  cases i <;> rfl

theorem PerPos.ext_get {α : Type} {t u : PerPos α} (h : ∀ i, t.get i = u.get i) : t = u := by
  cases t; cases u
  simp only [PerPos.mk.injEq]
  refine ⟨h .concave, h .upperSieve, h .lowerSieve, h .louver⟩

@[simp] theorem PerSpeed.get_set_self {α : Type} (t : PerSpeed α) (i : SpeedChannel) (v : α) : (t.set i v).get i = v := by
  cases i <;> rfl

theorem PerSpeed.get_set_ne {α : Type} (t : PerSpeed α) {i j : SpeedChannel} (v : α) (h : j ≠ i) : (t.set i v).get j = t.get j := by
  cases i <;> cases j <;> first | rfl | exact absurd rfl h

theorem PerSpeed.get_set {α : Type} (t : PerSpeed α) (i j : SpeedChannel) (v : α) : (t.set i v).get j = if j = i then v else t.get j := by
  cases i <;> cases j <;> rfl

@[simp] theorem PerSpeed.get_build {α : Type} (g : SpeedChannel → α) (i : SpeedChannel) : (PerSpeed.build g).get i = g i := by
  cases i <;> rfl

@[simp] theorem PerSpeed.get_const {α : Type} (v : α) (i : SpeedChannel) : (PerSpeed.const v).get i = v := by
  cases i <;> rfl

theorem PerSpeed.ext_get {α : Type} {t u : PerSpeed α} (h : ∀ i, t.get i = u.get i) : t = u := by
  cases t; cases u
  simp only [PerSpeed.mk.injEq]
  refine ⟨h .drum, h .fan⟩

@[simp] theorem PerLoss.get_set_self {α : Type} (t : PerLoss α) (i : LossInput) (v : α) : (t.set i v).get i = v := by
  cases i <;> rfl

theorem PerLoss.get_set_ne {α : Type} (t : PerLoss α) {i j : LossInput} (v : α) (h : j ≠ i) : (t.set i v).get j = t.get j := by
  cases i <;> cases j <;> first | rfl | exact absurd rfl h

theorem PerLoss.get_set {α : Type} (t : PerLoss α) (i j : LossInput) (v : α) : (t.set i v).get j = if j = i then v else t.get j := by
  cases i <;> cases j <;> rfl

@[simp] theorem PerLoss.get_build {α : Type} (g : LossInput → α) (i : LossInput) : (PerLoss.build g).get i = g i := by
  cases i <;> rfl

@[simp] theorem PerLoss.get_const {α : Type} (v : α) (i : LossInput) : (PerLoss.const v).get i = v := by
  cases i <;> rfl

theorem PerLoss.ext_get {α : Type} {t u : PerLoss α} (h : ∀ i, t.get i = u.get i) : t = u := by
  cases t; cases u
  simp only [PerLoss.mk.injEq]
  refine ⟨h .left, h .right, h .walker⟩

@[simp] theorem PerPwm.get_set_self {α : Type} (t : PerPwm α) (i : PwmInput) (v : α) : (t.set i v).get i = v := by
  cases i <;> rfl

theorem PerPwm.get_set_ne {α : Type} (t : PerPwm α) {i j : PwmInput} (v : α) (h : j ≠ i) : (t.set i v).get j = t.get j := by
  cases i <;> cases j <;> first | rfl | exact absurd rfl h

theorem PerPwm.get_set {α : Type} (t : PerPwm α) (i j : PwmInput) (v : α) : (t.set i v).get j = if j = i then v else t.get j := by
  cases i <;> cases j <;> rfl

@[simp] theorem PerPwm.get_build {α : Type} (g : PwmInput → α) (i : PwmInput) : (PerPwm.build g).get i = g i := by
  cases i <;> rfl

@[simp] theorem PerPwm.get_const {α : Type} (v : α) (i : PwmInput) : (PerPwm.const v).get i = v := by
  cases i <;> rfl

theorem PerPwm.ext_get {α : Type} {t u : PerPwm α} (h : ∀ i, t.get i = u.get i) : t = u := by
  cases t; cases u
  simp only [PerPwm.mk.injEq]
  refine ⟨h .roll, h .pitch, h .feeder⟩

variable {α : Type}

@[simp] theorem PerSymptom.get_build (g : Symptom → α) (i : Symptom) : (PerSymptom.build g).get i = g i := by
  cases i <;> rfl

@[simp] theorem PerSymptom.get_const (v : α) (i : Symptom) : (PerSymptom.const v).get i = v := by
  cases i <;> rfl

@[simp] theorem PerSymptom.get_set_self (t : PerSymptom α) (i : Symptom) (v : α) : (t.set i v).get i = v := by
  cases i <;> rfl

theorem PerSymptom.get_set (t : PerSymptom α) (i j : Symptom) (v : α) :
    (t.set i v).get j = if j = i then v else t.get j := by
  cases i <;> cases j <;> rfl

theorem Channel.mem_all (c : Channel) : c ∈ Channel.all := by cases c <;> decide

/-- Every member of the full list is in an arrangement of it. -/
theorem mem_arrange {α : Type} [DecidableEq α] (preferred all : List α) (x : α) : x ∈ arrange preferred all ↔ x ∈ all := by
  unfold arrange
  simp only [List.mem_append, List.mem_filter, List.mem_dedup, Bool.not_eq_true', List.contains_eq_mem, decide_eq_false_iff_not,
    decide_eq_true_eq]
  tauto

/-- An arrangement of a list without repetitions has none. -/
theorem arrange_nodup {α : Type} [DecidableEq α] (preferred all : List α) (h : all.Nodup) : (arrange preferred all).Nodup := by
  unfold arrange
  refine List.Nodup.append (List.nodup_dedup _) (h.filter _) ?_
  intro x hx hy
  simp only [List.mem_filter, List.contains_eq_mem, Bool.not_eq_true', decide_eq_false_iff_not] at hx hy
  exact hy.2 hx

end Sys2Proof.Machine
end

