-- ==== Sys2Proof/Laws/State.lean ====
section
/-! SUPPORT. What each named update of the part leaves as it was, field by field, and what the two channel updates read. -/

namespace Sys2Proof.Machine

variable (s : Part)

/-! ### The state and its part -/

@[simp] theorem State.part_mk (p : Part) (q : List Instr) : (State.mk p q).part = p := rfl

@[simp] theorem State.pending_mk (p : Part) (q : List Instr) : (State.mk p q).pending = q := rfl

/-! ### One channel -/

@[simp] theorem modMotion_motion (c : Channel) (f : Motion → Motion) :
    (s.modMotion c f).motion = s.motion.set c (f (s.motion.get c)) := rfl

@[simp] theorem modBook_book (c : Channel) (f : BookEntry → BookEntry) :
    (s.modBook c f).book = s.book.set c (f (s.book.get c)) := rfl

@[simp] theorem setRestrain_restrain (r : Restrain) : (s.setRestrain r).evaluator.restrain = r := rfl

@[simp] theorem setRelief_relief (r : Relief) : (s.setRelief r).override.relief = r := by
  unfold Part.setRelief
  split <;> rfl

@[simp] theorem later_now (dt : Nat) : (s.later dt).now = s.now + dt := rfl

@[simp] theorem atTime_now (d : Nat) : (s.atTime d).now = max s.now d := rfl

@[simp] theorem startWindow_number (n : Nat) : (s.startWindow n).window.number = n := rfl

@[simp] theorem startWindow_history (n : Nat) : (s.startWindow n).window.history = s.window.history := rfl

@[simp] theorem append_history (r : WindowRecord) : (s.append r).window.history = appendRecord s.window.history r := by
  unfold Part.append; rfl

@[simp] theorem append_number (r : WindowRecord) : (s.append r).window.number = s.window.number := by
  unfold Part.append; rfl

/-! ### What each update leaves -/

@[simp] theorem modMotion_fields (c : Channel) (f : Motion → Motion) :
    (s.modMotion c f).now = s.now ∧
    (s.modMotion c f).power = s.power ∧
    (s.modMotion c f).lines = s.lines ∧
    (s.modMotion c f).phold = s.phold ∧
    (s.modMotion c f).shutdown = s.shutdown ∧
    (s.modMotion c f).harvesting = s.harvesting ∧
    (s.modMotion c f).capture = s.capture ∧
    (s.modMotion c f).window = s.window ∧
    (s.modMotion c f).evaluator = s.evaluator ∧
    (s.modMotion c f).book = s.book ∧
    (s.modMotion c f).fanTarget = s.fanTarget ∧
    (s.modMotion c f).service = s.service ∧
    (s.modMotion c f).settle = s.settle ∧
    (s.modMotion c f).louverTrim = s.louverTrim ∧
    (s.modMotion c f).fanOffset = s.fanOffset ∧
    (s.modMotion c f).slots = s.slots ∧
    (s.modMotion c f).rankOrder = s.rankOrder ∧
    (s.modMotion c f).override = s.override ∧
    (s.modMotion c f).store = s.store ∧
    (s.modMotion c f).bus = s.bus ∧
    (s.modMotion c f).freeIndex = s.freeIndex :=
  ⟨rfl, rfl, rfl, rfl, rfl, rfl, rfl, rfl, rfl, rfl, rfl, rfl, rfl, rfl, rfl, rfl, rfl, rfl, rfl, rfl, rfl⟩

@[simp] theorem modBook_fields (c : Channel) (f : BookEntry → BookEntry) :
    (s.modBook c f).now = s.now ∧
    (s.modBook c f).power = s.power ∧
    (s.modBook c f).lines = s.lines ∧
    (s.modBook c f).phold = s.phold ∧
    (s.modBook c f).shutdown = s.shutdown ∧
    (s.modBook c f).harvesting = s.harvesting ∧
    (s.modBook c f).capture = s.capture ∧
    (s.modBook c f).window = s.window ∧
    (s.modBook c f).evaluator = s.evaluator ∧
    (s.modBook c f).fanTarget = s.fanTarget ∧
    (s.modBook c f).service = s.service ∧
    (s.modBook c f).settle = s.settle ∧
    (s.modBook c f).louverTrim = s.louverTrim ∧
    (s.modBook c f).fanOffset = s.fanOffset ∧
    (s.modBook c f).motion = s.motion ∧
    (s.modBook c f).slots = s.slots ∧
    (s.modBook c f).rankOrder = s.rankOrder ∧
    (s.modBook c f).override = s.override ∧
    (s.modBook c f).store = s.store ∧
    (s.modBook c f).bus = s.bus ∧
    (s.modBook c f).freeIndex = s.freeIndex :=
  ⟨rfl, rfl, rfl, rfl, rfl, rfl, rfl, rfl, rfl, rfl, rfl, rfl, rfl, rfl, rfl, rfl, rfl, rfl, rfl, rfl, rfl⟩

@[simp] theorem send_fields (b : FrameBody) :
    (s.send b).now = s.now ∧
    (s.send b).power = s.power ∧
    (s.send b).lines = s.lines ∧
    (s.send b).phold = s.phold ∧
    (s.send b).shutdown = s.shutdown ∧
    (s.send b).harvesting = s.harvesting ∧
    (s.send b).capture = s.capture ∧
    (s.send b).window = s.window ∧
    (s.send b).evaluator = s.evaluator ∧
    (s.send b).book = s.book ∧
    (s.send b).fanTarget = s.fanTarget ∧
    (s.send b).service = s.service ∧
    (s.send b).settle = s.settle ∧
    (s.send b).louverTrim = s.louverTrim ∧
    (s.send b).fanOffset = s.fanOffset ∧
    (s.send b).motion = s.motion ∧
    (s.send b).slots = s.slots ∧
    (s.send b).rankOrder = s.rankOrder ∧
    (s.send b).override = s.override ∧
    (s.send b).store = s.store ∧
    (s.send b).freeIndex = s.freeIndex :=
  ⟨rfl, rfl, rfl, rfl, rfl, rfl, rfl, rfl, rfl, rfl, rfl, rfl, rfl, rfl, rfl, rfl, rfl, rfl, rfl, rfl, rfl⟩

@[simp] theorem raiseIn_fields (n : Nat) (e : Event) (c : Option Channel) (d8 d16 : Nat) :
    (s.raiseIn n e c d8 d16).now = s.now ∧
    (s.raiseIn n e c d8 d16).power = s.power ∧
    (s.raiseIn n e c d8 d16).lines = s.lines ∧
    (s.raiseIn n e c d8 d16).phold = s.phold ∧
    (s.raiseIn n e c d8 d16).shutdown = s.shutdown ∧
    (s.raiseIn n e c d8 d16).harvesting = s.harvesting ∧
    (s.raiseIn n e c d8 d16).capture = s.capture ∧
    (s.raiseIn n e c d8 d16).window = s.window ∧
    (s.raiseIn n e c d8 d16).evaluator = s.evaluator ∧
    (s.raiseIn n e c d8 d16).book = s.book ∧
    (s.raiseIn n e c d8 d16).fanTarget = s.fanTarget ∧
    (s.raiseIn n e c d8 d16).service = s.service ∧
    (s.raiseIn n e c d8 d16).settle = s.settle ∧
    (s.raiseIn n e c d8 d16).louverTrim = s.louverTrim ∧
    (s.raiseIn n e c d8 d16).fanOffset = s.fanOffset ∧
    (s.raiseIn n e c d8 d16).motion = s.motion ∧
    (s.raiseIn n e c d8 d16).slots = s.slots ∧
    (s.raiseIn n e c d8 d16).rankOrder = s.rankOrder ∧
    (s.raiseIn n e c d8 d16).override = s.override ∧
    (s.raiseIn n e c d8 d16).store = s.store ∧
    (s.raiseIn n e c d8 d16).freeIndex = s.freeIndex :=
  by
  unfold Part.raiseIn
  split <;> exact ⟨rfl, rfl, rfl, rfl, rfl, rfl, rfl, rfl, rfl, rfl, rfl, rfl, rfl, rfl, rfl, rfl, rfl, rfl, rfl, rfl, rfl⟩

@[simp] theorem raise_fields (e : Event) (c : Option Channel) (d8 d16 : Nat) :
    (s.raise e c d8 d16).now = s.now ∧
    (s.raise e c d8 d16).power = s.power ∧
    (s.raise e c d8 d16).lines = s.lines ∧
    (s.raise e c d8 d16).phold = s.phold ∧
    (s.raise e c d8 d16).shutdown = s.shutdown ∧
    (s.raise e c d8 d16).harvesting = s.harvesting ∧
    (s.raise e c d8 d16).capture = s.capture ∧
    (s.raise e c d8 d16).window = s.window ∧
    (s.raise e c d8 d16).evaluator = s.evaluator ∧
    (s.raise e c d8 d16).book = s.book ∧
    (s.raise e c d8 d16).fanTarget = s.fanTarget ∧
    (s.raise e c d8 d16).service = s.service ∧
    (s.raise e c d8 d16).settle = s.settle ∧
    (s.raise e c d8 d16).louverTrim = s.louverTrim ∧
    (s.raise e c d8 d16).fanOffset = s.fanOffset ∧
    (s.raise e c d8 d16).motion = s.motion ∧
    (s.raise e c d8 d16).slots = s.slots ∧
    (s.raise e c d8 d16).rankOrder = s.rankOrder ∧
    (s.raise e c d8 d16).override = s.override ∧
    (s.raise e c d8 d16).store = s.store ∧
    (s.raise e c d8 d16).freeIndex = s.freeIndex :=
  raiseIn_fields s s.window.number e c d8 d16

@[simp] theorem reply_fields (a : Asked) (r : Result) (v : Word) :
    (s.reply a r v).now = s.now ∧
    (s.reply a r v).power = s.power ∧
    (s.reply a r v).lines = s.lines ∧
    (s.reply a r v).phold = s.phold ∧
    (s.reply a r v).shutdown = s.shutdown ∧
    (s.reply a r v).harvesting = s.harvesting ∧
    (s.reply a r v).capture = s.capture ∧
    (s.reply a r v).window = s.window ∧
    (s.reply a r v).evaluator = s.evaluator ∧
    (s.reply a r v).book = s.book ∧
    (s.reply a r v).fanTarget = s.fanTarget ∧
    (s.reply a r v).service = s.service ∧
    (s.reply a r v).settle = s.settle ∧
    (s.reply a r v).louverTrim = s.louverTrim ∧
    (s.reply a r v).fanOffset = s.fanOffset ∧
    (s.reply a r v).motion = s.motion ∧
    (s.reply a r v).slots = s.slots ∧
    (s.reply a r v).rankOrder = s.rankOrder ∧
    (s.reply a r v).override = s.override ∧
    (s.reply a r v).store = s.store ∧
    (s.reply a r v).freeIndex = s.freeIndex :=
  ⟨rfl, rfl, rfl, rfl, rfl, rfl, rfl, rfl, rfl, rfl, rfl, rfl, rfl, rfl, rfl, rfl, rfl, rfl, rfl, rfl, rfl⟩

@[simp] theorem answered_fields (dest kind tag : Byte) (r : Result) (channel : Byte) (v : Word) :
    (s.answered dest kind tag r channel v).now = s.now ∧
    (s.answered dest kind tag r channel v).power = s.power ∧
    (s.answered dest kind tag r channel v).lines = s.lines ∧
    (s.answered dest kind tag r channel v).phold = s.phold ∧
    (s.answered dest kind tag r channel v).shutdown = s.shutdown ∧
    (s.answered dest kind tag r channel v).harvesting = s.harvesting ∧
    (s.answered dest kind tag r channel v).capture = s.capture ∧
    (s.answered dest kind tag r channel v).window = s.window ∧
    (s.answered dest kind tag r channel v).evaluator = s.evaluator ∧
    (s.answered dest kind tag r channel v).book = s.book ∧
    (s.answered dest kind tag r channel v).fanTarget = s.fanTarget ∧
    (s.answered dest kind tag r channel v).service = s.service ∧
    (s.answered dest kind tag r channel v).settle = s.settle ∧
    (s.answered dest kind tag r channel v).louverTrim = s.louverTrim ∧
    (s.answered dest kind tag r channel v).fanOffset = s.fanOffset ∧
    (s.answered dest kind tag r channel v).motion = s.motion ∧
    (s.answered dest kind tag r channel v).slots = s.slots ∧
    (s.answered dest kind tag r channel v).rankOrder = s.rankOrder ∧
    (s.answered dest kind tag r channel v).override = s.override ∧
    (s.answered dest kind tag r channel v).store = s.store ∧
    (s.answered dest kind tag r channel v).freeIndex = s.freeIndex :=
  ⟨rfl, rfl, rfl, rfl, rfl, rfl, rfl, rfl, rfl, rfl, rfl, rfl, rfl, rfl, rfl, rfl, rfl, rfl, rfl, rfl, rfl⟩

@[simp] theorem later_fields (dt : Nat) :
    (s.later dt).power = s.power ∧
    (s.later dt).lines = s.lines ∧
    (s.later dt).phold = s.phold ∧
    (s.later dt).shutdown = s.shutdown ∧
    (s.later dt).harvesting = s.harvesting ∧
    (s.later dt).capture = s.capture ∧
    (s.later dt).window = s.window ∧
    (s.later dt).evaluator = s.evaluator ∧
    (s.later dt).book = s.book ∧
    (s.later dt).fanTarget = s.fanTarget ∧
    (s.later dt).service = s.service ∧
    (s.later dt).settle = s.settle ∧
    (s.later dt).louverTrim = s.louverTrim ∧
    (s.later dt).fanOffset = s.fanOffset ∧
    (s.later dt).motion = s.motion ∧
    (s.later dt).slots = s.slots ∧
    (s.later dt).rankOrder = s.rankOrder ∧
    (s.later dt).override = s.override ∧
    (s.later dt).store = s.store ∧
    (s.later dt).bus = s.bus ∧
    (s.later dt).freeIndex = s.freeIndex :=
  ⟨rfl, rfl, rfl, rfl, rfl, rfl, rfl, rfl, rfl, rfl, rfl, rfl, rfl, rfl, rfl, rfl, rfl, rfl, rfl, rfl, rfl⟩

@[simp] theorem atTime_fields (d : Nat) :
    (s.atTime d).power = s.power ∧
    (s.atTime d).lines = s.lines ∧
    (s.atTime d).phold = s.phold ∧
    (s.atTime d).shutdown = s.shutdown ∧
    (s.atTime d).harvesting = s.harvesting ∧
    (s.atTime d).capture = s.capture ∧
    (s.atTime d).window = s.window ∧
    (s.atTime d).evaluator = s.evaluator ∧
    (s.atTime d).book = s.book ∧
    (s.atTime d).fanTarget = s.fanTarget ∧
    (s.atTime d).service = s.service ∧
    (s.atTime d).settle = s.settle ∧
    (s.atTime d).louverTrim = s.louverTrim ∧
    (s.atTime d).fanOffset = s.fanOffset ∧
    (s.atTime d).motion = s.motion ∧
    (s.atTime d).slots = s.slots ∧
    (s.atTime d).rankOrder = s.rankOrder ∧
    (s.atTime d).override = s.override ∧
    (s.atTime d).store = s.store ∧
    (s.atTime d).bus = s.bus ∧
    (s.atTime d).freeIndex = s.freeIndex :=
  ⟨rfl, rfl, rfl, rfl, rfl, rfl, rfl, rfl, rfl, rfl, rfl, rfl, rfl, rfl, rfl, rfl, rfl, rfl, rfl, rfl, rfl⟩

@[simp] theorem setRestrain_fields (r : Restrain) :
    (s.setRestrain r).now = s.now ∧
    (s.setRestrain r).power = s.power ∧
    (s.setRestrain r).lines = s.lines ∧
    (s.setRestrain r).phold = s.phold ∧
    (s.setRestrain r).shutdown = s.shutdown ∧
    (s.setRestrain r).harvesting = s.harvesting ∧
    (s.setRestrain r).capture = s.capture ∧
    (s.setRestrain r).window = s.window ∧
    (s.setRestrain r).book = s.book ∧
    (s.setRestrain r).fanTarget = s.fanTarget ∧
    (s.setRestrain r).service = s.service ∧
    (s.setRestrain r).settle = s.settle ∧
    (s.setRestrain r).louverTrim = s.louverTrim ∧
    (s.setRestrain r).fanOffset = s.fanOffset ∧
    (s.setRestrain r).motion = s.motion ∧
    (s.setRestrain r).slots = s.slots ∧
    (s.setRestrain r).rankOrder = s.rankOrder ∧
    (s.setRestrain r).override = s.override ∧
    (s.setRestrain r).store = s.store ∧
    (s.setRestrain r).bus = s.bus ∧
    (s.setRestrain r).freeIndex = s.freeIndex :=
  ⟨rfl, rfl, rfl, rfl, rfl, rfl, rfl, rfl, rfl, rfl, rfl, rfl, rfl, rfl, rfl, rfl, rfl, rfl, rfl, rfl, rfl⟩

@[simp] theorem sendRestrain_fields  :
    (s.sendRestrain).now = s.now ∧
    (s.sendRestrain).power = s.power ∧
    (s.sendRestrain).lines = s.lines ∧
    (s.sendRestrain).phold = s.phold ∧
    (s.sendRestrain).shutdown = s.shutdown ∧
    (s.sendRestrain).harvesting = s.harvesting ∧
    (s.sendRestrain).capture = s.capture ∧
    (s.sendRestrain).window = s.window ∧
    (s.sendRestrain).book = s.book ∧
    (s.sendRestrain).fanTarget = s.fanTarget ∧
    (s.sendRestrain).service = s.service ∧
    (s.sendRestrain).settle = s.settle ∧
    (s.sendRestrain).louverTrim = s.louverTrim ∧
    (s.sendRestrain).fanOffset = s.fanOffset ∧
    (s.sendRestrain).motion = s.motion ∧
    (s.sendRestrain).slots = s.slots ∧
    (s.sendRestrain).rankOrder = s.rankOrder ∧
    (s.sendRestrain).override = s.override ∧
    (s.sendRestrain).store = s.store ∧
    (s.sendRestrain).freeIndex = s.freeIndex :=
  ⟨rfl, rfl, rfl, rfl, rfl, rfl, rfl, rfl, rfl, rfl, rfl, rfl, rfl, rfl, rfl, rfl, rfl, rfl, rfl, rfl⟩

@[simp] theorem announceRestrain_fields (b : RestrainFace × Nat) :
    (s.announceRestrain b).now = s.now ∧
    (s.announceRestrain b).power = s.power ∧
    (s.announceRestrain b).lines = s.lines ∧
    (s.announceRestrain b).phold = s.phold ∧
    (s.announceRestrain b).shutdown = s.shutdown ∧
    (s.announceRestrain b).harvesting = s.harvesting ∧
    (s.announceRestrain b).capture = s.capture ∧
    (s.announceRestrain b).window = s.window ∧
    (s.announceRestrain b).book = s.book ∧
    (s.announceRestrain b).fanTarget = s.fanTarget ∧
    (s.announceRestrain b).service = s.service ∧
    (s.announceRestrain b).settle = s.settle ∧
    (s.announceRestrain b).louverTrim = s.louverTrim ∧
    (s.announceRestrain b).fanOffset = s.fanOffset ∧
    (s.announceRestrain b).motion = s.motion ∧
    (s.announceRestrain b).slots = s.slots ∧
    (s.announceRestrain b).rankOrder = s.rankOrder ∧
    (s.announceRestrain b).override = s.override ∧
    (s.announceRestrain b).store = s.store ∧
    (s.announceRestrain b).freeIndex = s.freeIndex :=
  by
  unfold Part.announceRestrain
  split <;> exact ⟨rfl, rfl, rfl, rfl, rfl, rfl, rfl, rfl, rfl, rfl, rfl, rfl, rfl, rfl, rfl, rfl, rfl, rfl, rfl, rfl⟩

@[simp] theorem setRelief_fields (r : Relief) :
    (s.setRelief r).now = s.now ∧
    (s.setRelief r).power = s.power ∧
    (s.setRelief r).lines = s.lines ∧
    (s.setRelief r).phold = s.phold ∧
    (s.setRelief r).shutdown = s.shutdown ∧
    (s.setRelief r).harvesting = s.harvesting ∧
    (s.setRelief r).capture = s.capture ∧
    (s.setRelief r).evaluator = s.evaluator ∧
    (s.setRelief r).book = s.book ∧
    (s.setRelief r).fanTarget = s.fanTarget ∧
    (s.setRelief r).service = s.service ∧
    (s.setRelief r).settle = s.settle ∧
    (s.setRelief r).louverTrim = s.louverTrim ∧
    (s.setRelief r).fanOffset = s.fanOffset ∧
    (s.setRelief r).motion = s.motion ∧
    (s.setRelief r).slots = s.slots ∧
    (s.setRelief r).rankOrder = s.rankOrder ∧
    (s.setRelief r).store = s.store ∧
    (s.setRelief r).bus = s.bus ∧
    (s.setRelief r).freeIndex = s.freeIndex :=
  by
  unfold Part.setRelief
  split <;> exact ⟨rfl, rfl, rfl, rfl, rfl, rfl, rfl, rfl, rfl, rfl, rfl, rfl, rfl, rfl, rfl, rfl, rfl, rfl, rfl, rfl⟩

@[simp] theorem startWatch_fields  :
    (s.startWatch).now = s.now ∧
    (s.startWatch).power = s.power ∧
    (s.startWatch).lines = s.lines ∧
    (s.startWatch).phold = s.phold ∧
    (s.startWatch).shutdown = s.shutdown ∧
    (s.startWatch).harvesting = s.harvesting ∧
    (s.startWatch).capture = s.capture ∧
    (s.startWatch).window = s.window ∧
    (s.startWatch).evaluator = s.evaluator ∧
    (s.startWatch).book = s.book ∧
    (s.startWatch).fanTarget = s.fanTarget ∧
    (s.startWatch).service = s.service ∧
    (s.startWatch).settle = s.settle ∧
    (s.startWatch).louverTrim = s.louverTrim ∧
    (s.startWatch).fanOffset = s.fanOffset ∧
    (s.startWatch).motion = s.motion ∧
    (s.startWatch).slots = s.slots ∧
    (s.startWatch).rankOrder = s.rankOrder ∧
    (s.startWatch).store = s.store ∧
    (s.startWatch).bus = s.bus ∧
    (s.startWatch).freeIndex = s.freeIndex :=
  ⟨rfl, rfl, rfl, rfl, rfl, rfl, rfl, rfl, rfl, rfl, rfl, rfl, rfl, rfl, rfl, rfl, rfl, rfl, rfl, rfl, rfl⟩

@[simp] theorem startConfirm_fields  :
    (s.startConfirm).now = s.now ∧
    (s.startConfirm).power = s.power ∧
    (s.startConfirm).lines = s.lines ∧
    (s.startConfirm).phold = s.phold ∧
    (s.startConfirm).shutdown = s.shutdown ∧
    (s.startConfirm).harvesting = s.harvesting ∧
    (s.startConfirm).capture = s.capture ∧
    (s.startConfirm).window = s.window ∧
    (s.startConfirm).evaluator = s.evaluator ∧
    (s.startConfirm).book = s.book ∧
    (s.startConfirm).fanTarget = s.fanTarget ∧
    (s.startConfirm).service = s.service ∧
    (s.startConfirm).settle = s.settle ∧
    (s.startConfirm).louverTrim = s.louverTrim ∧
    (s.startConfirm).fanOffset = s.fanOffset ∧
    (s.startConfirm).motion = s.motion ∧
    (s.startConfirm).slots = s.slots ∧
    (s.startConfirm).rankOrder = s.rankOrder ∧
    (s.startConfirm).store = s.store ∧
    (s.startConfirm).bus = s.bus ∧
    (s.startConfirm).freeIndex = s.freeIndex :=
  ⟨rfl, rfl, rfl, rfl, rfl, rfl, rfl, rfl, rfl, rfl, rfl, rfl, rfl, rfl, rfl, rfl, rfl, rfl, rfl, rfl, rfl⟩

@[simp] theorem stopConfirm_fields  :
    (s.stopConfirm).now = s.now ∧
    (s.stopConfirm).power = s.power ∧
    (s.stopConfirm).lines = s.lines ∧
    (s.stopConfirm).phold = s.phold ∧
    (s.stopConfirm).shutdown = s.shutdown ∧
    (s.stopConfirm).harvesting = s.harvesting ∧
    (s.stopConfirm).capture = s.capture ∧
    (s.stopConfirm).window = s.window ∧
    (s.stopConfirm).evaluator = s.evaluator ∧
    (s.stopConfirm).book = s.book ∧
    (s.stopConfirm).fanTarget = s.fanTarget ∧
    (s.stopConfirm).service = s.service ∧
    (s.stopConfirm).settle = s.settle ∧
    (s.stopConfirm).louverTrim = s.louverTrim ∧
    (s.stopConfirm).fanOffset = s.fanOffset ∧
    (s.stopConfirm).motion = s.motion ∧
    (s.stopConfirm).slots = s.slots ∧
    (s.stopConfirm).rankOrder = s.rankOrder ∧
    (s.stopConfirm).store = s.store ∧
    (s.stopConfirm).bus = s.bus ∧
    (s.stopConfirm).freeIndex = s.freeIndex :=
  ⟨rfl, rfl, rfl, rfl, rfl, rfl, rfl, rfl, rfl, rfl, rfl, rfl, rfl, rfl, rfl, rfl, rfl, rfl, rfl, rfl, rfl⟩

@[simp] theorem stopIdleWatch_fields  :
    (s.stopIdleWatch).now = s.now ∧
    (s.stopIdleWatch).power = s.power ∧
    (s.stopIdleWatch).lines = s.lines ∧
    (s.stopIdleWatch).phold = s.phold ∧
    (s.stopIdleWatch).shutdown = s.shutdown ∧
    (s.stopIdleWatch).harvesting = s.harvesting ∧
    (s.stopIdleWatch).capture = s.capture ∧
    (s.stopIdleWatch).window = s.window ∧
    (s.stopIdleWatch).evaluator = s.evaluator ∧
    (s.stopIdleWatch).book = s.book ∧
    (s.stopIdleWatch).fanTarget = s.fanTarget ∧
    (s.stopIdleWatch).service = s.service ∧
    (s.stopIdleWatch).settle = s.settle ∧
    (s.stopIdleWatch).louverTrim = s.louverTrim ∧
    (s.stopIdleWatch).fanOffset = s.fanOffset ∧
    (s.stopIdleWatch).motion = s.motion ∧
    (s.stopIdleWatch).slots = s.slots ∧
    (s.stopIdleWatch).rankOrder = s.rankOrder ∧
    (s.stopIdleWatch).store = s.store ∧
    (s.stopIdleWatch).bus = s.bus ∧
    (s.stopIdleWatch).freeIndex = s.freeIndex :=
  by
  unfold Part.stopIdleWatch
  split <;> exact ⟨rfl, rfl, rfl, rfl, rfl, rfl, rfl, rfl, rfl, rfl, rfl, rfl, rfl, rfl, rfl, rfl, rfl, rfl, rfl, rfl, rfl⟩

@[simp] theorem markShifted_fields (c : Channel) (m : Move) :
    (s.markShifted c m).now = s.now ∧
    (s.markShifted c m).power = s.power ∧
    (s.markShifted c m).lines = s.lines ∧
    (s.markShifted c m).phold = s.phold ∧
    (s.markShifted c m).shutdown = s.shutdown ∧
    (s.markShifted c m).harvesting = s.harvesting ∧
    (s.markShifted c m).capture = s.capture ∧
    (s.markShifted c m).evaluator = s.evaluator ∧
    (s.markShifted c m).book = s.book ∧
    (s.markShifted c m).fanTarget = s.fanTarget ∧
    (s.markShifted c m).service = s.service ∧
    (s.markShifted c m).settle = s.settle ∧
    (s.markShifted c m).louverTrim = s.louverTrim ∧
    (s.markShifted c m).fanOffset = s.fanOffset ∧
    (s.markShifted c m).motion = s.motion ∧
    (s.markShifted c m).slots = s.slots ∧
    (s.markShifted c m).rankOrder = s.rankOrder ∧
    (s.markShifted c m).override = s.override ∧
    (s.markShifted c m).store = s.store ∧
    (s.markShifted c m).bus = s.bus ∧
    (s.markShifted c m).freeIndex = s.freeIndex :=
  by
  unfold Part.markShifted
  split <;> exact ⟨rfl, rfl, rfl, rfl, rfl, rfl, rfl, rfl, rfl, rfl, rfl, rfl, rfl, rfl, rfl, rfl, rfl, rfl, rfl, rfl, rfl⟩

@[simp] theorem updateFanTarget_fields  :
    (s.updateFanTarget).now = s.now ∧
    (s.updateFanTarget).power = s.power ∧
    (s.updateFanTarget).lines = s.lines ∧
    (s.updateFanTarget).phold = s.phold ∧
    (s.updateFanTarget).shutdown = s.shutdown ∧
    (s.updateFanTarget).harvesting = s.harvesting ∧
    (s.updateFanTarget).capture = s.capture ∧
    (s.updateFanTarget).window = s.window ∧
    (s.updateFanTarget).evaluator = s.evaluator ∧
    (s.updateFanTarget).book = s.book ∧
    (s.updateFanTarget).service = s.service ∧
    (s.updateFanTarget).settle = s.settle ∧
    (s.updateFanTarget).louverTrim = s.louverTrim ∧
    (s.updateFanTarget).fanOffset = s.fanOffset ∧
    (s.updateFanTarget).motion = s.motion ∧
    (s.updateFanTarget).slots = s.slots ∧
    (s.updateFanTarget).rankOrder = s.rankOrder ∧
    (s.updateFanTarget).override = s.override ∧
    (s.updateFanTarget).store = s.store ∧
    (s.updateFanTarget).bus = s.bus ∧
    (s.updateFanTarget).freeIndex = s.freeIndex :=
  ⟨rfl, rfl, rfl, rfl, rfl, rfl, rfl, rfl, rfl, rfl, rfl, rfl, rfl, rfl, rfl, rfl, rfl, rfl, rfl, rfl, rfl⟩

@[simp] theorem setFanOffset_fields (v : Int) :
    (s.setFanOffset v).now = s.now ∧
    (s.setFanOffset v).power = s.power ∧
    (s.setFanOffset v).lines = s.lines ∧
    (s.setFanOffset v).phold = s.phold ∧
    (s.setFanOffset v).shutdown = s.shutdown ∧
    (s.setFanOffset v).harvesting = s.harvesting ∧
    (s.setFanOffset v).capture = s.capture ∧
    (s.setFanOffset v).window = s.window ∧
    (s.setFanOffset v).evaluator = s.evaluator ∧
    (s.setFanOffset v).book = s.book ∧
    (s.setFanOffset v).service = s.service ∧
    (s.setFanOffset v).settle = s.settle ∧
    (s.setFanOffset v).louverTrim = s.louverTrim ∧
    (s.setFanOffset v).motion = s.motion ∧
    (s.setFanOffset v).slots = s.slots ∧
    (s.setFanOffset v).rankOrder = s.rankOrder ∧
    (s.setFanOffset v).override = s.override ∧
    (s.setFanOffset v).store = s.store ∧
    (s.setFanOffset v).bus = s.bus ∧
    (s.setFanOffset v).freeIndex = s.freeIndex :=
  ⟨rfl, rfl, rfl, rfl, rfl, rfl, rfl, rfl, rfl, rfl, rfl, rfl, rfl, rfl, rfl, rfl, rfl, rfl, rfl, rfl⟩

@[simp] theorem setGate_fields  :
    (s.setGate).now = s.now ∧
    (s.setGate).power = s.power ∧
    (s.setGate).lines = s.lines ∧
    (s.setGate).phold = s.phold ∧
    (s.setGate).shutdown = s.shutdown ∧
    (s.setGate).harvesting = s.harvesting ∧
    (s.setGate).window = s.window ∧
    (s.setGate).evaluator = s.evaluator ∧
    (s.setGate).book = s.book ∧
    (s.setGate).fanTarget = s.fanTarget ∧
    (s.setGate).service = s.service ∧
    (s.setGate).settle = s.settle ∧
    (s.setGate).louverTrim = s.louverTrim ∧
    (s.setGate).fanOffset = s.fanOffset ∧
    (s.setGate).motion = s.motion ∧
    (s.setGate).slots = s.slots ∧
    (s.setGate).rankOrder = s.rankOrder ∧
    (s.setGate).override = s.override ∧
    (s.setGate).store = s.store ∧
    (s.setGate).bus = s.bus ∧
    (s.setGate).freeIndex = s.freeIndex :=
  ⟨rfl, rfl, rfl, rfl, rfl, rfl, rfl, rfl, rfl, rfl, rfl, rfl, rfl, rfl, rfl, rfl, rfl, rfl, rfl, rfl, rfl⟩

@[simp] theorem clearAccumulators_fields  :
    (s.clearAccumulators).now = s.now ∧
    (s.clearAccumulators).power = s.power ∧
    (s.clearAccumulators).lines = s.lines ∧
    (s.clearAccumulators).phold = s.phold ∧
    (s.clearAccumulators).shutdown = s.shutdown ∧
    (s.clearAccumulators).harvesting = s.harvesting ∧
    (s.clearAccumulators).window = s.window ∧
    (s.clearAccumulators).evaluator = s.evaluator ∧
    (s.clearAccumulators).book = s.book ∧
    (s.clearAccumulators).fanTarget = s.fanTarget ∧
    (s.clearAccumulators).service = s.service ∧
    (s.clearAccumulators).settle = s.settle ∧
    (s.clearAccumulators).louverTrim = s.louverTrim ∧
    (s.clearAccumulators).fanOffset = s.fanOffset ∧
    (s.clearAccumulators).motion = s.motion ∧
    (s.clearAccumulators).slots = s.slots ∧
    (s.clearAccumulators).rankOrder = s.rankOrder ∧
    (s.clearAccumulators).override = s.override ∧
    (s.clearAccumulators).store = s.store ∧
    (s.clearAccumulators).bus = s.bus ∧
    (s.clearAccumulators).freeIndex = s.freeIndex :=
  ⟨rfl, rfl, rfl, rfl, rfl, rfl, rfl, rfl, rfl, rfl, rfl, rfl, rfl, rfl, rfl, rfl, rfl, rfl, rfl, rfl, rfl⟩

@[simp] theorem advanceRuns_fields (l : Latched) (r : WindowRecord) :
    (s.advanceRuns l r).now = s.now ∧
    (s.advanceRuns l r).power = s.power ∧
    (s.advanceRuns l r).lines = s.lines ∧
    (s.advanceRuns l r).phold = s.phold ∧
    (s.advanceRuns l r).shutdown = s.shutdown ∧
    (s.advanceRuns l r).harvesting = s.harvesting ∧
    (s.advanceRuns l r).capture = s.capture ∧
    (s.advanceRuns l r).evaluator = s.evaluator ∧
    (s.advanceRuns l r).book = s.book ∧
    (s.advanceRuns l r).fanTarget = s.fanTarget ∧
    (s.advanceRuns l r).service = s.service ∧
    (s.advanceRuns l r).settle = s.settle ∧
    (s.advanceRuns l r).louverTrim = s.louverTrim ∧
    (s.advanceRuns l r).fanOffset = s.fanOffset ∧
    (s.advanceRuns l r).motion = s.motion ∧
    (s.advanceRuns l r).slots = s.slots ∧
    (s.advanceRuns l r).rankOrder = s.rankOrder ∧
    (s.advanceRuns l r).override = s.override ∧
    (s.advanceRuns l r).store = s.store ∧
    (s.advanceRuns l r).bus = s.bus :=
  ⟨rfl, rfl, rfl, rfl, rfl, rfl, rfl, rfl, rfl, rfl, rfl, rfl, rfl, rfl, rfl, rfl, rfl, rfl, rfl, rfl⟩

@[simp] theorem startWindow_fields (n : Nat) :
    (s.startWindow n).now = s.now ∧
    (s.startWindow n).power = s.power ∧
    (s.startWindow n).lines = s.lines ∧
    (s.startWindow n).phold = s.phold ∧
    (s.startWindow n).shutdown = s.shutdown ∧
    (s.startWindow n).harvesting = s.harvesting ∧
    (s.startWindow n).capture = s.capture ∧
    (s.startWindow n).evaluator = s.evaluator ∧
    (s.startWindow n).book = s.book ∧
    (s.startWindow n).fanTarget = s.fanTarget ∧
    (s.startWindow n).service = s.service ∧
    (s.startWindow n).settle = s.settle ∧
    (s.startWindow n).louverTrim = s.louverTrim ∧
    (s.startWindow n).fanOffset = s.fanOffset ∧
    (s.startWindow n).motion = s.motion ∧
    (s.startWindow n).slots = s.slots ∧
    (s.startWindow n).rankOrder = s.rankOrder ∧
    (s.startWindow n).override = s.override ∧
    (s.startWindow n).store = s.store ∧
    (s.startWindow n).bus = s.bus ∧
    (s.startWindow n).freeIndex = s.freeIndex :=
  ⟨rfl, rfl, rfl, rfl, rfl, rfl, rfl, rfl, rfl, rfl, rfl, rfl, rfl, rfl, rfl, rfl, rfl, rfl, rfl, rfl, rfl⟩

@[simp] theorem append_fields (r : WindowRecord) :
    (s.append r).now = s.now ∧
    (s.append r).power = s.power ∧
    (s.append r).lines = s.lines ∧
    (s.append r).phold = s.phold ∧
    (s.append r).shutdown = s.shutdown ∧
    (s.append r).harvesting = s.harvesting ∧
    (s.append r).capture = s.capture ∧
    (s.append r).evaluator = s.evaluator ∧
    (s.append r).book = s.book ∧
    (s.append r).fanTarget = s.fanTarget ∧
    (s.append r).service = s.service ∧
    (s.append r).settle = s.settle ∧
    (s.append r).louverTrim = s.louverTrim ∧
    (s.append r).fanOffset = s.fanOffset ∧
    (s.append r).motion = s.motion ∧
    (s.append r).slots = s.slots ∧
    (s.append r).rankOrder = s.rankOrder ∧
    (s.append r).override = s.override ∧
    (s.append r).store = s.store ∧
    (s.append r).bus = s.bus ∧
    (s.append r).freeIndex = s.freeIndex :=
  ⟨rfl, rfl, rfl, rfl, rfl, rfl, rfl, rfl, rfl, rfl, rfl, rfl, rfl, rfl, rfl, rfl, rfl, rfl, rfl, rfl, rfl⟩

@[simp] theorem copySets_fields  :
    (s.copySets).now = s.now ∧
    (s.copySets).power = s.power ∧
    (s.copySets).lines = s.lines ∧
    (s.copySets).phold = s.phold ∧
    (s.copySets).shutdown = s.shutdown ∧
    (s.copySets).harvesting = s.harvesting ∧
    (s.copySets).capture = s.capture ∧
    (s.copySets).window = s.window ∧
    (s.copySets).evaluator = s.evaluator ∧
    (s.copySets).book = s.book ∧
    (s.copySets).fanTarget = s.fanTarget ∧
    (s.copySets).service = s.service ∧
    (s.copySets).settle = s.settle ∧
    (s.copySets).louverTrim = s.louverTrim ∧
    (s.copySets).fanOffset = s.fanOffset ∧
    (s.copySets).motion = s.motion ∧
    (s.copySets).slots = s.slots ∧
    (s.copySets).rankOrder = s.rankOrder ∧
    (s.copySets).override = s.override ∧
    (s.copySets).bus = s.bus ∧
    (s.copySets).freeIndex = s.freeIndex :=
  ⟨rfl, rfl, rfl, rfl, rfl, rfl, rfl, rfl, rfl, rfl, rfl, rfl, rfl, rfl, rfl, rfl, rfl, rfl, rfl, rfl, rfl⟩

@[simp] theorem beginOp_fields (k : StoreKind) (p : List Nat) (i : List Word) (t : Nat) :
    (s.beginOp k p i t).now = s.now ∧
    (s.beginOp k p i t).power = s.power ∧
    (s.beginOp k p i t).lines = s.lines ∧
    (s.beginOp k p i t).phold = s.phold ∧
    (s.beginOp k p i t).shutdown = s.shutdown ∧
    (s.beginOp k p i t).harvesting = s.harvesting ∧
    (s.beginOp k p i t).capture = s.capture ∧
    (s.beginOp k p i t).window = s.window ∧
    (s.beginOp k p i t).evaluator = s.evaluator ∧
    (s.beginOp k p i t).book = s.book ∧
    (s.beginOp k p i t).fanTarget = s.fanTarget ∧
    (s.beginOp k p i t).service = s.service ∧
    (s.beginOp k p i t).settle = s.settle ∧
    (s.beginOp k p i t).louverTrim = s.louverTrim ∧
    (s.beginOp k p i t).fanOffset = s.fanOffset ∧
    (s.beginOp k p i t).motion = s.motion ∧
    (s.beginOp k p i t).slots = s.slots ∧
    (s.beginOp k p i t).rankOrder = s.rankOrder ∧
    (s.beginOp k p i t).override = s.override ∧
    (s.beginOp k p i t).bus = s.bus ∧
    (s.beginOp k p i t).freeIndex = s.freeIndex :=
  ⟨rfl, rfl, rfl, rfl, rfl, rfl, rfl, rfl, rfl, rfl, rfl, rfl, rfl, rfl, rfl, rfl, rfl, rfl, rfl, rfl, rfl⟩

@[simp] theorem readBack_fields (p : Nat) (w : List Word) :
    (s.readBack p w).now = s.now ∧
    (s.readBack p w).power = s.power ∧
    (s.readBack p w).lines = s.lines ∧
    (s.readBack p w).phold = s.phold ∧
    (s.readBack p w).shutdown = s.shutdown ∧
    (s.readBack p w).harvesting = s.harvesting ∧
    (s.readBack p w).capture = s.capture ∧
    (s.readBack p w).window = s.window ∧
    (s.readBack p w).evaluator = s.evaluator ∧
    (s.readBack p w).book = s.book ∧
    (s.readBack p w).fanTarget = s.fanTarget ∧
    (s.readBack p w).service = s.service ∧
    (s.readBack p w).settle = s.settle ∧
    (s.readBack p w).louverTrim = s.louverTrim ∧
    (s.readBack p w).fanOffset = s.fanOffset ∧
    (s.readBack p w).motion = s.motion ∧
    (s.readBack p w).slots = s.slots ∧
    (s.readBack p w).rankOrder = s.rankOrder ∧
    (s.readBack p w).override = s.override ∧
    (s.readBack p w).bus = s.bus ∧
    (s.readBack p w).freeIndex = s.freeIndex :=
  ⟨rfl, rfl, rfl, rfl, rfl, rfl, rfl, rfl, rfl, rfl, rfl, rfl, rfl, rfl, rfl, rfl, rfl, rfl, rfl, rfl, rfl⟩

@[simp] theorem loadPreset_fields (n : Nat) (p : Preset) :
    (s.loadPreset n p).now = s.now ∧
    (s.loadPreset n p).power = s.power ∧
    (s.loadPreset n p).lines = s.lines ∧
    (s.loadPreset n p).phold = s.phold ∧
    (s.loadPreset n p).shutdown = s.shutdown ∧
    (s.loadPreset n p).harvesting = s.harvesting ∧
    (s.loadPreset n p).capture = s.capture ∧
    (s.loadPreset n p).window = s.window ∧
    (s.loadPreset n p).evaluator = s.evaluator ∧
    (s.loadPreset n p).book = s.book ∧
    (s.loadPreset n p).fanTarget = s.fanTarget ∧
    (s.loadPreset n p).service = s.service ∧
    (s.loadPreset n p).settle = s.settle ∧
    (s.loadPreset n p).louverTrim = s.louverTrim ∧
    (s.loadPreset n p).fanOffset = s.fanOffset ∧
    (s.loadPreset n p).motion = s.motion ∧
    (s.loadPreset n p).slots = s.slots ∧
    (s.loadPreset n p).rankOrder = s.rankOrder ∧
    (s.loadPreset n p).override = s.override ∧
    (s.loadPreset n p).bus = s.bus ∧
    (s.loadPreset n p).freeIndex = s.freeIndex :=
  ⟨rfl, rfl, rfl, rfl, rfl, rfl, rfl, rfl, rfl, rfl, rfl, rfl, rfl, rfl, rfl, rfl, rfl, rfl, rfl, rfl, rfl⟩

@[simp] theorem release_fields  :
    (s.release).now = s.now ∧
    (s.release).lines = s.lines ∧
    (s.release).shutdown = s.shutdown ∧
    (s.release).harvesting = s.harvesting ∧
    (s.release).capture = s.capture ∧
    (s.release).window = s.window ∧
    (s.release).evaluator = s.evaluator ∧
    (s.release).book = s.book ∧
    (s.release).fanTarget = s.fanTarget ∧
    (s.release).service = s.service ∧
    (s.release).settle = s.settle ∧
    (s.release).louverTrim = s.louverTrim ∧
    (s.release).fanOffset = s.fanOffset ∧
    (s.release).motion = s.motion ∧
    (s.release).slots = s.slots ∧
    (s.release).rankOrder = s.rankOrder ∧
    (s.release).override = s.override ∧
    (s.release).store = s.store ∧
    (s.release).bus = s.bus ∧
    (s.release).freeIndex = s.freeIndex :=
  ⟨rfl, rfl, rfl, rfl, rfl, rfl, rfl, rfl, rfl, rfl, rfl, rfl, rfl, rfl, rfl, rfl, rfl, rfl, rfl, rfl⟩

end Sys2Proof.Machine
end

