-- ==== Sys2Proof/Laws/Params.lean ====
section
/-! SUPPORT. Reading and writing a parameter set by parameter: what a write leaves, and that every way a set comes about keeps the
ranges and orders of R164 and R82. -/

namespace Sys2Proof.Machine

/-! ### Clamping -/

theorem clamp_range {a b : Int} (h : a ≤ b) (x : Int) : a ≤ clamp a b x ∧ clamp a b x ≤ b := by
  unfold clamp
  split <;> (try split) <;> constructor <;> omega

theorem clamp_of_range {a b x : Int} (h : a ≤ x ∧ x ≤ b) : clamp a b x = x := by
  unfold clamp
  split <;> (try split) <;> omega

theorem clamp_mono {a b x y : Int} (h : a ≤ b) (hxy : x ≤ y) : clamp a b x ≤ clamp a b y := by
  unfold clamp
  split <;> split <;> (try split) <;> (try split) <;> omega

theorem accept_range {r : ParamRange} {v n : Int} (lo : r.lo ≤ r.hi) (h : r.accept v = some n) : r.lo ≤ n ∧ n ≤ r.hi := by
  unfold ParamRange.accept at h
  split at h
  · split at h
    · rename_i hv
      simp only [Option.some.injEq] at h
      subst h
      exact hv
    · simp at h
  · simp only [Option.some.injEq] at h
    subst h
    exact clamp_range lo v

theorem CalParam.range_ordered (p : CalParam) : p.range.lo ≤ p.range.hi := by
  cases p with
  | factoryMin c => cases c <;> decide
  | factoryMax c => cases c <;> decide
  | _ => simp [CalParam.range, ParamRange.clamped, ParamRange.choices]

theorem PresetParam.range_ordered (p : PresetParam) : p.range.lo ≤ p.range.hi := by
  cases p with
  | initialSetpoint c => cases c <;> decide
  | envelopeMin c => cases c <;> decide
  | envelopeMax c => cases c <;> decide
  | setThreshold k => cases k <;> decide
  | clearThreshold k => cases k <;> decide
  | trim i f => cases f <;> simp [PresetParam.range, ParamRange.clamped, ParamRange.choices]
  | _ => simp [PresetParam.range, ParamRange.clamped, ParamRange.choices]

/-! ### A parameter written and read -/

theorem EdgeSelection.code_ofCode {n : Int} (h : 0 ≤ n ∧ n ≤ 2) : (EdgeSelection.ofCode n).code = n := by
  unfold EdgeSelection.ofCode
  split
  · simp only [EdgeSelection.code]; omega
  · split <;> simp only [EdgeSelection.code] <;> omega

theorem Calibration.get_put_self (s : Calibration) (p : CalParam) {n : Int} (h : p.range.lo ≤ n ∧ n ≤ p.range.hi) :
    (s.put p n).get p = n := by
  cases p <;> simp only [CalParam.range, ParamRange.clamped, ParamRange.choices] at h <;>
    simp only [Calibration.put, Calibration.get, PerPos.get_set_self, PerSpeed.get_set_self, PerLoss.get_set_self,
      PerChannel.get_set_self, Direction.ofCode] <;> try omega
  · simp only [BitVec.toNat_ofInt]; omega
  · exact EdgeSelection.code_ofCode h
  · split <;> simp only [Direction.code] <;> omega
  · by_cases h0 : n = 0
    · simp [ofFlag, h0]
    · simp only [ofFlag]; simp; omega

theorem Calibration.get_put_ne (s : Calibration) {p q : CalParam} (n : Int) (h : q ≠ p) : (s.put p n).get q = s.get q := by
  cases p <;> cases q <;> first
    | rfl
    | exact absurd rfl h
    | (simp only [Calibration.put, Calibration.get, PerPos.get_set, PerSpeed.get_set, PerLoss.get_set, PerChannel.get_set]
       split <;> simp_all)

theorem Calibration.ordered_put (s : Calibration) {p q : CalParam} {n : Int} (written : (s.put p n).ordered p = true)
    (old : s.ordered q = true) : (s.put p n).ordered q = true := by
  cases p <;> cases q <;> first
    | exact written
    | exact old
    | (simp only [Calibration.put, Calibration.ordered, PerChannel.get_set] at *
       split <;> simp_all)

theorem Calibration.lawful_put {s : Calibration} (h : s.lawful) (p : CalParam) {n : Int}
    (range : p.range.lo ≤ n ∧ n ≤ p.range.hi) (order : (s.put p n).ordered p = true) : (s.put p n).lawful := by
  intro q hq
  obtain ⟨lo, hi, o⟩ := h q hq
  by_cases e : q = p
  · subst e
    rw [s.get_put_self q range]
    exact ⟨range.1, range.2, order⟩
  · rw [s.get_put_ne n e]
    exact ⟨lo, hi, s.ordered_put order o⟩

theorem Calibration.write_eq {s t : Calibration} {p : CalParam} {v : Int} (h : s.write p v = some t) :
    ∃ n, p.range.accept v = some n ∧ t = s.put p n ∧ t.ordered p = true := by
  unfold Calibration.write at h
  split at h
  · simp at h
  · rename_i n hn
    simp only [Option.ite_none_right_eq_some, Option.some.injEq] at h
    obtain ⟨o, rfl⟩ := h
    exact ⟨n, hn, rfl, o⟩

/-- A write that R164 admits keeps the calibration's ranges and orders. -/
theorem Calibration.write_lawful {s t : Calibration} (h : s.lawful) {p : CalParam} {v : Int} (w : s.write p v = some t) :
    t.lawful := by
  obtain ⟨n, hn, rfl, o⟩ := Calibration.write_eq w
  exact Calibration.lawful_put h p (accept_range p.range_ordered hn) o

theorem Calibration.write_factoryOrdered {s t : Calibration} (h : s.factoryOrdered) {p : CalParam} {v : Int}
    (w : s.write p v = some t) : t.factoryOrdered := by
  obtain ⟨n, hn, rfl, o⟩ := Calibration.write_eq w
  intro c
  have := @Calibration.ordered_put s p (.factoryMin c) n o (by simpa [Calibration.ordered] using h c)
  simpa [Calibration.ordered] using this

theorem CalParam.factoryMin_mem (c : Channel) : CalParam.factoryMin c ∈ CalParam.all := by cases c <;> decide

theorem CalParam.factoryMax_mem (c : Channel) : CalParam.factoryMax c ∈ CalParam.all := by cases c <;> decide

theorem Calibration.lawful.factoryOrdered {s : Calibration} (h : s.lawful) : s.factoryOrdered := fun c => by
  simpa [Calibration.ordered] using (h _ (CalParam.factoryMin_mem c)).2.2

/-! ### The preset set -/

theorem Symptom.ofCode_index {n : Int} (h : 0 ≤ n ∧ n ≤ 6) : ∃ k, Symptom.ofCode n.toNat = some k ∧ (k.index : Int) = n := by
  obtain ⟨m, rfl⟩ := Int.eq_ofNat_of_zero_le h.1
  have : m ≤ 6 := by omega
  simp only [Int.toNat_natCast]
  interval_cases m <;> exact ⟨_, rfl, rfl⟩

theorem Channel.ofCode_index {n : Int} (h : 0 ≤ n ∧ n ≤ 5) : ∃ k, Channel.ofCode n.toNat = some k ∧ (k.index : Int) = n := by
  obtain ⟨m, rfl⟩ := Int.eq_ofNat_of_zero_le h.1
  have : m ≤ 5 := by omega
  simp only [Int.toNat_natCast]
  interval_cases m <;> exact ⟨_, rfl, rfl⟩

theorem ofFlag_ne_zero {n : Int} (h : 0 ≤ n ∧ n ≤ 1) : ofFlag (decide (n ≠ 0)) = n := by
  by_cases h0 : n = 0
  · simp [ofFlag, h0]
  · simp only [ofFlag]; simp; omega

theorem TrimEntry.get_put_self (e : TrimEntry) (f : TrimField) {n : Int}
    (h : (PresetParam.trim 0 f).range.lo ≤ n ∧ n ≤ (PresetParam.trim 0 f).range.hi) : (e.put f n).get f = n := by
  cases f <;> simp only [PresetParam.range, ParamRange.clamped, ParamRange.choices] at h <;>
    simp only [TrimEntry.put, TrimEntry.get]
  · exact ofFlag_ne_zero h
  · obtain ⟨k, hk, hi⟩ := Symptom.ofCode_index h
    rw [hk]; exact hi
  · by_cases neg : n < 0
    · simp only [neg, if_true]; omega
    · obtain ⟨k, hk, hi⟩ := Symptom.ofCode_index (n := n) ⟨by omega, h.2⟩
      simp only [neg, if_false, hk]; exact hi
  · obtain ⟨k, hk, hi⟩ := Channel.ofCode_index (n := n) ⟨h.1, by omega⟩
    rw [hk]; exact hi

theorem TrimEntry.get_put_ne (e : TrimEntry) {f g : TrimField} (n : Int) (h : g ≠ f) : (e.put f n).get g = e.get g := by
  cases f <;> cases g <;> first | rfl | exact absurd rfl h

/-- The length of a Trim Table and of a crop name, which a written parameter's place needs. -/
def Preset.shaped (s : Preset) : Prop := s.trimTable.length = 16 ∧ s.cropName.length = 6

theorem Preset.shaped_put {s : Preset} (h : s.shaped) (p : PresetParam) (n : Int) : (s.put p n).shaped := by
  cases p <;> first | exact h | (simpa [Preset.shaped, Preset.put] using h)

theorem Preset.trimEntry_put (s : Preset) (i j : Nat) (f : TrimField) (n : Int) (hi : i < s.trimTable.length) :
    (s.put (.trim i f) n).trimEntry j = if i = j then (s.trimEntry i).put f n else s.trimEntry j := by
  simp only [Preset.put, Preset.trimEntry, List.getD_eq_getElem?_getD, List.getElem?_set]
  split
  · subst_vars; simp [hi]
  · rfl

theorem PresetParam.trim_mem {i : Nat} {f : TrimField} (h : PresetParam.trim i f ∈ PresetParam.all) : i < 16 := by
  simp only [PresetParam.all, List.mem_append, List.mem_flatMap, List.mem_map, List.mem_cons, List.mem_range, List.not_mem_nil] at h
  aesop

theorem PresetParam.cropName_mem {i : Nat} (h : PresetParam.cropName i ∈ PresetParam.all) : i < 6 := by
  simp only [PresetParam.all, List.mem_append, List.mem_flatMap, List.mem_map, List.mem_cons, List.mem_range, List.not_mem_nil] at h
  aesop


theorem Mode.code_ofCode {n : Int} (h : 0 ≤ n ∧ n ≤ 1) : (Mode.ofCode n).code = n := by
  unfold Mode.ofCode
  split <;> simp only [Mode.code] <;> omega

theorem ArbiterMode.code_ofCode {n : Int} (h : 0 ≤ n ∧ n ≤ 1) : (ArbiterMode.ofCode n).code = n := by
  unfold ArbiterMode.ofCode
  split <;> simp only [ArbiterMode.code] <;> omega

theorem Preset.get_put_self {s : Preset} (shape : s.shaped) {p : PresetParam} (mem : p ∈ PresetParam.all) {n : Int}
    (h : p.range.lo ≤ n ∧ n ≤ p.range.hi) : (s.put p n).get p = n := by
  cases p
  case cropName i =>
    have := PresetParam.cropName_mem mem
    simp only [PresetParam.range, ParamRange.clamped] at h
    simp [Preset.put, Preset.get, shape.2, this]
    omega
  case trim i f =>
    have := PresetParam.trim_mem mem
    simp only [Preset.get, s.trimEntry_put i i f n (by rw [shape.1]; exact this), if_true]
    exact TrimEntry.get_put_self _ f (by cases f <;> exact h)
  all_goals simp only [PresetParam.range, ParamRange.clamped, ParamRange.choices] at h <;>
    simp only [Preset.put, Preset.get, PerSpeed.get_set_self, PerSymptom.get_set_self, PerChannel.get_set_self]
  all_goals try omega
  · simp only [BitVec.toNat_ofInt]; omega
  · exact Mode.code_ofCode h
  · exact ofFlag_ne_zero h
  · exact ArbiterMode.code_ofCode h

theorem Preset.get_put_ne {s : Preset} (shape : s.shaped) {p q : PresetParam} (mem : p ∈ PresetParam.all) (n : Int) (h : q ≠ p) :
    (s.put p n).get q = s.get q := by
  cases p
  case cropName i =>
    cases q <;> try rfl
    case cropName j =>
      have : i ≠ j := fun e => h (by rw [e])
      simp [Preset.put, Preset.get, List.getD_eq_getElem?_getD, this]
  case trim i f =>
    cases q <;> try rfl
    case trim j g =>
      have hi := PresetParam.trim_mem mem
      simp only [Preset.get, s.trimEntry_put i j f n (by rw [shape.1]; exact hi)]
      split
      · subst_vars
        exact TrimEntry.get_put_ne _ n fun e => h (by rw [e])
      · rfl
  all_goals cases q <;> first
    | rfl
    | exact absurd rfl h
    | (simp only [Preset.put, Preset.get, PerSpeed.get_set, PerSymptom.get_set, PerChannel.get_set]
       split <;> simp_all)

theorem Preset.ordered_put {s : Preset} (shape : s.shaped) {p q : PresetParam} (mem : p ∈ PresetParam.all) {n : Int}
    (written : (s.put p n).ordered p = true) (old : s.ordered q = true) : (s.put p n).ordered q = true := by
  cases p
  case trim i f =>
    cases q <;> try exact old
    case trim j g =>
      have hi := PresetParam.trim_mem mem
      simp only [Preset.ordered, s.trimEntry_put i j f n (by rw [shape.1]; exact hi)]
      split
      · subst_vars
        simpa only [Preset.ordered, s.trimEntry_put _ _ f n (by rw [shape.1]; exact hi), if_true] using written
      · exact old
  all_goals cases q <;> first
    | exact written
    | exact old
    | (simp only [Preset.put, Preset.ordered, PerSymptom.get_set, PerChannel.get_set] at *
       split <;> simp_all)

theorem Preset.lawful_put {s : Preset} (h : s.lawful) {p : PresetParam} (mem : p ∈ PresetParam.all) {n : Int}
    (range : p.range.lo ≤ n ∧ n ≤ p.range.hi) (order : (s.put p n).ordered p = true) : (s.put p n).lawful := by
  have shape : s.shaped := ⟨h.1, h.2.1⟩
  have shaped := Preset.shaped_put shape p n
  refine ⟨shaped.1, shaped.2, fun q hq => ?_⟩
  obtain ⟨lo, hi, o⟩ := h.2.2 q hq
  by_cases e : q = p
  · subst e
    rw [Preset.get_put_self shape mem range]
    exact ⟨range.1, range.2, order⟩
  · rw [Preset.get_put_ne shape mem n e]
    exact ⟨lo, hi, Preset.ordered_put shape mem order o⟩

theorem Preset.write_eq {s t : Preset} {p : PresetParam} {v : Int} (h : s.write p v = some t) :
    ∃ n, p.range.accept v = some n ∧ t = s.put p n ∧ t.ordered p = true := by
  unfold Preset.write at h
  split at h
  · simp at h
  · rename_i n hn
    simp only [Option.ite_none_right_eq_some, Option.some.injEq] at h
    obtain ⟨o, rfl⟩ := h
    exact ⟨n, hn, rfl, o⟩

/-- A write that R164 and R82 allow keeps the set's ranges and orders. -/
theorem Preset.write_lawful {s t : Preset} (h : s.lawful) {p : PresetParam} (mem : p ∈ PresetParam.all) {v : Int}
    (w : s.write p v = some t) : t.lawful := by
  obtain ⟨n, hn, rfl, o⟩ := Preset.write_eq w
  exact Preset.lawful_put h mem (accept_range p.range_ordered hn) o

theorem Preset.write_envelopesOrdered {s t : Preset} (h : s.envelopesOrdered) {p : PresetParam} {v : Int}
    (w : s.write p v = some t) : t.envelopesOrdered := by
  obtain ⟨n, hn, rfl, o⟩ := Preset.write_eq w
  intro c
  have hc := h c
  cases p <;> try exact hc
  all_goals
    simp only [Preset.put, Preset.ordered, PerChannel.get_set, decide_eq_true_eq] at *
    split <;> simp_all

theorem PresetParam.envelopeMin_mem (c : Channel) : PresetParam.envelopeMin c ∈ PresetParam.all := by cases c <;> decide

theorem PresetParam.envelopeMax_mem (c : Channel) : PresetParam.envelopeMax c ∈ PresetParam.all := by cases c <;> decide

theorem Preset.lawful.envelopesOrdered {s : Preset} (h : s.lawful) : s.envelopesOrdered := fun c => by
  simpa [Preset.ordered] using (h.2.2 _ (PresetParam.envelopeMin_mem c)).2.2

/-! ### The sets read from the store, the fallback preset and the default calibration -/

theorem Calibration.default_lawful : Calibration.default.lawful := by
  unfold Calibration.lawful
  decide +kernel

theorem Preset.fallback_default_lawful : (Preset.fallback defaultFactory).lawful := by
  unfold Preset.lawful
  decide +kernel


/-- A calibration with every parameter in its range. -/
def Calibration.ranged (s : Calibration) : Prop := ∀ q ∈ CalParam.all, q.range.lo ≤ s.get q ∧ s.get q ≤ q.range.hi

/-- A preset set of the right shape with every parameter in its range. -/
def Preset.ranged (s : Preset) : Prop := s.shaped ∧ ∀ q ∈ PresetParam.all, q.range.lo ≤ s.get q ∧ s.get q ≤ q.range.hi

theorem storedValue_range {r : ParamRange} {w : Word} {n : Int} (lo : r.lo ≤ r.hi) (h : storedValue r w = some n) :
    r.lo ≤ n ∧ n ≤ r.hi := accept_range lo h

theorem Calibration.ranged_put {s : Calibration} (h : s.ranged) (p : CalParam) {n : Int}
    (range : p.range.lo ≤ n ∧ n ≤ p.range.hi) : (s.put p n).ranged := by
  intro q hq
  by_cases e : q = p
  · subst e
    rw [s.get_put_self q range]
    exact range
  · rw [s.get_put_ne n e]
    exact h q hq

theorem Preset.ranged_put {s : Preset} (h : s.ranged) {p : PresetParam} (mem : p ∈ PresetParam.all) {n : Int}
    (range : p.range.lo ≤ n ∧ n ≤ p.range.hi) : (s.put p n).ranged := by
  refine ⟨Preset.shaped_put h.1 p n, fun q hq => ?_⟩
  by_cases e : q = p
  · subst e
    rw [Preset.get_put_self h.1 mem range]
    exact range
  · rw [Preset.get_put_ne h.1 mem n e]
    exact h.2 q hq

theorem Calibration.lawful.ranged {s : Calibration} (h : s.lawful) : s.ranged := fun q hq => ⟨(h q hq).1, (h q hq).2.1⟩

theorem Preset.lawful.ranged {s : Preset} (h : s.lawful) : s.ranged :=
  ⟨⟨h.1, h.2.1⟩, fun q hq => ⟨(h.2.2 q hq).1, (h.2.2 q hq).2.1⟩⟩

theorem Calibration.repair_lawful {s : Calibration} (h : s.ranged) : s.repair.lawful := by
  intro q hq
  have hs := h q hq
  have hd := Calibration.default_lawful q hq
  cases q
  case nodeAddress =>
    simp only [Calibration.get, Calibration.repair, Calibration.ordered, CalParam.range, ParamRange.clamped, Bool.not_eq_true'] at *
    split
    · exact hd
    · exact ⟨hs.1, hs.2, by simp_all⟩
  case factoryMin c =>
    simp only [Calibration.get, Calibration.repair, Calibration.ordered, PerChannel.get_build, decide_eq_true_eq] at *
    split
    · exact ⟨hs.1, hs.2, by assumption⟩
    · exact hd
  case factoryMax c =>
    simp only [Calibration.get, Calibration.repair, Calibration.ordered, PerChannel.get_build, decide_eq_true_eq] at *
    split
    · exact ⟨hs.1, hs.2, by assumption⟩
    · exact hd
  all_goals exact ⟨hs.1, hs.2, rfl⟩

theorem readCalibration_lawful (words : List Word) : (readCalibration words).lawful := by
  unfold readCalibration
  refine Calibration.repair_lawful ?_
  generalize CalParam.all.zipIdx = l
  suffices ∀ s : Calibration, s.ranged → (l.foldl (fun s p =>
      match storedValue p.1.range (words.getD p.2 0xFFFF) with
      | some n => s.put p.1 n
      | none => s) s).ranged from this _ Calibration.default_lawful.ranged
  induction l with
  | nil => exact fun s hs => hs
  | cons x rest ih =>
    intro s hs
    refine ih _ ?_
    dsimp only
    split
    · rename_i n hn
      exact Calibration.ranged_put hs _ (storedValue_range x.1.range_ordered hn)
    · exact hs

theorem readPreset_lawful {words : List Word} {p : Preset} (h : readPreset words = some p) : p.lawful := by
  unfold readPreset at h
  split at h
  case h_2 => simp at h
  case h_1 t ht =>
    simp only [Option.ite_none_right_eq_some, Option.some.injEq] at h
    obtain ⟨order, rfl⟩ := h
    suffices t.ranged by
      refine ⟨this.1.1, this.1.2, fun q hq => ⟨(this.2 q hq).1, (this.2 q hq).2, ?_⟩⟩
      exact List.all_eq_true.1 order q hq
    have mem : ∀ x ∈ PresetParam.all.zipIdx, x.1 ∈ PresetParam.all := fun x hx => List.fst_mem_of_mem_zipIdx hx
    have key : ∀ (l : List (PresetParam × Nat)) (s : Option Preset), (∀ x ∈ l, x.1 ∈ PresetParam.all) → (∀ t ∈ s, t.ranged) →
        ∀ t ∈ l.foldl (takeStored words) s, t.ranged := by
      intro l
      induction l with
      | nil => exact fun s _ hs => hs
      | cons x rest ih =>
        intro s hm hs
        refine ih _ (fun y hy => hm y (List.mem_cons_of_mem _ hy)) ?_
        unfold takeStored
        split
        · rename_i u n hn
          intro t ht
          simp only [Option.mem_def, Option.some.injEq] at ht
          subst ht
          exact Preset.ranged_put (hs u rfl) (hm x List.mem_cons_self) (storedValue_range x.1.range_ordered hn)
        · simp
    refine key _ _ mem ?_ t ht
    intro u hu
    simp only [Option.mem_def, Option.some.injEq] at hu
    subst hu
    exact Preset.fallback_default_lawful.ranged

/-- A preset set with lawful limits as its envelopes, or with its envelopes clamped to them, is lawful. -/
theorem Preset.lawful_of_envelope {s t : Preset} (h : s.lawful) (k : Calibration) (hk : k.lawful)
    (same : t = { s with envelope := t.envelope })
    (within : ∀ c, (k.factory.get c).holds (t.envelope.get c).min ∧ (k.factory.get c).holds (t.envelope.get c).max
      ∧ (t.envelope.get c).min ≤ (t.envelope.get c).max) : t.lawful := by
  rw [same]
  refine ⟨h.1, h.2.1, fun q hq => ?_⟩
  have hs := h.2.2 q hq
  cases q
  case envelopeMin c =>
    obtain ⟨⟨lo, hi⟩, -, o⟩ := within c
    have h1 := (hk _ (CalParam.factoryMin_mem c)).1
    have h2 := (hk _ (CalParam.factoryMax_mem c)).2.1
    simp only [Preset.get, Preset.ordered, decide_eq_true_eq, Calibration.get, CalParam.range, PresetParam.range] at *
    exact ⟨by omega, by omega, o⟩
  case envelopeMax c =>
    obtain ⟨-, ⟨lo, hi⟩, o⟩ := within c
    have h1 := (hk _ (CalParam.factoryMin_mem c)).1
    have h2 := (hk _ (CalParam.factoryMax_mem c)).2.1
    simp only [Preset.get, Preset.ordered, decide_eq_true_eq, Calibration.get, CalParam.range, PresetParam.range] at *
    exact ⟨by omega, by omega, o⟩
  all_goals exact hs

/-- Clamped envelopes lie within the factory limits, in order. -/
theorem Preset.clampEnvelopes_within {s : Preset} (h : s.envelopesOrdered) {k : Calibration} (hk : k.factoryOrdered) (c : Channel) :
    (k.factory.get c).holds (((s.clampEnvelopes k.factory).envelope.get c).min)
      ∧ (k.factory.get c).holds (((s.clampEnvelopes k.factory).envelope.get c).max)
      ∧ ((s.clampEnvelopes k.factory).envelope.get c).min ≤ ((s.clampEnvelopes k.factory).envelope.get c).max := by
  simp only [Preset.clampEnvelopes, PerChannel.get_build, Limits.holds]
  exact ⟨clamp_range (hk c) _, clamp_range (hk c) _, clamp_mono (hk c) (h c)⟩

theorem Preset.clampEnvelopes_lawful {s : Preset} (h : s.lawful) {k : Calibration} (hk : k.lawful) :
    (s.clampEnvelopes k.factory).lawful :=
  Preset.lawful_of_envelope h k hk rfl (Preset.clampEnvelopes_within h.envelopesOrdered hk.factoryOrdered)

theorem Preset.fallback_lawful {k : Calibration} (hk : k.lawful) : (Preset.fallback k.factory).lawful := by
  refine Preset.lawful_of_envelope Preset.fallback_default_lawful k hk rfl fun c => ?_
  have := hk.factoryOrdered c
  simp only [Preset.fallback, Limits.holds]
  exact ⟨⟨le_rfl, this⟩, ⟨this, le_rfl⟩, this⟩

theorem Param.ofNumber_mem {n : Nat} {p : PresetParam} (h : Param.ofNumber n = some (.preset p)) : p ∈ PresetParam.all := by
  unfold Param.ofNumber at h
  split at h
  · simp at h
  · simp only [Option.map_eq_some_iff, Param.preset.injEq] at h
    obtain ⟨q, hq, rfl⟩ := h
    exact List.mem_of_find?_eq_some hq

end Sys2Proof.Machine
end

