-- ==== Sys2Proof/Laws/Quiet.lean ====
section
/-! SUPPORT. What the moves, the Setting Book, the Override Unit, the Evaluator and the followers can do at all, said once:
`Quiet s t` says that t came from s by the edits listed in `Edit`, so the clock, the lines, the capture, the windows and the store
stand as they did, setpoints and the FAN target are only written clamped, at most two slots are held, Request Lists stay in order,
and frames only pass through the queue's one entrance. A law that every `Edit` keeps is kept by every operation named here. -/

namespace Sys2Proof.Machine

/-- What a quiet operation leaves as it was. -/
structure Still where
  now : Nat
  power : Power
  lines : Lines
  phold : Bool
  shutdown : Option Shutdown
  capture : Capture
  window : WindowUnit
  store : Store

/-- The still part of a state: the window without its marks, the store without the load mark and the active slot. -/
def Part.still (s : Part) : Still where
  now := s.now
  power := s.power
  lines := s.lines
  phold := s.phold
  shutdown := s.shutdown
  capture := s.capture
  window := { s.window with marks := ⟨false, false, false⟩ }
  store := { s.store with loadMark := none, activeSlot := none }

/-- What a quiet operation changes only by the edits named. -/
structure Live where
  slots : List Slot
  setpoint : PerChannel Int
  requests : PerChannel (List Entry)
  fanTarget : Int
  queue : List Frame

/-- The live part of a state. -/
def Part.live (s : Part) : Live where
  slots := s.slots
  setpoint := .build fun c => (s.book.get c).setpoint
  requests := .build fun c => (s.book.get c).requests
  fanTarget := s.fanTarget
  queue := s.bus.queue

/-- A Request List in falling authority (R67). -/
abbrev Ranked (l : List Entry) : Prop := l.Pairwise fun a b => b.requester.rank < a.requester.rank

/-- One edit. -/
inductive Edit : Part → Part → Prop where
  | other {s t : Part} (still : t.still = s.still) (live : t.live = s.live) : Edit s t
  | setpoint (s : Part) (c : Channel) (x : Int) : Edit s (s.modBook c fun e => { e with setpoint := s.clampToEnvelope c x })
  | fanTarget (s : Part) (x : Int) : Edit s { s with fanTarget := s.clampToEnvelope .fan x }
  | requests (s : Part) (c : Channel) (l : List Entry) (ranked : Ranked (s.book.get c).requests → Ranked l) :
      Edit s (s.modBook c fun e => { e with requests := l })
  | slots (s : Part) (l : List Slot) (few : l.length ≤ max 2 s.slots.length) : Edit s { s with slots := l }
  | push (s : Part) (f : Frame) : Edit s { s with bus := s.bus.push f }

/-- Finitely many edits. -/
abbrev Quiet : Part → Part → Prop := Relation.ReflTransGen Edit

theorem Edit.still_eq {s t : Part} (h : Edit s t) : t.still = s.still := by
  cases h with
  | other still _ => exact still
  | setpoint => rfl
  | fanTarget => rfl
  | requests => rfl
  | slots => rfl
  | push => rfl

theorem Quiet.still_eq {s t : Part} (h : Quiet s t) : t.still = s.still := by
  induction h with
  | refl => rfl
  | tail _ e ih => rw [e.still_eq, ih]

/-! ### The edits as operations -/

theorem Quiet.other {s0 s t : Part} (h : Quiet s0 s) (still : t.still = s.still) (live : t.live = s.live) : Quiet s0 t :=
  h.tail (.other still live)

theorem Quiet.modMotion {s0 s : Part} (h : Quiet s0 s) (c : Channel) (f : Motion → Motion) : Quiet s0 (s.modMotion c f) :=
  h.other rfl rfl

/-- A change of an entry beside its setpoint and its list. -/
theorem Quiet.modBook {s0 s : Part} (h : Quiet s0 s) (c : Channel) (f : BookEntry → BookEntry)
    (hs : ∀ e, (f e).setpoint = e.setpoint) (hr : ∀ e, (f e).requests = e.requests) : Quiet s0 (s.modBook c f) := by
  refine h.other rfl ?_
  simp only [Part.live, Live.mk.injEq]
  refine ⟨rfl, ?_, ?_, rfl, rfl⟩ <;> apply PerChannel.ext_get <;> intro d <;>
    simp only [PerChannel.get_build, modBook_book, PerChannel.get_set] <;> split <;> simp_all

theorem Quiet.requests {s0 s : Part} (h : Quiet s0 s) (c : Channel) (l : List Entry)
    (ranked : Ranked (s.book.get c).requests → Ranked l) : Quiet s0 (s.modBook c fun e => { e with requests := l }) :=
  h.tail (.requests s c l ranked)

theorem Quiet.setpoint {s0 s : Part} (h : Quiet s0 s) (c : Channel) (x : Int) :
    Quiet s0 (s.modBook c fun e => { e with setpoint := s.clampToEnvelope c x }) :=
  h.tail (.setpoint s c x)

theorem Quiet.slots {s0 s : Part} (h : Quiet s0 s) (l : List Slot) (few : l.length ≤ max 2 s.slots.length) :
    Quiet s0 { s with slots := l } :=
  h.tail (.slots s l few)

theorem Quiet.send {s0 s : Part} (h : Quiet s0 s) (b : FrameBody) : Quiet s0 (s.send b) := h.tail (.push s _)

theorem Quiet.reply {s0 s : Part} (h : Quiet s0 s) (a : Asked) (r : Result) (v : Word) : Quiet s0 (s.reply a r v) := h.send _

theorem Quiet.raiseIn {s0 s : Part} (h : Quiet s0 s) (n : Nat) (e : Event) (c : Option Channel) (d8 d16 : Nat) :
    Quiet s0 (s.raiseIn n e c d8 d16) := by
  unfold Part.raiseIn
  simp only []
  split
  · exact (h.send (.event e c d8 d16 s.bus.overrun (n % 65536))).other rfl rfl
  · exact h.send _

theorem Quiet.raise {s0 s : Part} (h : Quiet s0 s) (e : Event) (c : Option Channel) (d8 d16 : Nat) :
    Quiet s0 (s.raise e c d8 d16) :=
  h.raiseIn _ e c d8 d16

theorem Quiet.foldl {α : Type} {s0 s : Part} (h : Quiet s0 s) (l : List α) (f : Part → α → Part)
    (hf : ∀ (t : Part) (x : α), Quiet s0 t → Quiet s0 (f t x)) : Quiet s0 (l.foldl f s) := by
  induction l generalizing s with
  | nil => exact h
  | cons x rest ih => exact ih (hf s x h)

/-! ### Slots (Machine/Slots.lean) -/

theorem Quiet.markShifted {s0 s : Part} (h : Quiet s0 s) (c : Channel) (m : Move) : Quiet s0 (s.markShifted c m) := by
  unfold Part.markShifted
  split
  · exact h.other rfl rfl
  · exact h

theorem Quiet.driveOff {s0 s : Part} (h : Quiet s0 s) (c : Channel) (e : DriveEnd) : Quiet s0 (s.driveOff c e) := by
  unfold Part.driveOff
  exact (h.slots _ (Nat.le_trans (List.length_filter_le _ _) (Nat.le_max_right _ _))).modMotion c _

theorem Quiet.drivePositional {s0 s : Part} (h : Quiet s0 s) (c : Channel) (p : PosChannel) (mv : Move) :
    Quiet s0 (s.drivePositional c p mv) := by
  unfold Part.drivePositional
  extract_lets driven t
  split
  · exact (h.modMotion c _).driveOff c _
  · exact h.modMotion c _

theorem Quiet.driveSpeed {s0 s : Part} (h : Quiet s0 s) (c : Channel) (v : SpeedChannel) (mv : Move) :
    Quiet s0 (s.driveSpeed c v mv) := by
  unfold Part.driveSpeed
  extract_lets driven late t
  split
  · exact (h.modMotion c _).driveOff c _
  · exact h.modMotion c _

/-- A grant, from what it appends to the slots. -/
theorem Quiet.grantOf {s0 s : Part} (h : Quiet s0 s) (c : Channel)
    (held : Quiet s0 { s with slots := s.slots ++ [(⟨c, s.now⟩ : Slot)] }) : Quiet s0 (s.grant c) := by
  unfold Part.grant
  split
  · exact h
  · extract_lets t
    have ht : Quiet s0 t := (held.other rfl rfl : Quiet s0 (s.holdSlot c)).markShifted c _
    split
    · exact ht.drivePositional c _ _
    · exact ht.driveSpeed c _ _

theorem Quiet.grant {s0 s : Part} (h : Quiet s0 s) (c : Channel) (free : s.slots.length < slotCount) :
    Quiet s0 (s.grant c) := by
  refine h.grantOf c (h.slots _ ?_)
  simp only [slotCount] at free
  simp only [List.length_append, List.length_cons, List.length_nil]
  omega

theorem Quiet.regrantUpTo {s0 : Part} (n : Nat) : ∀ {s : Part}, Quiet s0 s → Quiet s0 (Part.regrantUpTo n s) := by
  induction n with
  | zero => exact fun h => h
  | succ n ih =>
    intro s h
    unfold Part.regrantUpTo
    split
    case isTrue free =>
      split
      · exact ih (h.grant _ free)
      · exact h
    case isFalse => exact h

theorem Quiet.regrant {s0 s : Part} (h : Quiet s0 s) : Quiet s0 s.regrant := Quiet.regrantUpTo 6 h

theorem Quiet.endDrive {s0 s : Part} (h : Quiet s0 s) (c : Channel) (e : DriveEnd) : Quiet s0 (s.endDrive c e) :=
  (h.driveOff c e).regrant

/-- A preempted channel holds a slot. -/
theorem preemptable_holds {s : Part} {c : Channel} (h : s.preemptable = some c) : ∃ x ∈ s.slots, x.channel = c := by
  unfold Part.preemptable at h
  simp only [] at h
  have := List.mem_of_getLast? h
  simp only [List.mem_filter, List.mem_map] at this
  obtain ⟨⟨⟨x, hx, rfl⟩, -⟩, -⟩ := this
  exact ⟨x, hx, rfl⟩

theorem Quiet.preempt {s0 s : Part} (h : Quiet s0 s) (c holder : Channel) (e : DriveEnd)
    (holds : ∃ x ∈ s.slots, x.channel = holder) : Quiet s0 ((s.driveOff holder e).grant c) := by
  refine (h.driveOff holder e).grantOf c ?_
  have few : (s.slots.filter (·.channel ≠ holder)).length < s.slots.length := by
    obtain ⟨x, hx, rfl⟩ := holds
    exact List.length_filter_lt_length_iff_exists.2 ⟨x, hx, by simp⟩
  refine (h.slots (s.slots.filter (·.channel ≠ holder) ++ [(⟨c, s.now⟩ : Slot)]) ?_).other rfl rfl
  simp only [List.length_append, List.length_cons, List.length_nil]
  omega

theorem Quiet.askSlot {s0 s : Part} (h : Quiet s0 s) (c : Channel) : Quiet s0 (s.askSlot c) := by
  unfold Part.askSlot
  split
  case isTrue free => exact (h.grant c free).regrant
  case isFalse => exact h

theorem Quiet.preemptUnless {s0 s : Part} (h : Quiet s0 s) (first : Bool) (c : Channel) :
    Quiet s0 (s.preemptUnless first c) := by
  unfold Part.preemptUnless Part.preempt
  split
  · exact h
  · split
    · split
      case h_1 holder hh => exact (h.preempt c holder .workLeft (preemptable_holds hh)).regrant
      case h_2 => exact h
    · exact h

theorem Quiet.enterWaiting {s0 s : Part} (h : Quiet s0 s) (c : Channel) : Quiet s0 (s.enterWaiting c) :=
  (h.modMotion c _).askSlot c

/-! ### Feed Restrain and Plug Relief (Machine/Restrain.lean) -/

theorem Quiet.sendRestrain {s0 s : Part} (h : Quiet s0 s) : Quiet s0 s.sendRestrain :=
  (h.send (.restrainNotice s.evaluator.restrain s.reduction s.evaluator.latestLoad s.windowLow)).other rfl rfl

theorem Quiet.announceRestrain {s0 s : Part} (h : Quiet s0 s) (b : RestrainFace × Nat) : Quiet s0 (s.announceRestrain b) := by
  unfold Part.announceRestrain
  split
  · exact h.sendRestrain
  · exact h

theorem Quiet.setRestrain {s0 s : Part} (h : Quiet s0 s) (r : Restrain) : Quiet s0 (s.setRestrain r) := h.other rfl rfl

theorem Quiet.setRelief {s0 s : Part} (h : Quiet s0 s) (r : Relief) : Quiet s0 (s.setRelief r) := by
  unfold Part.setRelief
  simp only []
  split <;> exact h.other rfl rfl

theorem Quiet.startWatch {s0 s : Part} (h : Quiet s0 s) : Quiet s0 s.startWatch := h.other rfl rfl

theorem Quiet.startConfirm {s0 s : Part} (h : Quiet s0 s) : Quiet s0 s.startConfirm := h.other rfl rfl

theorem Quiet.stopConfirm {s0 s : Part} (h : Quiet s0 s) : Quiet s0 s.stopConfirm := h.other rfl rfl

theorem Quiet.stopIdleWatch {s0 s : Part} (h : Quiet s0 s) : Quiet s0 s.stopIdleWatch := by
  unfold Part.stopIdleWatch
  split
  · exact h.other rfl rfl
  · exact h

theorem Quiet.disarm {s0 s : Part} (h : Quiet s0 s) : Quiet s0 s.disarm := by
  unfold Part.disarm
  simp only []
  split
  · exact ((h.other rfl rfl : Quiet s0 { s with override := Override.reset }).setRestrain _).announceRestrain _
  · exact h.other rfl rfl

theorem Quiet.judgeRelief {s0 s : Part} (h : Quiet s0 s) : Quiet s0 s.judgeRelief := by
  unfold Part.judgeRelief
  split
  · split
    · exact h
    · exact h.disarm
  · split
    · exact h.setRelief _
    · exact h

theorem Quiet.drumRaised {s0 s : Part} (h : Quiet s0 s) (old : Int) : Quiet s0 (s.drumRaised old) := by
  unfold Part.drumRaised
  split
  · exact (h.setRelief .spinup).other rfl rfl
  · exact h

theorem Quiet.slowPeriod {s0 s : Part} (h : Quiet s0 s) : Quiet s0 s.slowPeriod := by
  unfold Part.slowPeriod
  split
  · exact (h.setRelief _).startConfirm
  · split
    · exact h
    · exact h.startConfirm
  all_goals first | exact h | exact h.other rfl rfl

theorem Quiet.goodPeriod {s0 s : Part} (h : Quiet s0 s) : Quiet s0 s.goodPeriod := by
  unfold Part.goodPeriod
  split
  · exact (h.setRelief _).startWatch
  · exact (h.setRelief _).stopConfirm
  · exact h.stopConfirm
  · split
    · exact h
    · exact h.other rfl rfl
  all_goals exact h

theorem Quiet.judgeDrumPeriod {s0 s : Part} (h : Quiet s0 s) (rpm : Int) : Quiet s0 (s.judgeDrumPeriod rpm) := by
  unfold Part.judgeDrumPeriod
  split
  · split
    · exact h.goodPeriod
    · exact h
  · split
    · exact h.goodPeriod
    · exact h.slowPeriod
  all_goals first | exact h | (split; exact h.slowPeriod; exact h.goodPeriod)

/-! ### Outcomes and setpoints (Machine/Outcomes.lean) -/

theorem Quiet.recordOutcome {s0 s : Part} (h : Quiet s0 s) (c : Channel) (o : OutcomeCode) (owner : Owner) (tag : Option Byte) :
    Quiet s0 (s.recordOutcome c o owner tag) := by
  unfold Part.recordOutcome
  exact (h.modBook c (fun e => { e with last := some ⟨o, owner, s.window.number⟩ }) (fun _ => rfl) (fun _ => rfl)).raise _ _ _ _

theorem Quiet.stopJogTimer {s0 s : Part} (h : Quiet s0 s) (c : Channel) : Quiet s0 (s.stopJogTimer c) := by
  unfold Part.stopJogTimer
  split
  · exact h
  · exact h.other rfl rfl

theorem Quiet.startJogTimer {s0 s : Part} (h : Quiet s0 s) (c : Channel) : Quiet s0 (s.startJogTimer c) :=
  h.other rfl rfl

theorem Quiet.stopJogTimerOf {s0 s : Part} (h : Quiet s0 s) (c : Channel) (m : Move) : Quiet s0 (s.stopJogTimerOf c m) := by
  unfold Part.stopJogTimerOf
  split
  · exact h.stopJogTimer c
  · exact h

theorem Quiet.endEntry {s0 s : Part} (h : Quiet s0 s) (c : Channel) (o : OutcomeCode) (e : Entry) :
    Quiet s0 (s.endEntry c o e) := by
  unfold Part.endEntry
  refine Quiet.recordOutcome ?_ c o _ _
  split
  · exact h.stopJogTimer c
  · exact h

theorem Quiet.discardEntries {s0 s : Part} (h : Quiet s0 s) (c : Channel) (o : OutcomeCode) (gone : Entry → Bool) :
    Quiet s0 (s.discardEntries c o gone) := by
  unfold Part.discardEntries
  exact Quiet.foldl (h.requests c _ (fun r => r.filter _)) _ _ fun t x ht => ht.endEntry c o x

theorem Quiet.updateFanTarget {s0 s : Part} (h : Quiet s0 s) : Quiet s0 s.updateFanTarget :=
  h.tail (.fanTarget s _)

theorem Quiet.setFanOffset {s0 s : Part} (h : Quiet s0 s) (v : Int) : Quiet s0 (s.setFanOffset v) :=
  (h.other rfl rfl : Quiet s0 { s with fanOffset := v }).updateFanTarget

theorem Quiet.putSetpoint {s0 s : Part} (h : Quiet s0 s) (c : Channel) (x : Int) :
    Quiet s0 (s.putSetpoint c (s.clampToEnvelope c x)) := by
  unfold Part.putSetpoint
  simp only []
  split
  · exact (h.setpoint _ x).updateFanTarget
  · exact ((h.setpoint _ x).drumRaised _).stopIdleWatch
  all_goals exact h.setpoint _ x

theorem Quiet.seeCommitment {s0 s : Part} (h : Quiet s0 s) (c : Channel) (r : Requester) : Quiet s0 (s.seeCommitment c r) := by
  unfold Part.seeCommitment
  split
  · exact h
  all_goals split <;> exact h.other rfl rfl

theorem Quiet.commit {s0 s : Part} (h : Quiet s0 s) (c : Channel) (v : Int) (r : Requester) (origin : Origin) :
    Quiet s0 (s.commit c v r origin) := by
  unfold Part.commit
  exact ((h.modBook c (fun e => { e with origin := origin }) (fun _ => rfl) (fun _ => rfl)).putSetpoint c v).seeCommitment c r

end Sys2Proof.Machine
end

