-- ==== Sys2Proof/Laws/QuietMoves.lean ====
section
/-! SUPPORT. The moves (Machine/Moves.lean) and the Setting Book (Machine/Book.lean) are quiet. -/

namespace Sys2Proof.Machine

/-! ### Machine/Moves.lean -/

theorem Quiet.reliefOutcome {s0 s : Part} (h : Quiet s0 s) (k : MoveKind) (o : OutcomeCode) : Quiet s0 (s.reliefOutcome k o) := by
  unfold Part.reliefOutcome
  extract_lets code
  split
  · refine Quiet.startWatch (Quiet.other (h.setRelief (.openHeld false)) ?_ ?_) <;> rfl
  · exact ((h.setRelief _).stopConfirm).raise _ _ _ _
  · exact h

theorem Quiet.endMove {s0 s : Part} (h : Quiet s0 s) (c : Channel) (o : OutcomeCode) : Quiet s0 (s.endMove c o) := by
  unfold Part.endMove
  split
  · exact h
  · exact (((h.modMotion c _).stopJogTimerOf c _).recordOutcome c o _ _).reliefOutcome _ o

theorem Quiet.completeMove {s0 s : Part} (h : Quiet s0 s) (c : Channel) (o : OutcomeCode) : Quiet s0 (s.completeMove c o) :=
  (h.modMotion c _).endMove c o

theorem Quiet.fault {s0 s : Part} (h : Quiet s0 s) (c : Channel) (cause : FaultCause) (ending : Option OutcomeCode) :
    Quiet s0 (s.fault c cause ending) := by
  unfold Part.fault
  extract_lets held t1 t2 t3 t4
  have h2 : Quiet s0 t2 := (h.modMotion c _).raise _ _ _ _
  have h3 : Quiet s0 t3 := by
    show Quiet s0 (match (s.motionOf c).move, ending with
      | some mv, some o => (t2.stopJogTimerOf c mv).recordOutcome c o mv.owner mv.tag
      | _, _ => t2)
    split
    · exact (h2.stopJogTimerOf c _).recordOutcome c _ _ _
    · exact h2
  have h4 : Quiet s0 t4 := h3.discardEntries c .faulted _
  split
  · exact h4.judgeRelief
  · exact h4

theorem Quiet.comeToRest {s0 s : Part} (h : Quiet s0 s) (c : Channel) (ending : Option OutcomeCode) :
    Quiet s0 (s.comeToRest c ending) := by
  unfold Part.comeToRest
  split
  · exact h.fault c _ ending
  · exact (h.modMotion c _).endMove c _

theorem Quiet.abort {s0 s : Part} (h : Quiet s0 s) (c : Channel) (o : OutcomeCode) : Quiet s0 (s.abort c o) := by
  unfold Part.abort
  split
  · exact h
  · split
    · exact ((((h.driveOff c .workLeft).modMotion c _).regrant).stopJogTimerOf c _).recordOutcome c o _ _
    · exact ((h.modMotion c _).stopJogTimerOf c _).recordOutcome c o _ _
    all_goals exact h.comeToRest c _

theorem Quiet.stallMove {s0 s : Part} (h : Quiet s0 s) (c : Channel) : Quiet s0 (s.stallMove c) := by
  unfold Part.stallMove
  extract_lets count t
  split
  · exact (h.modMotion c _).fault c .stall _
  · exact (h.modMotion c _).endMove c .stalled

theorem Quiet.commitJog {s0 s : Part} (h : Quiet s0 s) (c : Channel) (mv : Move) : Quiet s0 (s.commitJog c mv) := by
  unfold Part.commitJog
  split
  · exact h.commit c _ _ _
  · exact h

theorem Quiet.endJogMove {s0 s : Part} (h : Quiet s0 s) (c : Channel) (mv : Move) : Quiet s0 (s.endJogMove c mv) := by
  unfold Part.endJogMove
  extract_lets t
  have ht : Quiet s0 t := h.commitJog c mv
  split
  · exact ht.endMove c _
  · exact ht.completeMove c _

theorem Quiet.stopJog {s0 s : Part} (h : Quiet s0 s) (c : Channel) : Quiet s0 (s.stopJog c) := by
  unfold Part.stopJog
  split
  · exact h
  · split
    · exact h.endDrive c _
    · split
      · exact h.modMotion c _
      · exact h
    · exact h.endJogMove c _
    all_goals exact h

theorem Quiet.hand {s0 s : Part} (h : Quiet s0 s) (c : Channel) (mv : Move) : Quiet s0 (s.hand c mv) := by
  unfold Part.hand
  split
  · exact h.recordOutcome c _ _ _
  · split
    · exact (h.modMotion c _).markShifted c _
    · extract_lets t
      have ht : Quiet s0 t := h.modMotion c _
      split
      · split
        · split
          · exact ht.endJogMove c mv
          · exact ht.completeMove c _
        · exact ht.enterWaiting c
      · exact ht.enterWaiting c

theorem Quiet.handSet {s0 s : Part} (h : Quiet s0 s) (c : Channel) (owner : Owner) (kind : MoveKind) (sch : Scheduling)
    (target : Int) (tag : Option Byte) : Quiet s0 (s.handSet c owner kind sch target tag) := by
  unfold Part.handSet
  extract_lets mv
  split <;> exact h.hand c _

theorem Quiet.handHome {s0 s : Part} (h : Quiet s0 s) (p : PosChannel) (r : Requester) (tag : Option Byte) :
    Quiet s0 (s.handHome p r tag) := by
  unfold Part.handHome
  extract_lets c cal t u
  have ht : Quiet s0 t := h.modMotion c _
  have hu : Quiet s0 u := by
    show Quiet s0 (if c = .concave then t.judgeRelief else t)
    split
    · exact ht.judgeRelief
    · exact ht
  exact hu.hand c _

theorem Quiet.handJog {s0 s : Part} (h : Quiet s0 s) (c : Channel) (r : Requester) (d : Direction) (tag : Option Byte) :
    Quiet s0 (s.handJog c r d tag) := by
  unfold Part.handJog
  extract_lets mv
  split <;> exact h.hand c _

theorem Quiet.handShake {s0 s : Part} (h : Quiet s0 s) (p : PosChannel) (r : Requester) (a n : Nat) (tag : Option Byte) :
    Quiet s0 (s.handShake p r a n tag) := h.hand _ _

theorem Quiet.judgeTarget {s0 s : Part} (h : Quiet s0 s) (p : PosChannel) (mv : Move) (t : Int) :
    Quiet s0 (s.judgeTarget p mv t) := by
  unfold Part.judgeTarget
  extract_lets c position mv2
  split
  · exact h.completeMove c _
  · split
    · exact h.completeMove c _
    · exact (h.modMotion c _).enterWaiting c

theorem Quiet.targetCoastEnds {s0 s : Part} (h : Quiet s0 s) (p : PosChannel) (mv : Move) :
    Quiet s0 (s.targetCoastEnds p mv) := by
  unfold Part.targetCoastEnds
  extract_lets c target
  split
  · exact h.stallMove c
  · split
    · exact h.judgeTarget p mv _
    · split
      · exact h.completeMove c _
      · exact h.enterWaiting c

theorem Quiet.shakeCoastEnds {s0 s : Part} (h : Quiet s0 s) (p : PosChannel) (mv : Move) : Quiet s0 (s.shakeCoastEnds p mv) := by
  unfold Part.shakeCoastEnds
  extract_lets c mv2
  split
  · exact (h.modMotion c _).enterWaiting c
  · exact h.targetCoastEnds p mv

theorem Quiet.jogCoastEnds {s0 s : Part} (h : Quiet s0 s) (p : PosChannel) (mv : Move) : Quiet s0 (s.jogCoastEnds p mv) := by
  unfold Part.jogCoastEnds
  extract_lets c
  split
  · exact (h.commitJog c mv).stallMove c
  · split
    · exact h.endJogMove c mv
    · exact h.enterWaiting c

theorem Quiet.homeSucceeds {s0 s : Part} (h : Quiet s0 s) (p : PosChannel) : Quiet s0 (s.homeSucceeds p) := by
  unfold Part.homeSucceeds
  extract_lets c before t u
  have hu : Quiet s0 u := ((h.modMotion c _).raise _ _ _ _).endMove c _
  split
  · exact hu.judgeRelief
  · exact hu

theorem Quiet.homeCoastEnds {s0 s : Part} (h : Quiet s0 s) (p : PosChannel) (mv : Move) : Quiet s0 (s.homeCoastEnds p mv) := by
  unfold Part.homeCoastEnds
  split
  · exact h.homeSucceeds p
  · split
    · exact h.fault _ _ _
    · exact h.enterWaiting _

theorem Quiet.begunCoastEnds {s0 s : Part} (h : Quiet s0 s) (p : PosChannel) (mv : Move) : Quiet s0 (s.begunCoastEnds p mv) := by
  unfold Part.begunCoastEnds
  extract_lets c mv1 mv2 t
  have ht : Quiet s0 t := h.modMotion c _
  split
  · exact ht.completeMove c _
  · exact ht.enterWaiting c

theorem Quiet.coastEnds {s0 s : Part} (h : Quiet s0 s) (p : PosChannel) : Quiet s0 (s.coastEnds p) := by
  unfold Part.coastEnds
  extract_lets c t
  have ht : Quiet s0 t := h.modMotion c _
  split
  · exact ht.comeToRest c _
  · split
    · exact ht.begunCoastEnds p _
    · split
      · exact ht.homeCoastEnds p _
      · exact ht.jogCoastEnds p _
      · exact ht.shakeCoastEnds p _
      all_goals exact ht.targetCoastEnds p _

theorem Quiet.settleEnds {s0 s : Part} (h : Quiet s0 s) (v : SpeedChannel) : Quiet s0 (s.settleEnds v) := by
  unfold Part.settleEnds
  extract_lets c t
  have ht : Quiet s0 t := h.modMotion c _
  split
  · exact ht.comeToRest c _
  · split
    · split
      · split
        · exact ht.endJogMove c _
        · exact ht.enterWaiting c
      · split
        · exact ht.endMove c _
        · exact ht.enterWaiting c
      · exact ht.enterWaiting c
    · split
      · exact ht.endJogMove c _
      · exact ht.endMove c _

theorem Quiet.losePosition {s0 s : Part} (h : Quiet s0 s) (c : Channel) : Quiet s0 (s.losePosition c) := by
  unfold Part.losePosition
  extract_lets t u homing v
  have hu : Quiet s0 u := (h.modMotion c _).raise _ _ _ _
  have hv : Quiet s0 v := by
    show Quiet s0 (if homing then u else u.abort c .aborted)
    split
    · exact hu
    · exact hu.abort c _
  split
  · exact hv.judgeRelief
  · exact hv

theorem Quiet.strayPulse {s0 s : Part} (h : Quiet s0 s) (c : Channel) : Quiet s0 (s.strayPulse c) := by
  unfold Part.strayPulse
  extract_lets count t
  have ht : Quiet s0 t := h.modMotion c _
  split
  · exact ht.losePosition c
  · exact ht

theorem Quiet.pulse {s0 s : Part} (h : Quiet s0 s) (p : PosChannel) : Quiet s0 (s.pulse p) := by
  unfold Part.pulse
  extract_lets c m
  split
  · extract_lets mv t
    have ht : Quiet s0 t := h.modMotion c _
    split
    · exact ht.endDrive c _
    · split
      · exact ht.endDrive c _
      · exact ht
  · exact h.modMotion c _
  · exact h.strayPulse c

/-! ### Machine/Book.lean -/

theorem Quiet.putHold {s0 s : Part} (h : Quiet s0 s) (c : Channel) (k : Hold) : Quiet s0 (s.putHold c k) := by
  unfold Part.putHold
  extract_lets t
  have ht : Quiet s0 t := h.modBook c (fun e => { e with hold := some k }) (fun _ => rfl) (fun _ => rfl)
  split
  · exact ht.setFanOffset 0
  · exact ht

theorem Quiet.startHold {s0 s : Part} (h : Quiet s0 s) (c : Channel) (r : Requester) : Quiet s0 (s.startHold c r) := by
  unfold Part.startHold
  extract_lets e byService
  split
  · split
    · exact h.putHold c _
    · exact h
  · split
    · exact h.putHold c _
    · exact h
  · exact h

/-- Every entry rebuilt beside its setpoint and its list. -/
theorem Quiet.rebuild {s0 s : Part} (h : Quiet s0 s) (g : Channel → BookEntry)
    (hs : ∀ c, (g c).setpoint = (s.book.get c).setpoint) (hr : ∀ c, (g c).requests = (s.book.get c).requests) :
    Quiet s0 { s with book := .build g } := by
  refine h.other rfl ?_
  simp only [Part.live, Live.mk.injEq]
  refine ⟨trivial, ?_, ?_, trivial, trivial⟩ <;> apply PerChannel.ext_get <;> intro d <;>
    simp only [PerChannel.get_build, hs, hr]

theorem Quiet.removeHolds {s0 s : Part} (h : Quiet s0 s) (who : Holder) : Quiet s0 (s.removeHolds who) := by
  unfold Part.removeHolds
  refine h.rebuild _ ?_ ?_ <;> intro c <;> simp only [Part.entryOf] <;> split <;> first | rfl | (split <;> rfl)

/-- Where an entry is inserted, every other entry stays. -/
theorem mem_insertEntry {e x : Entry} {l : List Entry} : x ∈ insertEntry e l ↔ x = e ∨ x ∈ l := by
  induction l with
  | nil => simp [insertEntry]
  | cons y rest ih =>
    unfold insertEntry
    split
    · simp
    · simp only [List.mem_cons, ih]
      tauto

/-- Inserting an entry of a requester that the list does not have keeps its order (R67). -/
theorem insertEntry_ranked {e : Entry} {l : List Entry} (h : Ranked l) (new : ∀ x ∈ l, x.requester.rank ≠ e.requester.rank) :
    Ranked (insertEntry e l) := by
  induction l with
  | nil => simp [insertEntry, Ranked]
  | cons y rest ih =>
    unfold insertEntry
    rw [Ranked, List.pairwise_cons] at h
    split
    case isTrue hlt =>
      rw [Ranked, List.pairwise_cons]
      refine ⟨?_, List.pairwise_cons.2 h⟩
      intro x hx
      rcases List.mem_cons.1 hx with rfl | hx
      · exact hlt
      · exact Nat.lt_trans (h.1 x hx) hlt
    case isFalse hge =>
      rw [Ranked, List.pairwise_cons]
      refine ⟨?_, ih h.2 fun x hx => new x (List.mem_cons_of_mem _ hx)⟩
      intro x hx
      rcases mem_insertEntry.1 hx with rfl | hx
      · exact Nat.lt_of_le_of_ne (Nat.le_of_not_lt hge) (Ne.symm (new y List.mem_cons_self))
      · exact h.1 x hx

/-- Replacing an entry by one of the same requester keeps the order (R67). -/
theorem replaceEntry_ranked {e : Entry} {l : List Entry} (h : Ranked l) :
    Ranked (l.map fun x => if x.requester.same e.requester then e else x) := by
  rw [Ranked, List.pairwise_map]
  refine h.imp ?_
  intro a b hab
  unfold Requester.same
  split <;> split <;> simp_all

theorem Quiet.listEntry {s0 s : Part} (h : Quiet s0 s) (c : Channel) (e : Entry) : Quiet s0 (s.listEntry c e) := by
  unfold Part.listEntry
  extract_lets listed
  split
  · exact (h.requests c _ replaceEntry_ranked).endEntry c _ _
  case h_2 none =>
    refine h.requests c _ fun r => insertEntry_ranked r ?_
    intro x hx heq
    have := List.find?_eq_none.1 none x hx
    simp [Requester.same, heq] at this

theorem Quiet.commitEntry {s0 s : Part} (h : Quiet s0 s) (c : Channel) (e : Entry) : Quiet s0 (s.commitEntry c e) := by
  unfold Part.commitEntry
  split
  · split
    · exact h.commit c _ _ _
    · exact h
  all_goals exact h

theorem Quiet.takeEntry {s0 s : Part} (h : Quiet s0 s) (c : Channel) (e : Entry) : Quiet s0 (s.takeEntry c e) := by
  unfold Part.takeEntry
  split
  · exact (h.commitEntry c e).handSet c _ _ _ _ _
  · exact h.handJog c _ _ _
  · exact h.handHome _ _ _
  · exact h.handShake _ _ _ _ _
  all_goals exact h

theorem Quiet.homeFirst {s0 s : Part} (h : Quiet s0 s) (p : PosChannel) (e : Entry) : Quiet s0 (s.homeFirst p e) := by
  unfold Part.homeFirst
  extract_lets c t
  have ht : Quiet s0 t := (h.discardEntries c _ _).handHome p _ _
  split
  · exact ht.discardEntries c _ _
  · exact ht

theorem Quiet.deferEntry {s0 s : Part} (h : Quiet s0 s) (c : Channel) (e : Entry) : Quiet s0 (s.deferEntry c e) := by
  unfold Part.deferEntry
  split
  · exact (h.commitEntry c e).recordOutcome c _ _ _
  · exact h.recordOutcome c _ _ _

theorem Quiet.takeHead {s0 s : Part} (h : Quiet s0 s) (c : Channel) (e : Entry) (others : List Entry)
    (list : (s.book.get c).requests = e :: others) : Quiet s0 (s.takeHead c e others) := by
  unfold Part.takeHead
  extract_lets dropHead alone taken
  have hd : Quiet s0 dropHead := h.requests c others fun r => by rw [list] at r; exact (List.pairwise_cons.1 r).2
  have ha : Quiet s0 alone := h.requests c [e] fun _ => List.pairwise_singleton _ _
  have ht : Quiet s0 taken :=
    (Quiet.foldl ha _ _ fun t x ht => ht.endEntry c _ x).requests c [] fun _ => List.Pairwise.nil
  split
  · exact hd.endEntry c _ _
  · split
    · split
      · exact ht.takeEntry c e
      · split
        · exact ht.takeEntry c e
        · exact hd.endEntry c _ _
        · exact hd.endEntry c _ _
        · exact h.homeFirst _ e
    · split
      · split
        · exact ht.takeEntry c e
        · exact ht.deferEntry c e
      · split
        · exact ht.takeEntry c e
        · exact hd.endEntry c _ _
      all_goals exact ht.takeEntry c e

theorem Quiet.takeUpTo {s0 : Part} (n : Nat) : ∀ {s : Part} (c : Channel), Quiet s0 s → Quiet s0 (s.takeUpTo n c) := by
  induction n with
  | zero => exact fun _ h => h
  | succ n ih =>
    intro s c h
    unfold Part.takeUpTo
    split
    · exact h
    case h_2 e others list =>
      split
      · exact ih c (h.takeHead c e others list)
      · exact h

theorem Quiet.take {s0 s : Part} (h : Quiet s0 s) (c : Channel) : Quiet s0 (s.take c) := Quiet.takeUpTo _ c h

theorem Quiet.takeAll {s0 s : Part} (h : Quiet s0 s) (o : Order) : Quiet s0 (s.takeAll o) :=
  Quiet.foldl h _ _ fun _ c ht => ht.take c

theorem Quiet.retarget {s0 s : Part} (h : Quiet s0 s) (c : Channel) (e : Entry) : Quiet s0 (s.retarget c e) := by
  unfold Part.retarget
  exact (h.commitEntry c e).modMotion c _

theorem Quiet.place {s0 s : Part} (h : Quiet s0 s) (c : Channel) (e : Entry) : Quiet s0 (s.place c e).1 := by
  unfold Part.place
  split
  · split
    · exact (h.listEntry c e).take c
    · exact h.listEntry c e
  · split
    · exact h.listEntry c e
    · split
      · exact h
      · split
        · exact ((h.abort c _).listEntry c e).take c
        · split
          · exact h.retarget c e
          · exact ((h.abort c _).listEntry c e).take c

theorem Quiet.postEntry {s0 s : Part} (h : Quiet s0 s) (c : Channel) (e : Entry) : Quiet s0 (s.postEntry c e).1 := by
  unfold Part.postEntry
  split
  · exact h
  · exact h.place c e

theorem Quiet.post {s0 s : Part} (h : Quiet s0 s) (c : Channel) (cause : Cause) (t : Option Int) :
    Quiet s0 (s.post c cause t).1 :=
  h.postEntry c _

theorem Quiet.postPreset {s0 s : Part} (h : Quiet s0 s) (c : Channel) (t : Int) : Quiet s0 (s.postPreset c t) :=
  h.postEntry c _

theorem Quiet.abortMoves {s0 s : Part} (h : Quiet s0 s) (o : Order) (which : Owner → Bool) : Quiet s0 (s.abortMoves o which) := by
  refine Quiet.foldl h _ _ fun t c ht => ?_
  split
  · split
    · exact ht.abort c _
    · exact ht
  · exact ht

theorem Quiet.abortEntries {s0 s : Part} (h : Quiet s0 s) (o : Order) (which : Requester → Bool) :
    Quiet s0 (s.abortEntries o which) :=
  Quiet.foldl h _ _ fun _ c ht => ht.discardEntries c _ _

theorem Quiet.endService {s0 s : Part} (h : Quiet s0 s) (o : Order) (reason : Nat) : Quiet s0 (s.endService o reason) := by
  unfold Part.endService
  split
  · exact (((((h.other rfl rfl : Quiet s0 { s with service := false }).removeHolds _).abortMoves o _).abortEntries o _).raise
      _ _ _ _).takeAll o
  · exact h

theorem Quiet.enterService {s0 s : Part} (h : Quiet s0 s) (o : Order) : Quiet s0 (s.enterService o) := by
  unfold Part.enterService
  exact (((Quiet.foldl (h.other rfl rfl : Quiet s0 { s with service := true }) _ _ fun _ c ht => ht.putHold c _).abortMoves o
    _).abortEntries o _).takeAll o

theorem Quiet.sendBook {s0 s : Part} (h : Quiet s0 s) : Quiet s0 s.sendBook := Quiet.foldl h _ _ fun _ _ ht => ht.send _

end Sys2Proof.Machine
end

