-- ==== Sys2Proof/Laws/QuietBlocks.lean ====
section
/-! SUPPORT. The Override Unit, the Evaluator, the followers, the reactions to a window record and the taking of requests are quiet. -/

namespace Sys2Proof.Machine

/-! ### Machine/Relief.lean -/

theorem Quiet.enterOpening {s0 s : Part} (h : Quiet s0 s) (entry : Nat) (first : Bool) : Quiet s0 (s.enterOpening entry first) := by
  unfold Part.enterOpening
  extract_lets before t o u v w x y
  have hu : Quiet s0 u := by refine Quiet.other (h.setRelief .opening) ?_ ?_ <;> rfl
  exact (((((hu.abort _ _).hand _ _).preemptUnless _ _).raise _ _ _ _).setRestrain _).announceRestrain _

theorem Quiet.handReturn {s0 s : Part} (h : Quiet s0 s) : Quiet s0 s.handReturn := h.handSet _ _ _ _ _ _

theorem Quiet.enterReturning {s0 s : Part} (h : Quiet s0 s) : Quiet s0 s.enterReturning := by
  unfold Part.enterReturning
  extract_lets before t o u v w
  have hu : Quiet s0 u := by refine Quiet.other (h.setRelief .returning) ?_ ?_ <;> rfl
  exact ((hu.startWatch.handReturn.setRestrain _).announceRestrain _).take _

theorem Quiet.disableRelief {s0 s : Part} (h : Quiet s0 s) : Quiet s0 s.disableRelief := by
  unfold Part.disableRelief
  refine Quiet.take ?_ _
  split
  · exact (h.abort _ _).disarm.handReturn
  · exact h.disarm.handReturn
  all_goals first | exact h.disarm | exact h

theorem Quiet.reliefApplied {s0 s : Part} (h : Quiet s0 s) : Quiet s0 s.reliefApplied := by
  unfold Part.reliefApplied
  split
  · exact h.judgeRelief.take _
  · exact h.disableRelief

theorem Quiet.judgeHarvesting {s0 s : Part} (h : Quiet s0 s) (mark : Bool) : Quiet s0 (s.judgeHarvesting mark) := by
  unfold Part.judgeHarvesting
  extract_lets holds t u
  split
  · refine Quiet.setFanOffset ?_ _
    show Quiet s0 (if mark = true then _ else _)
    split <;> exact h.other rfl rfl
  · exact h.other rfl rfl

theorem Quiet.park {s0 s : Part} (h : Quiet s0 s) (p : PosChannel) : Quiet s0 (s.park p) := by
  unfold Part.park
  extract_lets c cal f
  split
  · exact h.handSet _ _ _ _ _ _
  · exact h

theorem Quiet.overrideDisengage {s0 s : Part} (h : Quiet s0 s) (o : Order) : Quiet s0 (s.overrideDisengage o) := by
  unfold Part.overrideDisengage
  extract_lets t u
  have ht : Quiet s0 t := (h.abortMoves o _).disarm
  have hu : Quiet s0 u := by
    show Quiet s0 (if t.shutdown.isSome then t else _)
    split
    · exact ht
    · exact Quiet.foldl ht _ _ fun _ p hp => hp.park p
  exact hu.takeAll o

theorem Quiet.bookDisengage {s0 s : Part} (h : Quiet s0 s) (o : Order) : Quiet s0 (s.bookDisengage o) := h.abortEntries o _

theorem Quiet.bookEngage {s0 s : Part} (h : Quiet s0 s) (o : Order) : Quiet s0 (s.bookEngage o) := by
  refine Quiet.foldl h _ _ fun t p ht => ?_
  split
  · exact ht.post _ _ _
  · exact ht

/-! ### Machine/Figures.lean and Machine/Evaluate.lean -/

theorem Quiet.raiseRuns {s0 s : Part} (h : Quiet s0 s) (l : Latched) : Quiet s0 (s.raiseRuns l) := by
  unfold Part.raiseRuns
  extract_lets silent t
  refine Quiet.foldl (Quiet.foldl h _ _ fun t x ht => ?_) _ _ fun t x ht => ?_
  · split
    · exact ht.raise _ _ _ _
    · exact ht
  · split
    · exact ht.raise _ _ _ _
    · exact ht

theorem Quiet.formEvaluation {s0 s : Part} (h : Quiet s0 s) (r : WindowRecord) : Quiet s0 (s.formEvaluation r) := by
  unfold Part.formEvaluation
  extract_lets before held current averages symptoms e t
  have ht : Quiet s0 t := h.other rfl rfl
  split
  · exact ht.raise _ _ _ _
  · exact ht

theorem Quiet.takeReport {s0 s : Part} (h : Quiet s0 s) (b f n : Nat) : Quiet s0 (s.takeReport b f n) := h.other rfl rfl

theorem Quiet.judgeLoad {s0 s : Part} (h : Quiet s0 s) (r : WindowRecord) : Quiet s0 (s.judgeLoad r) := by
  unfold Part.judgeLoad
  extract_lets before next e t u
  have ht : Quiet s0 t := h.other rfl rfl
  have hu : Quiet s0 u := by
    show Quiet s0 (if t.noticeDue before then t.sendRestrain else t)
    split
    · exact ht.sendRestrain
    · exact ht
  exact hu.other rfl rfl

/-! ### Machine/Followers.lean -/

theorem Quiet.trim {s0 s : Part} (h : Quiet s0 s) : Quiet s0 s.trim := by
  unfold Part.trim
  extract_lets t
  have ht : Quiet s0 t := h.other rfl rfl
  split
  · split
    case h_1 e i _ =>
      have hp := ht.post e.channel .trim (some (t.trimTarget e))
      split
      case h_1 u heq =>
        rw [heq] at hp
        exact (hp.other rfl rfl : Quiet s0 { u with settle := u.params.settleCount }).raise _ _ _ _
      all_goals exact ht
    · exact ht
  · exact ht

theorem Quiet.followRoll {s0 s : Part} (h : Quiet s0 s) (r : WindowRecord) : Quiet s0 (s.followRoll r) := by
  unfold Part.followRoll
  split
  · exact h.post _ _ _
  · exact h

theorem Quiet.trimLouver {s0 s : Part} (h : Quiet s0 s) : Quiet s0 s.trimLouver := by
  unfold Part.trimLouver
  extract_lets e step limit
  split
  · exact h.other rfl rfl
  · exact h

theorem Quiet.limitLouverTrim {s0 s : Part} (h : Quiet s0 s) : Quiet s0 s.limitLouverTrim := h.other rfl rfl

theorem Quiet.followPitch {s0 s : Part} (h : Quiet s0 s) (r : WindowRecord) : Quiet s0 (s.followPitch r) := h.setFanOffset _

theorem Quiet.regulate {s0 s : Part} (h : Quiet s0 s) (r : WindowRecord) (o : Order) : Quiet s0 (s.regulate r o) := by
  refine Quiet.foldl h _ _ fun t c ht => ?_
  split
  · split
    · exact ht.post _ _ _
    · exact ht
  · exact ht

/-! ### Machine/Window.lean -/

theorem Quiet.appendTask {s0 s : Part} (h : Quiet s0 s) (o : Order) (r : WindowRecord) (t : Task) :
    Quiet s0 (s.appendTask o r t) := by
  unfold Part.appendTask
  split
  · exact h.formEvaluation r
  · exact h.judgeLoad r
  · exact h.followRoll r
  · exact h.followPitch r
  · exact h.regulate r o
  · exact h.sendBook
  · exact h.trim
  · exact h.trimLouver
  · exact Quiet.foldl h _ _ fun _ _ ht => ht.send _
  all_goals exact h

theorem Quiet.react {s0 s : Part} (h : Quiet s0 s) (o : Order) (r : WindowRecord) : Quiet s0 (s.react o r) :=
  Quiet.foldl h _ _ fun _ t ht => ht.appendTask o r t

theorem Quiet.reclamp {s0 s : Part} (h : Quiet s0 s) (loaded : Bool) (c : Channel) : Quiet s0 (s.reclamp loaded c) := by
  unfold Part.reclamp
  extract_lets old new t
  have ht : Quiet s0 t := h.putSetpoint c old
  split
  · exact h
  · split
    · exact ht.post _ _ _
    · exact ht

theorem Quiet.applyLoad {s0 s : Part} (h : Quiet s0 s) (slot : Nat) : Quiet s0 (s.applyLoad slot) := by
  unfold Part.applyLoad
  extract_lets t u v st w
  have ht : Quiet s0 t := h.rebuild _ (fun _ => rfl) (fun _ => rfl)
  have hu : Quiet s0 u := ht.removeHolds _
  have hv : Quiet s0 v := by
    show Quiet s0 (if (u.entryOf .fan).mode = .manual then u.setFanOffset 0 else u)
    split
    · exact hu.setFanOffset 0
    · exact hu
  have hw : Quiet s0 w := hv.other rfl rfl
  exact Quiet.foldl hw _ _ fun _ c hc => hc.postPreset c _

theorem Quiet.recoverChannels {s0 s : Part} (h : Quiet s0 s) : Quiet s0 s.recoverChannels := by
  unfold Part.recoverChannels
  split
  · exact h.other rfl rfl
  · exact h

theorem Quiet.bookApplied {s0 s : Part} (h : Quiet s0 s) (o : Order) (mark : Option Nat) : Quiet s0 (s.bookApplied o mark) := by
  unfold Part.bookApplied
  extract_lets t u v
  have hu : Quiet s0 u := (Quiet.foldl h _ _ fun _ c hc => hc.reclamp _ c).updateFanTarget
  refine Quiet.recoverChannels ?_
  show Quiet s0 (match mark with
    | some slot => u.applyLoad slot
    | none => u)
  split
  · exact hu.applyLoad _
  · exact hu

theorem Quiet.applyTask {s0 s : Part} (h : Quiet s0 s) (o : Order) (a : Applied) (t : Task) : Quiet s0 (s.applyTask o a t) := by
  unfold Part.applyTask
  split
  · exact h.bookApplied o _
  · split
    · exact h.judgeHarvesting _
    · exact h
  · split
    · exact h.reliefApplied
    · exact h
  · split
    · exact h.other rfl rfl
    · exact h
  · exact h.limitLouverTrim
  · exact h.raiseIn _ _ _ _ _
  all_goals exact h

/-! ### The taking of requests (Machine/Reception.lean, Machine/Requests.lean) -/

theorem Quiet.judgeRequest {s0 s : Part} (h : Quiet s0 s) (l : Layout) (hd : FrameHeader) (permitted : Bool) (a : Asked)
    (owner : Part → Part) (ho : Quiet s0 (owner s)) : Quiet s0 (s.judgeRequest l hd permitted a owner) := by
  unfold Part.judgeRequest
  split
  · exact h
  · split
    · exact h.reply _ _ _
    · split
      · exact h.reply _ _ _
      · exact ho

theorem Quiet.judgeStatus {s0 s : Part} (h : Quiet s0 s) (hd : FrameHeader) (source : Byte) (n : Nat) (owner : Part → Part)
    (ho : Quiet s0 (owner s)) : Quiet s0 (s.judgeStatus hd source n owner) := by
  unfold Part.judgeStatus
  split
  · exact ho
  · exact h

theorem Quiet.onSetting {s0 s : Part} (h : Quiet s0 s) (hd : FrameHeader) (f : SettingFields) (k : Option SettingKind)
    (place : Part → Requester → Channel → Asked → Part) (hp : ∀ r c a, Quiet s0 (place s r c a)) :
    Quiet s0 (s.onSetting hd f k place) := by
  unfold Part.onSetting
  extract_lets a
  refine h.judgeRequest _ _ _ _ _ ?_
  split
  · exact h
  · split
    · exact h.reply _ _ _
    · exact hp _ _ _

theorem Quiet.replyAccepted {s0 s : Part} (h : Quiet s0 s) (a : Asked) (own carried : Word) (clamped : Bool) :
    Quiet s0 (s.replyAccepted a own carried clamped) := by
  unfold Part.replyAccepted
  split <;> exact h.reply _ _ _

theorem Quiet.placeRequest {s0 s : Part} (h : Quiet s0 s) (r : Requester) (c : Channel) (a : Asked) (k : RequestKind) (tag : Byte)
    (holds : Bool) (answer : Part → Part) (ha : Quiet s0 (answer s)) : Quiet s0 (s.placeRequest r c a k tag holds answer) := by
  unfold Part.placeRequest
  split
  · exact h.reply _ _ _
  · extract_lets t u
    have hu : Quiet s0 u := by
      show Quiet s0 (if holds then t.startHold c r else t)
      split
      · exact Quiet.startHold ha c r
      · exact ha
    exact hu.place c _

theorem Quiet.placeSet {s0 s : Part} (h : Quiet s0 s) (f : SettingFields) (r : Requester) (c : Channel) (a : Asked) :
    Quiet s0 (s.placeSet f r c a) := by
  unfold Part.placeSet
  extract_lets own target
  exact h.placeRequest _ _ _ _ _ _ _ (h.replyAccepted _ _ _ _)

theorem Quiet.armJogTimer {s0 s : Part} (h : Quiet s0 s) (c : Channel) (r : Requester) : Quiet s0 (s.armJogTimer c r) := by
  unfold Part.armJogTimer
  split
  · exact h.startJogTimer c
  · exact h

theorem Quiet.placeJog {s0 s : Part} (h : Quiet s0 s) (f : SettingFields) (r : Requester) (c : Channel) (a : Asked) :
    Quiet s0 (s.placeJog f r c a) := by
  unfold Part.placeJog
  extract_lets d
  split
  · exact (h.reply _ _ _).startJogTimer c
  · split
    · exact h.reply _ _ _
    · exact (h.placeRequest _ _ _ _ _ _ _ (h.reply _ _ _)).armJogTimer c r

theorem Quiet.endJogOf {s0 s : Part} (h : Quiet s0 s) (c : Channel) (r : Requester) : Quiet s0 (s.endJogOf c r) := by
  unfold Part.endJogOf
  refine Quiet.take ?_ c
  split
  · exact h.stopJog c
  · exact h.discardEntries c _ _

theorem Quiet.endJogs {s0 s : Part} (h : Quiet s0 s) (c : Channel) : Quiet s0 (s.endJogs c) := by
  unfold Part.endJogs
  refine Quiet.take (Quiet.discardEntries ?_ c _ _) c
  split
  · exact h.stopJog c
  · exact h

theorem Quiet.placeJogStop {s0 s : Part} (h : Quiet s0 s) (f : SettingFields) (r : Requester) (c : Channel) (a : Asked) :
    Quiet s0 (s.placeJogStop f r c a) :=
  (h.reply _ _ _).endJogOf c r

theorem Quiet.placeHome {s0 s : Part} (h : Quiet s0 s) (f : SettingFields) (r : Requester) (c : Channel) (a : Asked) :
    Quiet s0 (s.placeHome f r c a) :=
  h.placeRequest _ _ _ _ _ _ _ (h.reply _ _ _)

theorem Quiet.placeShake {s0 s : Part} (h : Quiet s0 s) (f : SettingFields) (r : Requester) (c : Channel) (a : Asked) :
    Quiet s0 (s.placeShake f r c a) := by
  unfold Part.placeShake
  extract_lets own amplitude cycles carried
  exact h.placeRequest _ _ _ _ _ _ _ (h.replyAccepted _ _ _ _)

theorem Quiet.applyMode {s0 s : Part} (h : Quiet s0 s) (c : Channel) (op : ModeOp) : Quiet s0 (s.applyMode c op) := by
  unfold Part.applyMode
  split
  · exact h.modBook c (fun e => { e with mode := .auto, hold := none }) (fun _ => rfl) (fun _ => rfl)
  · extract_lets t
    have ht : Quiet s0 t := h.modBook c (fun e => { e with mode := .manual }) (fun _ => rfl) (fun _ => rfl)
    split
    · exact ht.setFanOffset 0
    · exact ht
  · exact h.modBook c (fun e => { e with hold := none }) (fun _ => rfl) (fun _ => rfl)

theorem Quiet.onMode {s0 s : Part} (h : Quiet s0 s) (hd : FrameHeader) (f : ModeFields) (op : Option ModeOp) :
    Quiet s0 (s.onMode hd f op) := by
  unfold Part.onMode
  extract_lets a
  refine h.judgeRequest _ _ _ _ _ ?_
  split
  · exact h.reply _ _ _
  · split
    · exact h.reply _ _ _
    · exact h.reply _ _ _
    · split
      · exact h.reply _ _ _
      · split
        · exact h.reply _ _ _
        · exact (h.reply _ _ _).applyMode _ _

theorem Quiet.judgeDrive {s0 s : Part} (h : Quiet s0 s) (v : SpeedChannel) : Quiet s0 (s.judgeDrive v) := by
  unfold Part.judgeDrive
  split
  · split
    · exact h.endDrive _ _
    · exact h
  · exact h

theorem Quiet.takeSpeed {s0 s : Part} (h : Quiet s0 s) (o : Order) (speed : Nat) :
    Quiet s0 (s.takeSpeed speed o) := by
  unfold Part.takeSpeed
  extract_lets b t u
  have hu : Quiet s0 u := (h.other rfl rfl : Quiet s0 t).judgeHarvesting true
  split
  · exact hu.endService o 1
  · exact hu

theorem Quiet.loseSpeed {s0 s : Part} (h : Quiet s0 s) (o : Order) : Quiet s0 (s.loseSpeed o) := by
  unfold Part.loseSpeed
  exact ((h.other rfl rfl : Quiet s0 { s with bus := { s.bus with speedKnown := false, freshUntil := none } }).judgeHarvesting
    true).endService o 2

theorem Quiet.confirmPlug {s0 s : Part} (h : Quiet s0 s) (first : Bool) : Quiet s0 (s.confirmPlug first) := by
  unfold Part.confirmPlug
  split
  · exact h.enterOpening 1 _
  · exact h.enterOpening 2 _
  all_goals exact h

theorem Quiet.giveUp {s0 s : Part} (h : Quiet s0 s) : Quiet s0 s.giveUp := by
  unfold Part.giveUp
  extract_lets t o u
  have hu : Quiet s0 u := by refine Quiet.other (h.setRelief (.openHeld true)) ?_ ?_ <;> rfl
  exact hu.raise _ _ _ _

end Sys2Proof.Machine
end

