-- ==== Sys2Proof/Laws/Changes.lean ====
section
/-! SUPPORT. What one command can do at all, said once: every command leaves the part `Changes`-related to what it was, a chain of
the changes listed in `Change`. A law that each of them keeps is kept by every step. -/

namespace Sys2Proof.Machine

/-- What a change names before it may write it: the store's contents, the parameter sets, the window number and the history. -/
structure Kept where
  memory : Memory
  pageStates : List PageState
  activeCal : Calibration
  pendingCal : Calibration
  activePreset : Preset
  pendingPreset : Preset
  number : Nat
  history : List WindowRecord

/-- The kept part of a state. -/
def Part.kept (s : Part) : Kept where
  memory := s.store.memory
  pageStates := s.store.pageStates
  activeCal := s.store.activeCal.figures
  pendingCal := s.store.pendingCal.figures
  activePreset := s.store.activePreset
  pendingPreset := s.store.pendingPreset
  number := s.window.number
  history := s.window.history

/-- Every setpoint and the FAN effective target lie within their envelopes. -/
def Part.inEnvelopes (s : Part) : Prop :=
  (∀ c, (s.store.activePreset.envelope.get c).holds (s.book.get c).setpoint)
    ∧ s.store.activePreset.envelope.fan.holds s.fanTarget

/-- One change. -/
inductive Change : Part → Part → Prop where
  /-- A quiet edit. -/
  | edit {s t : Part} (e : Edit s t) : Change s t
  /-- Anything that leaves the kept and the live part as they were, time not running back. -/
  | outer {s t : Part} (kept : t.kept = s.kept) (live : t.live = s.live) (time : s.now ≤ t.now) : Change s t
  /-- The next window started and the record of the closed one appended. -/
  | turn (s : Part) (r : WindowRecord) (same : r.number = s.window.number) :
      Change s ((s.startWindow (nextWindowNumber r.number)).append r)
  /-- Pages of the store written. -/
  | pages (s : Part) (m : Memory) (l : List PageState) (wf : s.store.memory.wf → m.wf)
      (len : l.length = s.store.pageStates.length) :
      Change s { s with store := { s.store with memory := m, pageStates := l } }
  /-- The pending sets written. -/
  | pending (s : Part) (k : CalSet) (p : Preset) (kl : s.store.pendingCal.figures.lawful → k.figures.lawful)
      (ko : s.store.pendingCal.figures.factoryOrdered → k.figures.factoryOrdered)
      (pl : s.store.pendingPreset.lawful → p.lawful) (po : s.store.pendingPreset.envelopesOrdered → p.envelopesOrdered) :
      Change s { s with store := { s.store with pendingCal := k, pendingPreset := p } }
  /-- The pending sets applied, with every reaction to it. -/
  | applied (s t : Part) (q : Quiet s.copySets t)
      (within : s.copySets.store.activePreset.envelopesOrdered → t.inEnvelopes) : Change s t
  /-- The part started anew. -/
  | started (s : Part) (causes : ResetCauses) : Change s (s.startState causes)
  /-- The transmit queue shortened. -/
  | unqueued (s : Part) (l : List Frame) (short : l.length ≤ s.bus.queue.length) :
      Change s { s with bus := { s.bus with queue := l } }

/-- Finitely many changes. -/
abbrev Changes : Part → Part → Prop := Relation.ReflTransGen Change

theorem Quiet.changes {s t u : Part} (q : Quiet t u) (h : Changes s t) : Changes s u := by
  induction q with
  | refl => exact h
  | tail _ e ih => exact ih.tail (.edit e)

theorem Changes.outer {s0 s t : Part} (h : Changes s0 s) (kept : t.kept = s.kept) (live : t.live = s.live)
    (time : s.now ≤ t.now) : Changes s0 t := h.tail (.outer kept live time)

theorem Changes.foldl {α : Type} {s0 s : Part} (h : Changes s0 s) (l : List α) (f : Part → α → Part)
    (hf : ∀ (t : Part) (x : α), Changes s0 t → Changes s0 (f t x)) : Changes s0 (l.foldl f s) := by
  induction l generalizing s with
  | nil => exact h
  | cons x rest ih => exact ih (hf s x h)

/-! ### The queue's commands and time -/

theorem Changes.onEvent {s0 s : Part} (h : Changes s0 s) (dt : Nat) (f : Part → Part)
    (hf : ∀ t, Changes s0 t → Changes s0 (f t)) : Changes s0 (s.onEvent dt f) := by
  have ht : Changes s0 { s with now := s.now + dt } := h.outer rfl rfl (Nat.le_add_right _ _)
  unfold Part.onEvent
  extract_lets t
  split
  · exact hf t ht
  · exact ht

theorem Changes.onExpiry {s0 s : Part} (h : Changes s0 s) (d : Option Nat) (f : Part → Part)
    (hf : ∀ t, Changes s0 t → Changes s0 (f t)) : Changes s0 (s.onExpiry d f) := by
  unfold Part.onExpiry
  split
  · split
    · exact hf _ (h.outer rfl rfl (Nat.le_max_left _ _))
    · exact h
  · exact h

/-! ### The close of a window -/

/-- What a quiet operation keeps of one channel: its setpoint in a given ordered envelope. -/
theorem Edit.setpoint_holds {s t : Part} (e : Edit s t) (c : Channel)
    (o : s.store.activePreset.envelopesOrdered) (h : (s.envelope c).holds (s.book.get c).setpoint) :
    (t.envelope c).holds (t.book.get c).setpoint := by
  have key : ∀ u : Part, u.store.activePreset = s.store.activePreset → (u.book.get c).setpoint = (s.book.get c).setpoint →
      (u.envelope c).holds (u.book.get c).setpoint := by
    intro u hp hs
    unfold Part.envelope Part.params
    rw [hp, hs]
    exact h
  cases e with
  | other still live =>
    refine key t (congrArg (fun x => x.store.activePreset) still) ?_
    have := congrArg (fun x => x.setpoint.get c) live
    simpa only [Part.live, PerChannel.get_build] using this
  | setpoint d x =>
    by_cases hd : c = d
    · subst hd
      unfold Part.envelope Part.params
      simp only [modBook_fields, modBook_book, PerChannel.get_set_self]
      exact clamp_range (o c) x
    · exact key _ rfl (by simp only [modBook_book, PerChannel.get_set_ne _ _ hd])
  | fanTarget => exact key _ rfl rfl
  | requests d l =>
    refine key _ rfl ?_
    simp only [modBook_book, PerChannel.get_set]
    split
    · subst_vars; rfl
    · rfl
  | slots => exact key _ rfl rfl
  | push => exact key _ rfl rfl

theorem Edit.fanTarget_holds {s t : Part} (e : Edit s t) (o : s.store.activePreset.envelopesOrdered)
    (h : (s.envelope .fan).holds s.fanTarget) : (t.envelope .fan).holds t.fanTarget := by
  cases e with
  | other still live =>
    have hp : t.store.activePreset = s.store.activePreset := congrArg (fun x => x.store.activePreset) still
    have hf : t.fanTarget = s.fanTarget := congrArg (·.fanTarget) live
    unfold Part.envelope Part.params
    rw [hp, hf]
    exact h
  | fanTarget x => exact clamp_range (o .fan) x
  | setpoint => exact h
  | requests => exact h
  | slots => exact h
  | push => exact h

theorem Quiet.activePreset {s t : Part} (q : Quiet s t) : t.store.activePreset = s.store.activePreset :=
  congrArg (fun x => x.store.activePreset) q.still_eq

theorem Quiet.setpoint_holds {s t : Part} (q : Quiet s t) (c : Channel) (o : s.store.activePreset.envelopesOrdered)
    (h : (s.envelope c).holds (s.book.get c).setpoint) : (t.envelope c).holds (t.book.get c).setpoint := by
  induction q with
  | refl => exact h
  | tail q e ih => exact e.setpoint_holds c (by rw [Quiet.activePreset q]; exact o) ih

theorem Quiet.fanTarget_holds {s t : Part} (q : Quiet s t) (o : s.store.activePreset.envelopesOrdered)
    (h : (s.envelope .fan).holds s.fanTarget) : (t.envelope .fan).holds t.fanTarget := by
  induction q with
  | refl => exact h
  | tail q e ih => exact e.fanTarget_holds (by rw [Quiet.activePreset q]; exact o) ih


theorem clampToEnvelope_holds {s : Part} (o : s.store.activePreset.envelopesOrdered) (c : Channel) (x : Int) :
    (s.envelope c).holds (s.clampToEnvelope c x) := clamp_range (o c) x

/-- What follows the write of a setpoint in its commitment is quiet. -/
theorem Quiet.afterSetpoint (s : Part) (c : Channel) (v : Int) :
    Quiet (s.modBook c fun e => { e with setpoint := v }) (s.putSetpoint c v) := by
  unfold Part.putSetpoint
  extract_lets old t
  have h : Quiet t t := .refl
  split
  · exact h.updateFanTarget
  · exact (h.drumRaised _).stopIdleWatch
  all_goals exact h

/-- After its reclamp a channel's setpoint lies in its envelope (R59). -/
theorem reclamp_holds {s : Part} (o : s.store.activePreset.envelopesOrdered) (loaded : Bool) (c : Channel) :
    ((s.reclamp loaded c).envelope c).holds ((s.reclamp loaded c).book.get c).setpoint := by
  unfold Part.reclamp
  extract_lets old new t
  have ht : (t.envelope c).holds (t.book.get c).setpoint := by
    refine (Quiet.afterSetpoint s c new).setpoint_holds c o ?_
    unfold Part.envelope Part.params
    simp only [modBook_fields, modBook_book, PerChannel.get_set_self]
    exact clampToEnvelope_holds o c old
  have ot : t.store.activePreset.envelopesOrdered := by
    rw [Quiet.activePreset (Quiet.afterSetpoint s c new)]
    exact o
  split
  · rename_i same
    have := clampToEnvelope_holds o c old
    rw [show s.clampToEnvelope c old = old from same] at this
    exact this
  · split
    · exact (Quiet.post .refl c _ _).setpoint_holds c ot ht
    · exact ht

theorem reclampAll_holds (l : List Channel) (loaded : Bool) : ∀ {s : Part}, s.store.activePreset.envelopesOrdered →
    ∀ c ∈ l, ((l.foldl (fun s c => s.reclamp loaded c) s).envelope c).holds
      ((l.foldl (fun s c => s.reclamp loaded c) s).book.get c).setpoint := by
  induction l with
  | nil => simp
  | cons d rest ih =>
    intro s o c hc
    have step : Quiet s (s.reclamp loaded d) := Quiet.reclamp .refl _ _
    have o' : (s.reclamp loaded d).store.activePreset.envelopesOrdered := by rw [Quiet.activePreset step]; exact o
    rcases List.mem_cons.1 hc with rfl | hc
    · exact (Quiet.foldl .refl rest _ fun _ _ ht => ht.reclamp _ _).setpoint_holds c o' (reclamp_holds o loaded c)
    · exact ih o' c hc

/-- The Setting Book's part of an application brings every setpoint and the FAN target into the envelopes (R59, R60). -/
theorem bookApplied_inEnvelopes {s : Part} (o : s.store.activePreset.envelopesOrdered) (ord : Order) (mark : Option Nat) :
    (s.bookApplied ord mark).inEnvelopes := by
  unfold Part.bookApplied
  extract_lets t u v
  have ht : Quiet s t := Quiet.foldl .refl _ _ fun _ _ h => h.reclamp _ _
  have ot : t.store.activePreset.envelopesOrdered := by rw [Quiet.activePreset ht]; exact o
  have hu : Quiet t u := Quiet.updateFanTarget .refl
  have ou : u.store.activePreset.envelopesOrdered := by rw [Quiet.activePreset hu]; exact ot
  have hv : Quiet u v.recoverChannels := by
    refine Quiet.recoverChannels ?_
    show Quiet u (match mark with
      | some slot => u.applyLoad slot
      | none => u)
    split
    · exact Quiet.applyLoad .refl _
    · exact .refl
  refine ⟨fun c => hv.setpoint_holds c ou (hu.setpoint_holds c ot ?_), hv.fanTarget_holds ou ?_⟩
  · exact reclampAll_holds _ _ o c ((mem_arrange _ _ c).2 (Channel.mem_all c))
  · exact clampToEnvelope_holds ot .fan _

theorem Quiet.inEnvelopes {s t : Part} (q : Quiet s t) (o : s.store.activePreset.envelopesOrdered) (h : s.inEnvelopes) :
    t.inEnvelopes :=
  ⟨fun c => q.setpoint_holds c o (h.1 c), q.fanTarget_holds o h.2⟩

theorem applyTasks_inEnvelopes (l : List Task) (ord : Order) (a : Applied) : ∀ {s : Part},
    s.store.activePreset.envelopesOrdered → (.settingBook ∈ l ∨ s.inEnvelopes) →
    (l.foldl (fun s t => s.applyTask ord a t) s).inEnvelopes := by
  induction l with
  | nil =>
    intro s _ h
    simpa using h
  | cons d rest ih =>
    intro s o h
    have step : Quiet s (s.applyTask ord a d) := Quiet.applyTask .refl _ _ _
    refine ih (by rw [Quiet.activePreset step]; exact o) ?_
    rcases h with h | h
    · rcases List.mem_cons.1 h with rfl | h
      · exact .inr (bookApplied_inEnvelopes o ord _)
      · exact .inl h
    · exact .inr (step.inEnvelopes o h)

theorem Changes.applyParameters {s0 s : Part} (h : Changes s0 s) (o : Order) (n : Nat) : Changes s0 (s.applyParameters o n) := by
  unfold Part.applyParameters
  extract_lets a
  split
  · refine h.tail (.applied s _ (Quiet.foldl .refl _ _ fun _ _ ht => ht.applyTask _ _ _) fun ordered => ?_)
    exact applyTasks_inEnvelopes _ o a ordered (.inl ((mem_arrange _ _ _).2 (by decide)))
  · exact h

theorem Quiet.number {s t : Part} (q : Quiet s t) : t.window.number = s.window.number :=
  congrArg (fun x => x.window.number) q.still_eq

theorem Quiet.history {s t : Part} (q : Quiet s t) : t.window.history = s.window.history :=
  congrArg (fun x => x.window.history) q.still_eq

@[simp] theorem applyParameters_number (s : Part) (o : Order) (n : Nat) :
    (s.applyParameters o n).window.number = s.window.number := by
  unfold Part.applyParameters
  extract_lets a
  split
  · exact Quiet.number (s := s.copySets) (Quiet.foldl .refl _ _ fun _ _ ht => ht.applyTask _ _ _)
  · rfl

theorem Changes.closeWithRecord {s0 s : Part} (h : Changes s0 s) (o : Order) (l : Latched) : Changes s0 (s.closeWithRecord o l) := by
  unfold Part.closeWithRecord
  extract_lets r t u
  have hq : Quiet s (s.raiseRuns l) := Quiet.raiseRuns .refl l
  have ht : Changes s0 t := (hq.changes h).outer rfl rfl le_rfl
  have nt : t.window.number = s.window.number := hq.number
  refine Quiet.changes (Quiet.react .refl o r) ((ht.applyParameters o _).tail (.turn _ r ?_))
  rw [applyParameters_number, nt]
  rfl

theorem Changes.closeDiscarded {s0 s : Part} (h : Changes s0 s) (o : Order) : Changes s0 (s.closeDiscarded o) := by
  unfold Part.closeDiscarded
  extract_lets before t u
  have ht : Changes s0 t := h.applyParameters o _
  have hq : Quiet t u := by
    show Quiet t (if _ then _ else _)
    split
    · exact Quiet.sendRestrain .refl
    · exact .refl
  refine (hq.changes ht).outer ?_ rfl le_rfl
  unfold Part.startWindow Part.kept
  rfl

theorem Changes.closeWindow {s0 s : Part} (h : Changes s0 s) (cause : CloseCause) (o : Order) :
    Changes s0 (s.closeWindow cause o) := by
  unfold Part.closeWindow
  extract_lets l t
  have ht : Changes s0 t := h.outer rfl rfl le_rfl
  split
  · exact ht.closeWithRecord o l
  · exact ht.closeDiscarded o

theorem Changes.separatorTask {s0 s : Part} (h : Changes s0 s) (o : Order) (marks : Bool) (t : Task) :
    Changes s0 (s.separatorTask o marks t) := by
  unfold Part.separatorTask
  split
  · exact h.closeWindow _ o
  · exact Quiet.changes (Quiet.judgeHarvesting .refl _) h
  · split
    · exact Quiet.changes (Quiet.bookEngage .refl o) h
    · exact Quiet.changes (Quiet.bookDisengage .refl o) h
  · split
    · exact Quiet.changes (Quiet.judgeRelief .refl) h
    · exact Quiet.changes (Quiet.overrideDisengage .refl o) h
  all_goals exact h

theorem Changes.changeSeparator {s0 s : Part} (h : Changes s0 s) (engaged : Bool) (o : Order) :
    Changes s0 (s.changeSeparator engaged o) := by
  unfold Part.changeSeparator
  extract_lets c t tasks closesFirst
  exact Changes.foldl (h.outer rfl rfl le_rfl : Changes s0 t) _ _ fun _ x hx => hx.separatorTask o _ x

end Sys2Proof.Machine
end

