-- ==== Sys2Proof/Laws/CutShort.lean ====
section
/-! SUPPORT. What an operation in flight leaves in the store when a fall of the supply or a restart cuts it short (R159;
assumption 8). -/

namespace Sys2Proof.Machine

/-- The one lemma of `Part.dropOp` about the store: it leaves the operation cut short. -/
theorem Part.cutShort_dropOp (s : Part) : s.cutShort s.now s.dropOp.store.memory := by
  refine ⟨fun h => ?_, fun op done torn rest h wf hp nodup below hl => ?_⟩
  · simp only [Part.dropOp, h]
  · have hd : op.done s.now = done.length := by
      rw [hl]
      cases hk : op.kind <;> simp [StoreOp.done, hk, eraseTime, ms]
    have ht : op.pages.getD (op.done s.now) 0 = torn := by simp [hd, hp]
    have he : op.pages.take (op.done s.now) = done := by simp [hd, hp]
    have hm : s.dropOp.store.memory =
        (done.foldl (fun m p => Memory.setPage m p erasedWords) s.store.memory).setPage torn (tornWords torn s.freeIndex) := by
      simp only [Part.dropOp, h, ht, he]
    have torn_lt : torn < pageCount := below torn (by simp [hp])
    have torn_out : torn ∉ done := fun hx => by
      rw [hp] at nodup
      exact (List.nodup_append.mp nodup).2.2 torn hx torn (by simp) rfl
    have wf' := wf_erasePages done wf
    rw [hm]
    refine ⟨?_, fun x hx => ?_, fun a ha => ?_⟩
    · rw [Memory.page_setPage wf' torn_lt (tornWords_length _ _)]
      exact judgePage_tornWords _ _
    · rw [Memory.page_setPage_of_ne wf' (fun e : x = torn => torn_out (e ▸ hx)),
        page_erasePages_of_mem done wf (below x (by simp [hp, hx])) hx]
      exact judgePage_erasedWords x
    · rw [Memory.byte_setPage_of_outside wf', byte_erasePages_of_outside done wf fun x hx => ha x (List.mem_cons_of_mem _ hx)]
      have := ha torn List.mem_cons_self
      simp only [pageBytes]
      omega

end Sys2Proof.Machine
end

