-- ==== Sys2Proof/Laws/Steps.lean ====
section
/-! SUPPORT. Every command changes the part only by `Change`s: the store's operations, start-up and shutdown, the requests, and with
them `exec` itself. -/

namespace Sys2Proof.Machine

/-! ### The store's operations (Machine/Store.lean) -/

theorem Changes.beginOp {s0 s : Part} (h : Changes s0 s) (kind : StoreKind) (pages : List Nat) (image : List Word) (time : Nat) :
    Changes s0 (s.beginOp kind pages image time) := h.outer rfl rfl le_rfl

theorem Changes.readBack {s0 s : Part} (h : Changes s0 s) (page : Nat) (words : List Word) : Changes s0 (s.readBack page words) :=
  h.tail (.pages s _ _ (fun wf => Memory.wf_setPage wf page words) (by simp))

theorem Changes.storeDone {s0 s : Part} (h : Changes s0 s) (kind : StoreKind) (page : Nat) (good : Bool) :
    Changes s0 (s.storeDone kind page good) := Quiet.changes (Quiet.raise .refl _ _ _ _) h

theorem Changes.completeOp {s0 s : Part} (h : Changes s0 s) (kind : StoreKind) (r : ReadBack) (after : Part → Bool → Part)
    (ha : ∀ t good, Changes s0 t → Changes s0 (after t good)) : Changes s0 (s.completeOp kind r after) := by
  unfold Part.completeOp
  split
  · split
    · refine h.onExpiry _ _ fun t ht => ?_
      extract_lets page u good st v
      have hu : Changes s0 u := ht.readBack _ _
      have hv : Changes s0 v := hu.outer rfl rfl le_rfl
      exact ha _ _ (hv.storeDone _ _ _)
    · exact h
  · exact h

theorem Changes.completeWipe {s0 s : Part} (h : Changes s0 s) (r : List (Nat × List Word)) : Changes s0 (s.completeWipe r) := by
  unfold Part.completeWipe
  split
  · split
    · refine h.onExpiry _ _ fun t ht => ?_
      extract_lets u good
      have hu : Changes s0 u := Changes.foldl ht _ _ fun _ _ hx => hx.readBack _ _
      exact (hu.outer rfl rfl le_rfl : Changes s0 { u with store := { u.store with op := none } }).storeDone _ _ _
    · exact h
  · exact h

theorem Changes.dropOp {s0 s : Part} (h : Changes s0 s) : Changes s0 s.dropOp := by
  unfold Part.dropOp
  split
  · extract_lets done torn m
    have ht : Changes s0 { s with store := { s.store with
        memory := m.setPage torn (tornWords torn s.freeIndex), pageStates := s.store.pageStates } } :=
      h.tail (.pages s _ _ (fun wf => Memory.wf_setPage (wf_erasePages _ wf) _ _) rfl)
    exact ht.outer rfl rfl le_rfl
  · exact h

theorem Changes.startPositionWrite {s0 s : Part} (h : Changes s0 s) : Changes s0 s.startPositionWrite := by
  unfold Part.startPositionWrite
  split
  · exact h.beginOp _ _ _ _
  · exact h

theorem Changes.enterShutdown {s0 s : Part} (h : Changes s0 s) (kind : ShutdownKind) (o : Order) :
    Changes s0 (s.enterShutdown kind o) := by
  unfold Part.enterShutdown
  extract_lets t
  have ht : Changes s0 t := h.outer rfl rfl le_rfl
  exact Quiet.changes (((Quiet.abortEntries .refl o _).abortMoves o _).disarm) ht

theorem Changes.release {s0 s : Part} (h : Changes s0 s) : Changes s0 s.release := h.outer rfl rfl le_rfl

theorem Changes.cancelShutdown {s0 s : Part} (h : Changes s0 s) : Changes s0 s.cancelShutdown :=
  Quiet.changes (Quiet.judgeRelief .refl) (h.outer rfl rfl le_rfl : Changes s0 { s with shutdown := none })

theorem Changes.startUp {s0 s : Part} (h : Changes s0 s) (causes : ResetCauses) : Changes s0 (s.startUp causes) := by
  unfold Part.startUp
  extract_lets t u v
  have ht : Changes s0 t := h.dropOp.tail (.started _ causes)
  have hv : Quiet t v := by
    show Quiet t (if _ then _ else _)
    split
    · exact Quiet.raise .refl _ _ _ _
    · exact Quiet.foldl (Quiet.raise .refl _ _ _ _) _ _ fun _ _ hx => hx.raise _ _ _ _
  split
  · exact hv.changes ht
  · exact (hv.changes ht).enterShutdown _ _

theorem Changes.endCommanded {s0 s : Part} (h : Changes s0 s) : Changes s0 s.endCommanded := by
  unfold Part.endCommanded
  split
  · exact h.startUp _
  · exact h.release

theorem Changes.recordWritten {s0 s : Part} (h : Changes s0 s) : Changes s0 s.recordWritten := by
  unfold Part.recordWritten
  split
  · exact h.endCommanded
  · split
    · exact h.cancelShutdown.beginOp _ _ _ _
    · exact h.release
  · exact h

theorem Changes.deadlinePasses {s0 s : Part} (h : Changes s0 s) : Changes s0 s.deadlinePasses := by
  unfold Part.deadlinePasses
  split
  · exact h.endCommanded
  · exact h.release
  · exact h

theorem Changes.keyBack {s0 s : Part} (h : Changes s0 s) : Changes s0 s.keyBack := by
  unfold Part.keyBack
  split
  · exact h.startUp _
  · exact h
  · split
    · exact h.outer rfl rfl le_rfl
    · exact h.cancelShutdown
  all_goals exact h

theorem Changes.keyDown {s0 s : Part} (h : Changes s0 s) (o : Order) : Changes s0 (s.keyDown o) := by
  unfold Part.keyDown
  split
  · exact h.enterShutdown _ _
  · exact h.outer rfl rfl le_rfl
  all_goals exact h

/-! ### The sensor lines (Machine/SensorCommands.lean) -/

theorem Changes.setGate {s0 s : Part} (h : Changes s0 s) : Changes s0 s.setGate := h.outer rfl rfl le_rfl

theorem Changes.closePeriod {s0 s : Part} (h : Changes s0 s) (v : SpeedChannel) (p : Nat) : Changes s0 (s.closePeriod v p) := by
  unfold Part.closePeriod
  extract_lets rpm t u w
  have hu : Changes s0 u := h.outer rfl rfl le_rfl
  have hw : Changes s0 w := Quiet.changes (Quiet.judgeDrive .refl v) hu
  split
  · exact Quiet.changes (Quiet.judgeDrumPeriod .refl _) hw
  · exact hw

theorem Changes.qualifyingEdge {s0 s : Part} (h : Changes s0 s) (v : SpeedChannel) : Changes s0 (s.qualifyingEdge v) := by
  unfold Part.qualifyingEdge
  extract_lets period t u
  have ht : Changes s0 t := h.outer rfl rfl le_rfl
  have hu : Changes s0 u := by
    show Changes s0 (match (s.capture.speed.get v).closedPeriod s.now with
      | some p => t.closePeriod v p
      | none => t)
    split
    · exact ht.closePeriod v _
    · exact ht
  split
  · exact Quiet.changes (Quiet.startWatch .refl) hu
  · exact hu

/-! ### Requests of the store and of service mode (Machine/Requests.lean) -/

theorem Changes.judgeRequest {s0 s : Part} (h : Changes s0 s) (l : Layout) (hd : FrameHeader) (permitted : Bool) (a : Asked)
    (owner : Part → Part) (ho : Changes s0 (owner s)) : Changes s0 (s.judgeRequest l hd permitted a owner) := by
  unfold Part.judgeRequest
  split
  · exact h
  · split
    · exact Quiet.changes (Quiet.reply .refl _ _ _) h
    · split
      · exact Quiet.changes (Quiet.reply .refl _ _ _) h
      · exact ho

theorem Changes.reply {s0 s : Part} (h : Changes s0 s) (a : Asked) (r : Result) (v : Word) : Changes s0 (s.reply a r v) :=
  Quiet.changes (Quiet.reply .refl a r v) h

theorem slotPreset_lawful {s : Part} {slot : Nat} {p : Preset} (h : s.slotPreset slot = some p) : p.lawful := readPreset_lawful h

theorem Changes.applyPreset {s0 s : Part} (h : Changes s0 s) (op : PresetOp) (slot : Nat) (cal : Bool) :
    Changes s0 (s.applyPreset op slot cal) := by
  unfold Part.applyPreset
  split
  · split
    · rename_i p hp
      have l := slotPreset_lawful hp
      have ht : Changes s0 { s with store := { s.store with pendingCal := s.store.pendingCal, pendingPreset := p } } :=
        h.tail (.pending s s.store.pendingCal p id id (fun _ => l) fun _ => l.envelopesOrdered)
      exact ht.outer rfl rfl le_rfl
    · exact h
  all_goals exact h.outer rfl rfl le_rfl

theorem Changes.onPreset {s0 s : Part} (h : Changes s0 s) (hd : FrameHeader) (f : PresetFields) (op : Option PresetOp) :
    Changes s0 (s.onPreset hd f op) := by
  unfold Part.onPreset
  extract_lets a cabMay
  refine h.judgeRequest _ _ _ _ _ ?_
  split
  · exact h.reply _ _ _
  · exact (h.reply _ _ _).applyPreset _ _ _
  · exact h

theorem Changes.replyAccepted {s0 s : Part} (h : Changes s0 s) (a : Asked) (own carried : Word) (clamped : Bool) :
    Changes s0 (s.replyAccepted a own carried clamped) := Quiet.changes (Quiet.replyAccepted .refl _ _ _ _) h

theorem Changes.onParam {s0 s : Part} (h : Changes s0 s) (hd : FrameHeader) (f : ParamFields)
    (op : Option (Part → Param → Asked → Part))
    (ho : ∀ g ∈ op, ∀ p a, Param.ofNumber f.number.toNat = some p → Changes s0 (g s p a)) : Changes s0 (s.onParam hd f op) := by
  unfold Part.onParam
  extract_lets a
  refine h.judgeRequest _ _ _ _ _ ?_
  split
  · exact h.reply _ _ _
  · split
    · rename_i g p hp
      exact ho _ rfl _ _ hp
    all_goals exact h.reply _ _ _

theorem Changes.writeParam {s0 s : Part} (h : Changes s0 s) (value : Word) {n : Nat} {p : Param} (hp : Param.ofNumber n = some p)
    (a : Asked) : Changes s0 (s.writeParam value p a) := by
  unfold Part.writeParam
  split
  · exact h.reply _ _ _
  · split
    · exact h.reply _ _ _
    · extract_lets v
      split
      · exact h.reply _ _ _
      · rename_i t ht
        refine Changes.replyAccepted ?_ _ _ _ _
        unfold Part.writePending at ht
        split at ht
        · simp only [Option.map_eq_some_iff] at ht
          obtain ⟨c, hc, rfl⟩ := ht
          exact h.tail (.pending s { s.store.pendingCal with figures := c } s.store.pendingPreset
            (fun l => Calibration.write_lawful l hc) (fun o => Calibration.write_factoryOrdered o hc) id id)
        · simp only [Option.map_eq_some_iff] at ht
          obtain ⟨q, hq, rfl⟩ := ht
          exact h.tail (.pending s s.store.pendingCal q id id (fun l => Preset.write_lawful l (Param.ofNumber_mem hp) hq)
            fun o => Preset.write_envelopesOrdered o hq)

theorem Changes.onService {s0 s : Part} (h : Changes s0 s) (hd : FrameHeader) (tag : Byte) (cabMay : Bool)
    (f : Part → Asked → Part) (hf : ∀ a, Changes s0 (f s a)) : Changes s0 (s.onService hd tag cabMay f) := by
  unfold Part.onService
  extract_lets a
  refine h.judgeRequest _ _ _ _ _ ?_
  split
  · exact h.reply _ _ _
  · exact hf _

theorem Changes.judgeStatus {s0 s : Part} (h : Changes s0 s) (hd : FrameHeader) (source : Byte) (n : Nat) (owner : Part → Part)
    (ho : Changes s0 (owner s)) : Changes s0 (s.judgeStatus hd source n owner) := by
  unfold Part.judgeStatus
  split
  · exact ho
  · exact h

theorem Changes.rejoin {s0 s : Part} (h : Changes s0 s) : Changes s0 s.rejoin := by
  unfold Part.rejoin
  extract_lets stale
  have ht : Changes s0 { s with bus := { s.bus with queue := s.bus.queue.filter fun f => !stale f } } :=
    h.tail (.unqueued s _ (List.length_filter_le _ _))
  exact ht.outer rfl rfl le_rfl

/-! ### Every command -/

theorem goOn_changes {s t : State} {f : Part → Part} (h : s.goOn f = .next t) (hf : Changes s.part (f s.part)) :
    Changes s.part t.part := by
  unfold State.goOn at h
  cases h
  exact hf

theorem Changes.lines {s0 s : Part} (h : Changes s0 s) (l : Lines) : Changes s0 { s with lines := l } :=
  h.outer rfl rfl le_rfl

theorem Changes.clock {s0 s : Part} (h : Changes s0 s) (dt : Nat) : Changes s0 { s with now := s.now + dt } :=
  h.outer rfl rfl (Nat.le_add_right _ _)

/-- An event's quiet effect. -/
theorem event_changes (s : Part) (dt : Nat) (f : Part → Part) (hf : ∀ t, Quiet t (f t)) : Changes s (s.onEvent dt f) :=
  Changes.onEvent .refl dt f fun t ht => (hf t).changes ht

/-- An expiry's quiet effect. -/
theorem expiry_changes (s : Part) (d : Option Nat) (f : Part → Part) (hf : ∀ t, Quiet t (f t)) : Changes s (s.onExpiry d f) :=
  Changes.onExpiry .refl d f fun t ht => (hf t).changes ht

theorem execLossEdge_changes {dt : Nat} {input : LossInput} {s t : State}
    (h : execLossEdge dt input s = .next t) : Changes s.part t.part := by
  refine goOn_changes h ?_
  exact Changes.onEvent .refl _ _ fun t ht => ht.outer rfl rfl le_rfl

theorem execSpeedEdge_changes {dt : Nat} {input : SpeedChannel} {edge : Edge} {s t : State}
    (h : execSpeedEdge dt input edge s = .next t) : Changes s.part t.part := by
  refine goOn_changes h ?_
  refine Changes.onEvent .refl _ _ fun t ht => ?_
  split
  · exact ht.qualifyingEdge _
  · exact ht

theorem execPwmEdge_changes {dt : Nat} {input : PwmInput} {edge : Edge} {s t : State}
    (h : execPwmEdge dt input edge s = .next t) : Changes s.part t.part := by
  refine goOn_changes h ?_
  exact Changes.onEvent .refl _ _ fun t ht => ht.outer rfl rfl le_rfl

theorem execTailChange_changes {dt : Nat} {active : Bool} {s t : State}
    (h : execTailChange dt active s = .next t) : Changes s.part t.part := by
  refine goOn_changes h ?_
  exact Changes.onEvent (Changes.lines .refl { s.part.lines with tail := active }) _ _ fun t ht => ht.setGate

theorem execSepLevelChange_changes {dt : Nat} {engaged : Bool} {s t : State}
    (h : execSepLevelChange dt engaged s = .next t) : Changes s.part t.part := by
  refine goOn_changes h ?_
  split
  · exact Changes.onEvent .refl _ _ fun t ht => ht
  · exact Changes.onEvent (Changes.lines .refl { s.part.lines with sep := engaged }) _ _ fun t ht => ht.outer rfl rfl le_rfl

theorem execSepQualifyExpiry_changes {order : Order} {s t : State}
    (h : execSepQualifyExpiry order s = .next t) : Changes s.part t.part := by
  refine goOn_changes h ?_
  exact Changes.onExpiry .refl _ _ fun t ht => ht.changeSeparator _ _

theorem execFeedbackPulse_changes {dt : Nat} {input : PosChannel} {s t : State}
    (h : execFeedbackPulse dt input s = .next t) : Changes s.part t.part := by
  refine goOn_changes h ?_
  exact event_changes _ _ _ fun t => (Quiet.pulse .refl _).take _

theorem execKeyFalls_changes {dt : Nat} {order : Order} {s t : State}
    (h : execKeyFalls dt order s = .next t) : Changes s.part t.part := by
  refine goOn_changes h ?_
  exact Changes.onEvent (Changes.lines .refl { s.part.lines with key := false }) _ _ fun t ht => ht.keyDown _

theorem execKeyReturns_changes {dt : Nat} {s t : State} (h : execKeyReturns dt s = .next t) : Changes s.part t.part := by
  refine goOn_changes h ?_
  have ht : Changes s.part { s.part with now := s.part.now + dt, lines := { s.part.lines with key := true } } :=
    (Changes.lines .refl { s.part.lines with key := true }).clock dt
  exact ht.keyBack

theorem execPowerOn_changes {dt : Nat} {s t : State} (h : execPowerOn dt s = .next t) : Changes s.part t.part := by
  refine goOn_changes h ?_
  exact (Changes.clock .refl dt).startUp _

theorem execSupplyDip_changes {dt : Nat} {s t : State} (h : execSupplyDip dt s = .next t) : Changes s.part t.part := by
  refine goOn_changes h ?_
  have ht := Changes.clock (s := s.part) .refl dt
  dsimp only
  split
  · exact ht
  · exact ht.startUp _

theorem execWindowTimerExpiry_changes {order : Order} {s t : State}
    (h : execWindowTimerExpiry order s = .next t) : Changes s.part t.part := by
  refine goOn_changes h ?_
  exact Changes.onExpiry .refl _ _ fun t ht => ht.closeWindow _ _

theorem execHoldTimerExpiry_changes {channel : Channel} {s t : State}
    (h : execHoldTimerExpiry channel s = .next t) : Changes s.part t.part := by
  refine goOn_changes h ?_
  exact expiry_changes _ _ _ fun t => Quiet.modBook .refl _ _ (fun _ => rfl) fun _ => rfl

theorem execJogRefreshExpiry_changes {channel : Channel} {s t : State}
    (h : execJogRefreshExpiry channel s = .next t) : Changes s.part t.part := by
  refine goOn_changes h ?_
  refine expiry_changes _ _ _ fun t => Quiet.endJogs ?_ _
  exact Quiet.other .refl rfl rfl

theorem execGroundSpeedFreshnessExpiry_changes {order : Order} {s t : State}
    (h : execGroundSpeedFreshnessExpiry order s = .next t) : Changes s.part t.part := by
  refine goOn_changes h ?_
  exact expiry_changes _ _ _ fun t => Quiet.loseSpeed .refl _

theorem execCoastTimerExpiry_changes {channel : PosChannel} {first : Bool} {s t : State}
    (h : execCoastTimerExpiry channel s first = .next t) : Changes s.part t.part := by
  refine goOn_changes h ?_
  exact expiry_changes _ _ _ fun t => ((Quiet.coastEnds .refl _).preemptUnless _ _).take _

theorem execSettleTimerExpiry_changes {channel : SpeedChannel} {s t : State}
    (h : execSettleTimerExpiry channel s = .next t) : Changes s.part t.part := by
  refine goOn_changes h ?_
  exact expiry_changes _ _ _ fun t => (Quiet.settleEnds .refl _).take _

theorem execStallTimerExpiry_changes {channel : PosChannel} {s t : State}
    (h : execStallTimerExpiry channel s = .next t) : Changes s.part t.part := by
  refine goOn_changes h ?_
  exact expiry_changes _ _ _ fun t => Quiet.endDrive .refl _ _

theorem execMaximumDriveTimeExpiry_changes {channel : SpeedChannel} {s t : State}
    (h : execMaximumDriveTimeExpiry channel s = .next t) : Changes s.part t.part := by
  refine goOn_changes h ?_
  exact expiry_changes _ _ _ fun t => (Quiet.modMotion .refl _ _).endDrive _ _

theorem execDrumWatchTimerExpiry_changes {s t : State} (h : execDrumWatchTimerExpiry s = .next t) : Changes s.part t.part := by
  refine goOn_changes h ?_
  exact expiry_changes _ _ _ fun t => (Quiet.startWatch .refl).slowPeriod

theorem execConfirmTimerExpiry_changes {first : Bool} {s t : State} (h : execConfirmTimerExpiry s first = .next t) : Changes s.part t.part := by
  refine goOn_changes h ?_
  exact expiry_changes _ _ _ fun t => Quiet.confirmPlug .refl _

theorem execRecoverTimerExpiry_changes {s t : State} (h : execRecoverTimerExpiry s = .next t) : Changes s.part t.part := by
  refine goOn_changes h ?_
  exact expiry_changes _ _ _ fun t => Quiet.enterReturning .refl

theorem execGiveUpTimerExpiry_changes {s t : State} (h : execGiveUpTimerExpiry s = .next t) : Changes s.part t.part := by
  refine goOn_changes h ?_
  exact expiry_changes _ _ _ fun t => Quiet.giveUp .refl

theorem execDeadlineTimerExpiry_changes {s t : State} (h : execDeadlineTimerExpiry s = .next t) : Changes s.part t.part := by
  refine goOn_changes h ?_
  exact Changes.onExpiry .refl _ _ fun t ht => ht.deadlinePasses

theorem execPositionWriteStart_changes {s t : State} (h : execPositionWriteStart s = .next t) : Changes s.part t.part := by
  refine goOn_changes h ?_
  exact Changes.onEvent .refl _ _ fun t ht => ht.startPositionWrite

theorem execSaveCompletes_changes {readBack : ReadBack} {s t : State}
    (h : execSaveCompletes readBack s = .next t) : Changes s.part t.part := by
  refine goOn_changes h ?_
  exact Changes.completeOp .refl _ _ _ fun t _ ht => ht

theorem execEraseCompletes_changes {readBack : ReadBack} {s t : State}
    (h : execEraseCompletes readBack s = .next t) : Changes s.part t.part := by
  refine goOn_changes h ?_
  exact Changes.completeOp .refl _ _ _ fun t _ ht => ht

theorem execWipeCompletes_changes {readBack : List (Nat × List Word)} {s t : State}
    (h : execWipeCompletes readBack s = .next t) : Changes s.part t.part := by
  refine goOn_changes h ?_
  exact Changes.completeWipe .refl _

theorem execSaveCalCompletes_changes {readBack : ReadBack} {s t : State}
    (h : execSaveCalCompletes readBack s = .next t) : Changes s.part t.part := by
  refine goOn_changes h ?_
  refine Changes.completeOp .refl _ _ _ fun t good ht => ?_
  split
  · exact ht.outer rfl rfl le_rfl
  · exact ht

theorem execLockCalCompletes_changes {readBack : ReadBack} {s t : State}
    (h : execLockCalCompletes readBack s = .next t) : Changes s.part t.part := by
  refine goOn_changes h ?_
  refine Changes.completeOp .refl _ _ _ fun t good ht => ?_
  split
  · exact ht.outer rfl rfl le_rfl
  · exact ht

theorem execPositionWriteCompletes_changes {readBack : ReadBack} {s t : State}
    (h : execPositionWriteCompletes readBack s = .next t) : Changes s.part t.part := by
  refine goOn_changes h ?_
  exact Changes.completeOp .refl _ _ _ fun t _ ht => ht.recordWritten

theorem execPositionEraseCompletes_changes {readBack : ReadBack} {s t : State}
    (h : execPositionEraseCompletes readBack s = .next t) : Changes s.part t.part := by
  refine goOn_changes h ?_
  exact Changes.completeOp .refl _ _ _ fun t _ ht => ht

theorem execSet_changes {dt : Nat} {header : FrameHeader} {fields : SettingFields} {s t : State}
    (h : execSet dt header fields s = .next t) : Changes s.part t.part := by
  refine goOn_changes h ?_
  exact event_changes _ _ _ fun t => Quiet.onSetting .refl _ _ _ _ fun _ _ _ => Quiet.placeSet .refl _ _ _ _

theorem execJogStart_changes {dt : Nat} {header : FrameHeader} {fields : SettingFields} {s t : State}
    (h : execJogStart dt header fields s = .next t) : Changes s.part t.part := by
  refine goOn_changes h ?_
  exact event_changes _ _ _ fun t => Quiet.onSetting .refl _ _ _ _ fun _ _ _ => Quiet.placeJog .refl _ _ _ _

theorem execJogStop_changes {dt : Nat} {header : FrameHeader} {fields : SettingFields} {s t : State}
    (h : execJogStop dt header fields s = .next t) : Changes s.part t.part := by
  refine goOn_changes h ?_
  exact event_changes _ _ _ fun t => Quiet.onSetting .refl _ _ _ _ fun _ _ _ => Quiet.placeJogStop .refl _ _ _ _

theorem execHome_changes {dt : Nat} {header : FrameHeader} {fields : SettingFields} {s t : State}
    (h : execHome dt header fields s = .next t) : Changes s.part t.part := by
  refine goOn_changes h ?_
  exact event_changes _ _ _ fun t => Quiet.onSetting .refl _ _ _ _ fun _ _ _ => Quiet.placeHome .refl _ _ _ _

theorem execShake_changes {dt : Nat} {header : FrameHeader} {fields : SettingFields} {s t : State}
    (h : execShake dt header fields s = .next t) : Changes s.part t.part := by
  refine goOn_changes h ?_
  exact event_changes _ _ _ fun t => Quiet.onSetting .refl _ _ _ _ fun _ _ _ => Quiet.placeShake .refl _ _ _ _

theorem execAuto_changes {dt : Nat} {header : FrameHeader} {fields : ModeFields} {s t : State}
    (h : execAuto dt header fields s = .next t) : Changes s.part t.part := by
  refine goOn_changes h ?_
  exact event_changes _ _ _ fun t => Quiet.onMode .refl _ _ _

theorem execManual_changes {dt : Nat} {header : FrameHeader} {fields : ModeFields} {s t : State}
    (h : execManual dt header fields s = .next t) : Changes s.part t.part := by
  refine goOn_changes h ?_
  exact event_changes _ _ _ fun t => Quiet.onMode .refl _ _ _

theorem execReleaseHold_changes {dt : Nat} {header : FrameHeader} {fields : ModeFields} {s t : State}
    (h : execReleaseHold dt header fields s = .next t) : Changes s.part t.part := by
  refine goOn_changes h ?_
  exact event_changes _ _ _ fun t => Quiet.onMode .refl _ _ _

theorem execLoad_changes {dt : Nat} {header : FrameHeader} {fields : PresetFields} {s t : State}
    (h : execLoad dt header fields s = .next t) : Changes s.part t.part := by
  refine goOn_changes h ?_
  exact Changes.onEvent .refl _ _ fun t ht => ht.onPreset _ _ _

theorem execSave_changes {dt : Nat} {header : FrameHeader} {fields : PresetFields} {s t : State}
    (h : execSave dt header fields s = .next t) : Changes s.part t.part := by
  refine goOn_changes h ?_
  exact Changes.onEvent .refl _ _ fun t ht => ht.onPreset _ _ _

theorem execErase_changes {dt : Nat} {header : FrameHeader} {fields : PresetFields} {s t : State}
    (h : execErase dt header fields s = .next t) : Changes s.part t.part := by
  refine goOn_changes h ?_
  exact Changes.onEvent .refl _ _ fun t ht => ht.onPreset _ _ _

theorem execWipe_changes {dt : Nat} {header : FrameHeader} {fields : PresetFields} {s t : State}
    (h : execWipe dt header fields s = .next t) : Changes s.part t.part := by
  refine goOn_changes h ?_
  exact Changes.onEvent .refl _ _ fun t ht => ht.onPreset _ _ _

theorem execLockCal_changes {dt : Nat} {header : FrameHeader} {fields : PresetFields} {s t : State}
    (h : execLockCal dt header fields s = .next t) : Changes s.part t.part := by
  refine goOn_changes h ?_
  exact Changes.onEvent .refl _ _ fun t ht => ht.onPreset _ _ _

theorem execInhibit_changes {dt : Nat} {header : FrameHeader} {fields : PresetFields} {s t : State}
    (h : execInhibit dt header fields s = .next t) : Changes s.part t.part := by
  refine goOn_changes h ?_
  exact Changes.onEvent .refl _ _ fun t ht => ht.onPreset _ _ _

theorem execSaveCal_changes {dt : Nat} {header : FrameHeader} {fields : PresetFields} {s t : State}
    (h : execSaveCal dt header fields s = .next t) : Changes s.part t.part := by
  refine goOn_changes h ?_
  exact Changes.onEvent .refl _ _ fun t ht => ht.onPreset _ _ _

theorem execParamRead_changes {dt : Nat} {header : FrameHeader} {fields : ParamFields} {s t : State}
    (h : execParamRead dt header fields s = .next t) : Changes s.part t.part := by
  refine goOn_changes h ?_
  refine Changes.onEvent .refl _ _ fun t ht => ht.onParam _ _ _ fun g hg p a _ => ?_
  cases hg
  exact ht.reply _ _ _

theorem execParamWrite_changes {dt : Nat} {header : FrameHeader} {fields : ParamFields} {s t : State}
    (h : execParamWrite dt header fields s = .next t) : Changes s.part t.part := by
  refine goOn_changes h ?_
  refine Changes.onEvent .refl _ _ fun t ht => ht.onParam _ _ _ fun g hg p a hp => ?_
  cases hg
  exact ht.writeParam _ hp _

theorem execEnter_changes {dt : Nat} {header : FrameHeader} {tag : Byte} {order : Order} {s t : State}
    (h : execEnter dt header tag order s = .next t) : Changes s.part t.part := by
  refine goOn_changes h ?_
  refine event_changes _ _ _ fun t => ?_
  unfold Part.onService
  refine Quiet.judgeRequest .refl _ _ _ _ _ ?_
  dsimp only
  split
  · exact Quiet.reply .refl _ _ _
  · split
    · split
      · exact Quiet.reply .refl _ _ _
      · exact (Quiet.reply .refl _ _ _).enterService _
    · exact Quiet.reply .refl _ _ _

theorem execLeave_changes {dt : Nat} {header : FrameHeader} {tag : Byte} {s t : State}
    (h : execLeave dt header tag s = .next t) : Changes s.part t.part := by
  refine goOn_changes h ?_
  refine Changes.onEvent .refl _ _ fun t ht => ht.onService _ _ _ _ fun a => ?_
  have hr := ht.reply a .accepted 0
  dsimp only
  split
  · exact Quiet.changes (Quiet.removeHolds .refl _) (hr.outer rfl rfl le_rfl : Changes s.part { t.reply a .accepted 0 with service := false })
  · exact hr

theorem execRestart_changes {dt : Nat} {header : FrameHeader} {tag : Byte} {order : Order} {s t : State}
    (h : execRestart dt header tag order s = .next t) : Changes s.part t.part := by
  refine goOn_changes h ?_
  exact Changes.onEvent .refl _ _ fun t ht => ht.onService _ _ _ _ fun a => (ht.reply _ _ _).enterShutdown _ _

theorem execClearCauses_changes {dt : Nat} {header : FrameHeader} {tag : Byte} {s t : State}
    (h : execClearCauses dt header tag s = .next t) : Changes s.part t.part := by
  refine goOn_changes h ?_
  exact Changes.onEvent .refl _ _ fun t ht => ht.onService _ _ _ _ fun a => (ht.reply _ _ _).outer rfl rfl le_rfl

theorem execWindowRestart_changes {dt : Nat} {header : FrameHeader} {tag : Byte} {order : Order} {s t : State}
    (h : execWindowRestart dt header tag order s = .next t) : Changes s.part t.part := by
  refine goOn_changes h ?_
  exact Changes.onEvent .refl _ _ fun t ht => ht.onService _ _ _ _ fun a => (ht.reply _ _ _).closeWindow _ _

theorem execBookQuery_changes {dt : Nat} {header : FrameHeader} {s t : State}
    (h : execBookQuery dt header s = .next t) : Changes s.part t.part := by
  refine goOn_changes h ?_
  refine event_changes _ _ _ fun t => Quiet.judgeRequest .refl _ _ _ _ _ ?_
  split
  · exact Quiet.reply .refl _ _ _
  · exact Quiet.sendBook .refl

theorem execMotionStatus_changes {dt : Nat} {header : FrameHeader} {speed : Word} {order : Order} {s t : State}
    (h : execMotionStatus dt header speed order s = .next t) : Changes s.part t.part := by
  refine goOn_changes h ?_
  exact event_changes _ _ _ fun t => Quiet.judgeStatus .refl _ _ _ _ (Quiet.takeSpeed .refl _ _)

theorem execQualityReport_changes {dt : Nat} {header : FrameHeader} {broken foreign samples : Word} {s t : State}
    (h : execQualityReport dt header broken foreign samples s = .next t) : Changes s.part t.part := by
  refine goOn_changes h ?_
  exact event_changes _ _ _ fun t => Quiet.judgeStatus .refl _ _ _ _ (Quiet.takeReport .refl _ _ _)

theorem execUnknownKindFrame_changes {dt : Nat} {header : FrameHeader} {kind : BitVec 10} {s t : State}
    (h : execUnknownKindFrame dt header kind s = .next t) : Changes s.part t.part := by
  refine goOn_changes h ?_
  refine event_changes _ _ _ fun t => ?_
  split
  · exact Quiet.reply .refl _ _ _
  · exact .refl

theorem execFrameTransmitted_changes {dt : Nat} {s t : State}
    (h : execFrameTransmitted dt s = .next t) : Changes s.part t.part := by
  refine goOn_changes h ?_
  refine Changes.onEvent .refl _ _ fun t ht => ?_
  split
  · exact ht.tail (.unqueued t _ (by simp))
  · exact ht

theorem execTransmissionFailure_changes {dt : Nat} {s t : State}
    (h : execTransmissionFailure dt s = .next t) : Changes s.part t.part := by
  refine goOn_changes h ?_
  exact event_changes _ _ _ fun t => .refl

theorem execBusOff_changes {dt : Nat} {s t : State} (h : execBusOff dt s = .next t) : Changes s.part t.part := by
  refine goOn_changes h ?_
  exact event_changes _ _ _ fun t => Quiet.other .refl rfl rfl

theorem execBusOffSilenceExpiry_changes {s t : State} (h : execBusOffSilenceExpiry s = .next t) : Changes s.part t.part := by
  refine goOn_changes h ?_
  exact Changes.onExpiry .refl _ _ fun t ht => ht.rejoin

theorem execPowerLoss_changes {dt : Nat} {s t : State} (h : execPowerLoss dt s = .next t) : Changes s.part t.part := by
  refine goOn_changes h ?_
  have ht := Changes.clock (s := s.part) .refl dt
  exact ht.dropOp.outer rfl rfl le_rfl

theorem execUnknownOperation_changes {dt : Nat} {header : FrameHeader} {request : UnknownRequest} {s t : State}
    (h : execUnknownOperation dt header request s = .next t) : Changes s.part t.part := by
  refine goOn_changes h ?_
  refine Changes.onEvent .refl _ _ fun t ht => ?_
  cases request with
  | setting _ f => exact Quiet.changes (Quiet.onSetting .refl _ _ _ _ fun _ _ _ => .refl) ht
  | mode _ f => exact Quiet.changes (Quiet.onMode .refl _ _ _) ht
  | preset _ f => exact ht.onPreset _ _ _
  | param _ f => exact ht.onParam _ _ _ fun g hg => by simp at hg
  | service _ tag => exact ht.onService _ _ _ _ fun a => ht.reply _ _ _

/-- Every command changes the part by changes alone. -/
theorem exec_changes {c : Instr} {s t : State} (h : exec c s = .next t) : Changes s.part t.part := by
  cases c with
  | lossEdge _ _ => exact execLossEdge_changes h
  | speedEdge _ _ _ => exact execSpeedEdge_changes h
  | pwmEdge _ _ _ => exact execPwmEdge_changes h
  | tailChange _ _ => exact execTailChange_changes h
  | sepLevelChange _ _ => exact execSepLevelChange_changes h
  | sepQualifyExpiry _ => exact execSepQualifyExpiry_changes h
  | feedbackPulse _ _ => exact execFeedbackPulse_changes h
  | keyFalls _ _ => exact execKeyFalls_changes h
  | keyReturns _ => exact execKeyReturns_changes h
  | powerOn _ => exact execPowerOn_changes h
  | supplyDip _ => exact execSupplyDip_changes h
  | windowTimerExpiry _ => exact execWindowTimerExpiry_changes h
  | holdTimerExpiry _ => exact execHoldTimerExpiry_changes h
  | jogRefreshExpiry _ => exact execJogRefreshExpiry_changes h
  | groundSpeedFreshnessExpiry _ => exact execGroundSpeedFreshnessExpiry_changes h
  | coastTimerExpiry _ _ => exact execCoastTimerExpiry_changes h
  | settleTimerExpiry _ => exact execSettleTimerExpiry_changes h
  | stallTimerExpiry _ => exact execStallTimerExpiry_changes h
  | maximumDriveTimeExpiry _ => exact execMaximumDriveTimeExpiry_changes h
  | drumWatchTimerExpiry => exact execDrumWatchTimerExpiry_changes h
  | confirmTimerExpiry _ => exact execConfirmTimerExpiry_changes h
  | recoverTimerExpiry => exact execRecoverTimerExpiry_changes h
  | giveUpTimerExpiry => exact execGiveUpTimerExpiry_changes h
  | deadlineTimerExpiry => exact execDeadlineTimerExpiry_changes h
  | positionWriteStart => exact execPositionWriteStart_changes h
  | saveCompletes _ => exact execSaveCompletes_changes h
  | eraseCompletes _ => exact execEraseCompletes_changes h
  | wipeCompletes _ => exact execWipeCompletes_changes h
  | saveCalCompletes _ => exact execSaveCalCompletes_changes h
  | lockCalCompletes _ => exact execLockCalCompletes_changes h
  | positionWriteCompletes _ => exact execPositionWriteCompletes_changes h
  | positionEraseCompletes _ => exact execPositionEraseCompletes_changes h
  | set _ _ _ => exact execSet_changes h
  | jogStart _ _ _ => exact execJogStart_changes h
  | jogStop _ _ _ => exact execJogStop_changes h
  | home _ _ _ => exact execHome_changes h
  | shake _ _ _ => exact execShake_changes h
  | auto _ _ _ => exact execAuto_changes h
  | manual _ _ _ => exact execManual_changes h
  | releaseHold _ _ _ => exact execReleaseHold_changes h
  | load _ _ _ => exact execLoad_changes h
  | save _ _ _ => exact execSave_changes h
  | erase _ _ _ => exact execErase_changes h
  | wipe _ _ _ => exact execWipe_changes h
  | lockCal _ _ _ => exact execLockCal_changes h
  | inhibit _ _ _ => exact execInhibit_changes h
  | saveCal _ _ _ => exact execSaveCal_changes h
  | paramRead _ _ _ => exact execParamRead_changes h
  | paramWrite _ _ _ => exact execParamWrite_changes h
  | enter _ _ _ _ => exact execEnter_changes h
  | leave _ _ _ => exact execLeave_changes h
  | restart _ _ _ _ => exact execRestart_changes h
  | clearCauses _ _ _ => exact execClearCauses_changes h
  | windowRestart _ _ _ _ => exact execWindowRestart_changes h
  | bookQuery _ _ => exact execBookQuery_changes h
  | motionStatus _ _ _ _ => exact execMotionStatus_changes h
  | qualityReport _ _ _ _ _ => exact execQualityReport_changes h
  | unknownKindFrame _ _ _ => exact execUnknownKindFrame_changes h
  | frameTransmitted _ => exact execFrameTransmitted_changes h
  | transmissionFailure _ => exact execTransmissionFailure_changes h
  | busOff _ => exact execBusOff_changes h
  | busOffSilenceExpiry => exact execBusOffSilenceExpiry_changes h
  | powerLoss _ => exact execPowerLoss_changes h
  | unknownOperation _ _ _ => exact execUnknownOperation_changes h

end Sys2Proof.Machine
end

