-- ==== Sys2Proof/Laws/Kept.lean ====
section
/-! SUPPORT. The laws of Safety.lean, change by change: what each of a command's changes keeps. -/

namespace Sys2Proof.Machine

/-! ### The transmit queue (R176) -/

theorem evictOldestPeriodic_length {l rest : List Frame} (h : evictOldestPeriodic l = some rest) :
    rest.length + 1 = l.length := by
  induction l generalizing rest with
  | nil => simp [evictOldestPeriodic] at h
  | cons f tail ih =>
    unfold evictOldestPeriodic at h
    split at h
    · simp only [Option.some.injEq] at h
      subst h
      rfl
    · simp only [Option.map_eq_some_iff] at h
      obtain ⟨r, hr, rfl⟩ := h
      simp only [List.length_cons, ih hr]

theorem evictBehindHead_length {l rest : List Frame} (h : evictBehindHead l = some rest) : rest.length + 1 = l.length := by
  cases l with
  | nil => simp [evictBehindHead] at h
  | cons f tail =>
    simp only [evictBehindHead, Option.map_eq_some_iff] at h
    obtain ⟨r, hr, rfl⟩ := h
    simp only [List.length_cons, evictOldestPeriodic_length hr]

/-- A queued frame never makes the queue longer than its capacity. -/
theorem Bus.push_length (b : Bus) (f : Frame) (h : b.queue.length ≤ queueCapacity) : (b.push f).queue.length ≤ queueCapacity := by
  unfold Bus.push
  split
  · simp only [List.length_append, List.length_cons, List.length_nil]
    omega
  · split
    · exact h
    · split
      · rename_i rest hr
        have := evictBehindHead_length hr
        simp only [List.length_append, List.length_cons, List.length_nil]
        omega
      · exact h

theorem Edit.queueLaw {s t : Part} (e : Edit s t) (h : s.queueLaw) : t.queueLaw := by
  cases e with
  | other _ live =>
    have : t.bus.queue = s.bus.queue := congrArg (·.queue) live
    unfold Part.queueLaw
    rw [this]
    exact h
  | push f => exact Bus.push_length _ f h
  | setpoint => exact h
  | fanTarget => exact h
  | requests => exact h
  | slots => exact h

/-- A law that every edit keeps is kept by a quiet operation. -/
theorem Quiet.keeps {L : Part → Prop} (step : ∀ s t : Part, Edit s t → L s → L t) {s t : Part} (q : Quiet s t) (h : L s) : L t := by
  induction q with
  | refl => exact h
  | tail _ e ih => exact step _ _ e ih

/-- A law that every change keeps is kept by a command. -/
theorem Changes.keeps {L : Part → Prop} (step : ∀ s t : Part, Change s t → L s → L t) {s t : Part} (q : Changes s t) (h : L s) :
    L t := by
  induction q with
  | refl => exact h
  | tail _ e ih => exact step _ _ e ih

theorem Change.queueLaw {s t : Part} (e : Change s t) (h : s.queueLaw) : t.queueLaw := by
  cases e with
  | edit e => exact e.queueLaw h
  | outer _ live =>
    have : t.bus.queue = s.bus.queue := congrArg (·.queue) live
    unfold Part.queueLaw
    rw [this]
    exact h
  | turn => unfold Part.queueLaw Part.append; exact h
  | pages => exact h
  | pending => exact h
  | applied _ q => exact Quiet.keeps (L := Part.queueLaw) (fun _ _ e => e.queueLaw) q h
  | started => exact Nat.zero_le _
  | unqueued l short => exact Nat.le_trans short h

/-! ### The drive slots (R127) -/

theorem Edit.slotLaw {s t : Part} (e : Edit s t) (h : s.slotLaw) : t.slotLaw := by
  unfold Part.slotLaw at *
  cases e with
  | other _ live =>
    have : t.slots = s.slots := congrArg (·.slots) live
    rw [this]
    exact h
  | slots l few => exact Nat.le_trans few (by omega)
  | push => exact h
  | setpoint => exact h
  | fanTarget => exact h
  | requests => exact h

theorem Change.slotLaw {s t : Part} (e : Change s t) (h : s.slotLaw) : t.slotLaw := by
  cases e with
  | edit e => exact e.slotLaw h
  | outer _ live =>
    have : t.slots = s.slots := congrArg (·.slots) live
    unfold Part.slotLaw
    rw [this]
    exact h
  | turn => unfold Part.slotLaw Part.append; exact h
  | pages => exact h
  | pending => exact h
  | applied _ q => exact Quiet.keeps (L := Part.slotLaw) (fun _ _ e => e.slotLaw) q h
  | started => exact Nat.zero_le _
  | unqueued => exact h

/-! ### The Request Lists (R67) -/

theorem Edit.listLaw {s t : Part} (e : Edit s t) (h : s.listLaw) : t.listLaw := by
  have same : ∀ u : Part, (∀ c, (u.book.get c).requests = (s.book.get c).requests) → u.listLaw := fun u hu c => by
    rw [hu c]
    exact h c
  cases e with
  | other _ live =>
    refine same t fun c => ?_
    have := congrArg (fun x => x.requests.get c) live
    simpa only [Part.live, PerChannel.get_build] using this
  | requests c l ranked =>
    intro d
    simp only [modBook_book, PerChannel.get_set]
    split
    · exact ranked (h c)
    · exact h d
  | setpoint c x =>
    refine same _ fun d => ?_
    simp only [modBook_book, PerChannel.get_set]
    split
    · subst_vars; rfl
    · rfl
  | slots => exact h
  | push => exact h
  | fanTarget => exact h

theorem startState_requests (s : Part) (causes : ResetCauses) (c : Channel) :
    ((s.startState causes).book.get c).requests = [] := by
  simp only [Part.startState, PerChannel.get_build, StartReading.entry]
  split <;> rfl

theorem Change.listLaw {s t : Part} (e : Change s t) (h : s.listLaw) : t.listLaw := by
  cases e with
  | edit e => exact e.listLaw h
  | outer _ live =>
    intro c
    have := congrArg (fun x => x.requests.get c) live
    simp only [Part.live, PerChannel.get_build] at this
    rw [this]
    exact h c
  | turn => unfold Part.listLaw Part.append; exact h
  | pages => exact h
  | pending => exact h
  | applied _ q => exact Quiet.keeps (L := Part.listLaw) (fun _ _ e => e.listLaw) q h
  | started => exact fun c => by rw [startState_requests]; exact List.Pairwise.nil
  | unqueued => exact h

/-! ### The store (R158) -/

theorem Edit.kept {s t : Part} (e : Edit s t) : t.kept = s.kept := by
  have h := e.still_eq
  simp only [Part.kept, Kept.mk.injEq]
  exact ⟨congrArg (·.store.memory) h, congrArg (·.store.pageStates) h, congrArg (·.store.activeCal.figures) h,
    congrArg (·.store.pendingCal.figures) h, congrArg (·.store.activePreset) h, congrArg (·.store.pendingPreset) h,
    congrArg (·.window.number) h, congrArg (·.window.history) h⟩

theorem Quiet.kept {s t : Part} (q : Quiet s t) : t.kept = s.kept := by
  induction q with
  | refl => rfl
  | tail _ e ih => rw [e.kept, ih]

theorem storeLaw_of_kept {s t : Part} (e : t.kept = s.kept) (h : s.storeLaw) : t.storeLaw := by
  have hm : t.store.memory = s.store.memory := congrArg (·.memory) e
  have hp : t.store.pageStates = s.store.pageStates := congrArg (·.pageStates) e
  unfold Part.storeLaw
  rw [hm, hp]
  exact h

theorem Change.storeLaw {s t : Part} (e : Change s t) (h : s.storeLaw) : t.storeLaw := by
  cases e with
  | edit e => exact storeLaw_of_kept e.kept h
  | outer kept => exact storeLaw_of_kept kept h
  | turn => unfold Part.storeLaw Part.append; exact h
  | pages m l wf len => exact ⟨wf h.1, len.trans h.2⟩
  | pending => exact h
  | applied _ q => exact storeLaw_of_kept (s := s.copySets) q.kept h
  | started => exact ⟨h.1, by simp [Part.startState, Memory.startReading, Memory.judge, pageCount]⟩
  | unqueued => exact h

/-! ### The Window History (R13, R21) -/

theorem appendRecord_length {l : List WindowRecord} (r : WindowRecord) (h : l.length ≤ historyLength) :
    (appendRecord l r).length ≤ historyLength := by
  unfold appendRecord
  extract_lets kept
  simp only [List.length_drop, List.length_append, List.length_cons, List.length_nil]
  omega

theorem historyLaw_of_kept {s t : Part} (e : t.kept = s.kept) (h : s.historyLaw) : t.historyLaw := by
  have hn : t.window.number = s.window.number := congrArg (·.number) e
  have hh : t.window.history = s.window.history := congrArg (·.history) e
  unfold Part.historyLaw
  rw [hn, hh]
  exact h

theorem appendRecord_suffix (l : List WindowRecord) (r : WindowRecord) : ∃ k, appendRecord l r =
    (if r.number = 1 then [] else l).drop k ++ [r] := by
  unfold appendRecord historyLength
  extract_lets kept
  refine ⟨kept.length + 1 - 16, ?_⟩
  rw [List.drop_append_of_le_length (by omega)]

theorem Change.historyLaw {s t : Part} (e : Change s t) (h : s.historyLaw) : t.historyLaw := by
  cases e with
  | edit e => exact historyLaw_of_kept e.kept h
  | outer kept => exact historyLaw_of_kept kept h
  | turn r same =>
    obtain ⟨len, chain, last, range, lo, hi⟩ := h
    simp only [Part.historyLaw, append_history, append_number, startWindow_number, startWindow_history]
    have next : 1 ≤ nextWindowNumber r.number ∧ nextWindowNumber r.number ≤ lastWindowNumber := by
      unfold nextWindowNumber lastWindowNumber at *
      split <;> omega
    refine ⟨appendRecord_length r len, ?_, ?_, ?_, next.1, next.2⟩
    · obtain ⟨k, hk⟩ := appendRecord_suffix s.window.history r
      rw [hk]
      split
      · simp
      · rename_i hr
        refine List.IsChain.append (chain.drop k) (by simp) ?_
        intro x hx y hy
        have hx' : s.window.history.getLast? = some x := by
          rw [List.getLast?_drop] at hx
          split at hx
          · simp at hx
          · exact hx
        have hn := last x hx'
        simp only [List.head?_cons, Option.mem_def, Option.some.injEq] at hy
        subst hy
        rw [same, hn]
        unfold nextWindowNumber
        split
        · rename_i e
          rw [hn, nextWindowNumber, if_pos e] at same
          exact absurd same hr
        · rfl
    · obtain ⟨k, hk⟩ := appendRecord_suffix s.window.history r
      rw [hk]
      simp
    · obtain ⟨k, hk⟩ := appendRecord_suffix s.window.history r
      rw [hk]
      intro x hx
      simp only [List.mem_append, List.mem_singleton] at hx
      rcases hx with hx | rfl
      · split at hx
        · simp at hx
        · exact range x (List.mem_of_mem_drop hx)
      · rw [same]
        exact ⟨lo, hi⟩
  | pages => exact h
  | pending => exact h
  | applied _ q => exact historyLaw_of_kept (s := s.copySets) q.kept h
  | started => simp [Part.historyLaw, Part.startState, WindowUnit.reset, lastWindowNumber]
  | unqueued => exact h

/-! ### Time -/

theorem Edit.now {s t : Part} (e : Edit s t) : t.now = s.now := congrArg (·.now) e.still_eq

theorem Change.now_le {s t : Part} (e : Change s t) : s.now ≤ t.now := by
  cases e with
  | edit e => exact le_of_eq e.now.symm
  | outer _ _ time => exact time
  | turn => unfold Part.append; exact le_rfl
  | pages => exact le_rfl
  | pending => exact le_rfl
  | applied _ q =>
    have : t.now = s.copySets.now := congrArg (·.now) q.still_eq
    exact le_of_eq this.symm
  | started => exact le_rfl
  | unqueued => exact le_rfl

/-! ### The parameter sets (R164) -/

theorem parameterLaw_of_kept {s t : Part} (e : t.kept = s.kept) (h : s.parameterLaw) : t.parameterLaw := by
  have h1 : t.store.activePreset = s.store.activePreset := congrArg (·.activePreset) e
  have h2 : t.store.pendingPreset = s.store.pendingPreset := congrArg (·.pendingPreset) e
  have h3 : t.store.activeCal.figures = s.store.activeCal.figures := congrArg (·.activeCal) e
  have h4 : t.store.pendingCal.figures = s.store.pendingCal.figures := congrArg (·.pendingCal) e
  unfold Part.parameterLaw
  rw [h1, h2, h3, h4]
  exact h

theorem startReading_cal_lawful (m : Memory) : m.startReading.cal.figures.lawful := by
  simp only [Memory.startReading]
  split
  · exact readCalibration_lawful _
  · exact Calibration.default_lawful

theorem presetOf_lawful {m : Memory} {states : List PageState} {slot : Nat} {p : Preset} (h : m.presetOf states slot = some p) :
    p.lawful := by
  unfold Memory.presetOf at h
  split at h
  · exact readPreset_lawful h
  · simp at h

/-- The preset that start-up makes active: a lawful set with its envelopes clamped to the calibration's factory limits. -/
theorem startReading_preset (m : Memory) :
    ∃ p : Preset, p.lawful ∧ m.startReading.preset = p.clampEnvelopes m.startReading.cal.figures.factory := by
  have hk := startReading_cal_lawful m
  unfold Memory.startReading at *
  extract_lets states calValid cal record loaded at hk ⊢
  have key : ∀ x ∈ loaded, x.2.lawful := by
    intro x hx
    have hx' : (match record.bind (·.slot) with
      | some n => (m.presetOf states n).map fun p => (n, p)
      | none => none) = some x := hx
    split at hx'
    · simp only [Option.map_eq_some_iff] at hx'
      obtain ⟨p, hp, rfl⟩ := hx'
      exact presetOf_lawful hp
    · simp at hx'
  clear_value loaded
  cases loaded with
  | none => exact ⟨_, Preset.fallback_lawful hk, rfl⟩
  | some x => exact ⟨x.2, key x rfl, rfl⟩

theorem startReading_preset_lawful (m : Memory) : m.startReading.preset.lawful := by
  obtain ⟨p, hp, e⟩ := startReading_preset m
  rw [e]
  exact Preset.clampEnvelopes_lawful hp (startReading_cal_lawful m)

theorem Change.parameterLaw {s t : Part} (e : Change s t) (h : s.parameterLaw) : t.parameterLaw := by
  cases e with
  | edit e => exact parameterLaw_of_kept e.kept h
  | outer kept => exact parameterLaw_of_kept kept h
  | turn => unfold Part.parameterLaw Part.append; exact h
  | pages => exact h
  | pending k p kl _ pl => exact ⟨h.1, pl h.2.1, h.2.2.1, kl h.2.2.2⟩
  | applied _ q =>
    refine parameterLaw_of_kept (s := s.copySets) q.kept ?_
    have := Preset.clampEnvelopes_lawful h.2.1 h.2.2.2
    exact ⟨this, this, h.2.2.2, h.2.2.2⟩
  | started =>
    have hp := startReading_preset_lawful s.store.memory
    have hk := startReading_cal_lawful s.store.memory
    exact ⟨hp, hp, hk, hk⟩
  | unqueued => exact h

/-! ### The setpoints (R57) -/

/-- The part of `Part.settingLaw` that the sets alone carry. -/
def Part.limitLaw (s : Part) : Prop :=
  (∀ c, (s.store.activeCal.figures.factory.get c).holds (s.store.activePreset.envelope.get c).min
      ∧ (s.store.activeCal.figures.factory.get c).holds (s.store.activePreset.envelope.get c).max)
    ∧ s.store.activePreset.envelopesOrdered ∧ s.store.pendingPreset.envelopesOrdered
    ∧ s.store.activeCal.figures.factoryOrdered ∧ s.store.pendingCal.figures.factoryOrdered

theorem settingLaw_iff (s : Part) : s.settingLaw ↔ s.inEnvelopes ∧ s.limitLaw := by
  unfold Part.settingLaw Part.inEnvelopes Part.limitLaw
  tauto

theorem limitLaw_of_kept {s t : Part} (e : t.kept = s.kept) (h : s.limitLaw) : t.limitLaw := by
  have h1 : t.store.activePreset = s.store.activePreset := congrArg (·.activePreset) e
  have h2 : t.store.pendingPreset = s.store.pendingPreset := congrArg (·.pendingPreset) e
  have h3 : t.store.activeCal.figures = s.store.activeCal.figures := congrArg (·.activeCal) e
  have h4 : t.store.pendingCal.figures = s.store.pendingCal.figures := congrArg (·.pendingCal) e
  unfold Part.limitLaw
  rw [h1, h2, h3, h4]
  exact h

theorem inEnvelopes_of_outer {s t : Part} (kept : t.kept = s.kept) (live : t.live = s.live) (h : s.inEnvelopes) : t.inEnvelopes := by
  have h1 : t.store.activePreset = s.store.activePreset := congrArg (·.activePreset) kept
  have h2 : t.fanTarget = s.fanTarget := congrArg (·.fanTarget) live
  unfold Part.inEnvelopes
  rw [h1, h2]
  refine ⟨fun c => ?_, h.2⟩
  have := congrArg (fun x => x.setpoint.get c) live
  simp only [Part.live, PerChannel.get_build] at this
  rw [this]
  exact h.1 c

/-- After start-up every setpoint lies in its envelope (R57, R169). -/
theorem startState_inEnvelopes (s : Part) (causes : ResetCauses) : (s.startState causes).inEnvelopes := by
  have o : s.store.memory.startReading.preset.envelopesOrdered := (startReading_preset_lawful _).envelopesOrdered
  have entry : ∀ c, (s.store.memory.startReading.preset.envelope.get c).holds (s.store.memory.startReading.entry c).setpoint := by
    intro c
    unfold StartReading.entry
    extract_lets e
    split <;> exact clamp_range (o c) _
  refine ⟨fun c => ?_, entry .fan⟩
  simp only [Part.startState, PerChannel.get_build]
  exact entry c

theorem Change.settingLaw {s t : Part} (e : Change s t) (h : s.settingLaw) : t.settingLaw := by
  rw [settingLaw_iff] at *
  obtain ⟨hi, hl⟩ := h
  cases e with
  | edit e => exact ⟨Quiet.inEnvelopes (.single e) hl.2.1 hi, limitLaw_of_kept e.kept hl⟩
  | outer kept live => exact ⟨inEnvelopes_of_outer kept live hi, limitLaw_of_kept kept hl⟩
  | turn => unfold Part.inEnvelopes Part.limitLaw Part.append; exact ⟨hi, hl⟩
  | pages => exact ⟨hi, hl⟩
  | pending k p _ ko _ po => exact ⟨hi, hl.1, hl.2.1, po hl.2.2.1, hl.2.2.2.1, ko hl.2.2.2.2⟩
  | applied _ q within =>
    have w := Preset.clampEnvelopes_within hl.2.2.1 hl.2.2.2.2
    have o : s.copySets.store.activePreset.envelopesOrdered := fun c => (w c).2.2
    exact ⟨within o, limitLaw_of_kept (s := s.copySets) q.kept
      ⟨fun c => ⟨(w c).1, (w c).2.1⟩, o, o, hl.2.2.2.2, hl.2.2.2.2⟩⟩
  | started =>
    refine ⟨startState_inEnvelopes _ _, ?_⟩
    obtain ⟨p, hp, e⟩ := startReading_preset s.store.memory
    have hk := (startReading_cal_lawful s.store.memory).factoryOrdered
    have o := (startReading_preset_lawful s.store.memory).envelopesOrdered
    have w := Preset.clampEnvelopes_within hp.envelopesOrdered hk
    rw [← e] at w
    exact ⟨fun c => ⟨(w c).1, (w c).2.1⟩, o, o, hk, hk⟩
  | unqueued => exact ⟨hi, hl⟩

end Sys2Proof.Machine
end

