-- ==== Sys2Proof/Laws/PerInstr.lean ====
section
/-! SUPPORT. Facts said of every command by name. `FrameLength`: a well-formed command that is a frame carries at most 8 data bytes
(10 10.1, assumption 30). -/

namespace Sys2Proof.Laws

theorem frameLength_ofHeader {h : FrameHeader} (w : h.wf = true) : ∀ k ∈ some h, k.length ≤ 8 := fun _ e =>
  Option.some.inj e ▸ of_decide_eq_true w

theorem frameLength_ofBoth {h : FrameHeader} {b : Bool} (w : (h.wf && b) = true) : ∀ k ∈ some h, k.length ≤ 8 :=
  frameLength_ofHeader (Bool.and_eq_true_iff.1 w).1

end Sys2Proof.Laws

namespace Sys2Proof.Laws.FrameLength

/-- A well-formed command's frame, where it is one, carries at most 8 data bytes. -/
def Statement (c : Instr) : Prop := c.wf = true → ∀ h ∈ Machine.frameHeader c, h.length ≤ 8

theorem lossEdge (dt : Nat) (input : LossInput) : Statement (.lossEdge dt input) :=
  fun _ _ e => nomatch e

theorem speedEdge (dt : Nat) (input : SpeedChannel) (edge : Edge) : Statement (.speedEdge dt input edge) :=
  fun _ _ e => nomatch e

theorem pwmEdge (dt : Nat) (input : PwmInput) (edge : Edge) : Statement (.pwmEdge dt input edge) :=
  fun _ _ e => nomatch e

theorem tailChange (dt : Nat) (active : Bool) : Statement (.tailChange dt active) :=
  fun _ _ e => nomatch e

theorem sepLevelChange (dt : Nat) (engaged : Bool) : Statement (.sepLevelChange dt engaged) :=
  fun _ _ e => nomatch e

theorem sepQualifyExpiry (order : Order) : Statement (.sepQualifyExpiry order) :=
  fun _ _ e => nomatch e

theorem feedbackPulse (dt : Nat) (input : PosChannel) : Statement (.feedbackPulse dt input) :=
  fun _ _ e => nomatch e

theorem keyFalls (dt : Nat) (order : Order) : Statement (.keyFalls dt order) :=
  fun _ _ e => nomatch e

theorem keyReturns (dt : Nat) : Statement (.keyReturns dt) :=
  fun _ _ e => nomatch e

theorem powerOn (dt : Nat) : Statement (.powerOn dt) :=
  fun _ _ e => nomatch e

theorem supplyDip (dt : Nat) : Statement (.supplyDip dt) :=
  fun _ _ e => nomatch e

theorem windowTimerExpiry (order : Order) : Statement (.windowTimerExpiry order) :=
  fun _ _ e => nomatch e

theorem holdTimerExpiry (channel : Channel) : Statement (.holdTimerExpiry channel) :=
  fun _ _ e => nomatch e

theorem jogRefreshExpiry (channel : Channel) : Statement (.jogRefreshExpiry channel) :=
  fun _ _ e => nomatch e

theorem groundSpeedFreshnessExpiry (order : Order) : Statement (.groundSpeedFreshnessExpiry order) :=
  fun _ _ e => nomatch e

theorem coastTimerExpiry (channel : PosChannel) (releaseFirst : Bool) : Statement (.coastTimerExpiry channel releaseFirst) :=
  fun _ _ e => nomatch e

theorem settleTimerExpiry (channel : SpeedChannel) : Statement (.settleTimerExpiry channel) :=
  fun _ _ e => nomatch e

theorem stallTimerExpiry (channel : PosChannel) : Statement (.stallTimerExpiry channel) :=
  fun _ _ e => nomatch e

theorem maximumDriveTimeExpiry (channel : SpeedChannel) : Statement (.maximumDriveTimeExpiry channel) :=
  fun _ _ e => nomatch e

theorem drumWatchTimerExpiry : Statement (.drumWatchTimerExpiry) :=
  fun _ _ e => nomatch e

theorem confirmTimerExpiry (releaseFirst : Bool) : Statement (.confirmTimerExpiry releaseFirst) :=
  fun _ _ e => nomatch e

theorem recoverTimerExpiry : Statement (.recoverTimerExpiry) :=
  fun _ _ e => nomatch e

theorem giveUpTimerExpiry : Statement (.giveUpTimerExpiry) :=
  fun _ _ e => nomatch e

theorem deadlineTimerExpiry : Statement (.deadlineTimerExpiry) :=
  fun _ _ e => nomatch e

theorem positionWriteStart : Statement (.positionWriteStart) :=
  fun _ _ e => nomatch e

theorem saveCompletes (readBack : ReadBack) : Statement (.saveCompletes readBack) :=
  fun _ _ e => nomatch e

theorem eraseCompletes (readBack : ReadBack) : Statement (.eraseCompletes readBack) :=
  fun _ _ e => nomatch e

theorem wipeCompletes (readBack : List (Nat × List Word)) : Statement (.wipeCompletes readBack) :=
  fun _ _ e => nomatch e

theorem saveCalCompletes (readBack : ReadBack) : Statement (.saveCalCompletes readBack) :=
  fun _ _ e => nomatch e

theorem lockCalCompletes (readBack : ReadBack) : Statement (.lockCalCompletes readBack) :=
  fun _ _ e => nomatch e

theorem positionWriteCompletes (readBack : ReadBack) : Statement (.positionWriteCompletes readBack) :=
  fun _ _ e => nomatch e

theorem positionEraseCompletes (readBack : ReadBack) : Statement (.positionEraseCompletes readBack) :=
  fun _ _ e => nomatch e

theorem set (dt : Nat) (header : FrameHeader) (fields : SettingFields) : Statement (.set dt header fields) :=
  frameLength_ofHeader

theorem jogStart (dt : Nat) (header : FrameHeader) (fields : SettingFields) : Statement (.jogStart dt header fields) :=
  frameLength_ofHeader

theorem jogStop (dt : Nat) (header : FrameHeader) (fields : SettingFields) : Statement (.jogStop dt header fields) :=
  frameLength_ofHeader

theorem home (dt : Nat) (header : FrameHeader) (fields : SettingFields) : Statement (.home dt header fields) :=
  frameLength_ofHeader

theorem shake (dt : Nat) (header : FrameHeader) (fields : SettingFields) : Statement (.shake dt header fields) :=
  frameLength_ofHeader

theorem auto (dt : Nat) (header : FrameHeader) (fields : ModeFields) : Statement (.auto dt header fields) :=
  frameLength_ofHeader

theorem manual (dt : Nat) (header : FrameHeader) (fields : ModeFields) : Statement (.manual dt header fields) :=
  frameLength_ofHeader

theorem releaseHold (dt : Nat) (header : FrameHeader) (fields : ModeFields) : Statement (.releaseHold dt header fields) :=
  frameLength_ofHeader

theorem load (dt : Nat) (header : FrameHeader) (fields : PresetFields) : Statement (.load dt header fields) :=
  frameLength_ofHeader

theorem save (dt : Nat) (header : FrameHeader) (fields : PresetFields) : Statement (.save dt header fields) :=
  frameLength_ofHeader

theorem erase (dt : Nat) (header : FrameHeader) (fields : PresetFields) : Statement (.erase dt header fields) :=
  frameLength_ofHeader

theorem wipe (dt : Nat) (header : FrameHeader) (fields : PresetFields) : Statement (.wipe dt header fields) :=
  frameLength_ofHeader

theorem lockCal (dt : Nat) (header : FrameHeader) (fields : PresetFields) : Statement (.lockCal dt header fields) :=
  frameLength_ofHeader

theorem inhibit (dt : Nat) (header : FrameHeader) (fields : PresetFields) : Statement (.inhibit dt header fields) :=
  frameLength_ofHeader

theorem saveCal (dt : Nat) (header : FrameHeader) (fields : PresetFields) : Statement (.saveCal dt header fields) :=
  frameLength_ofHeader

theorem paramRead (dt : Nat) (header : FrameHeader) (fields : ParamFields) : Statement (.paramRead dt header fields) :=
  frameLength_ofHeader

theorem paramWrite (dt : Nat) (header : FrameHeader) (fields : ParamFields) : Statement (.paramWrite dt header fields) :=
  frameLength_ofHeader

theorem enter (dt : Nat) (header : FrameHeader) (tag : Byte) (order : Order) : Statement (.enter dt header tag order) :=
  frameLength_ofHeader

theorem leave (dt : Nat) (header : FrameHeader) (tag : Byte) : Statement (.leave dt header tag) :=
  frameLength_ofHeader

theorem restart (dt : Nat) (header : FrameHeader) (tag : Byte) (order : Order) :
    Statement (.restart dt header tag order) :=
  frameLength_ofHeader

theorem clearCauses (dt : Nat) (header : FrameHeader) (tag : Byte) : Statement (.clearCauses dt header tag) :=
  frameLength_ofHeader

theorem windowRestart (dt : Nat) (header : FrameHeader) (tag : Byte) (order : Order) :
    Statement (.windowRestart dt header tag order) :=
  frameLength_ofHeader

theorem bookQuery (dt : Nat) (header : FrameHeader) : Statement (.bookQuery dt header) :=
  frameLength_ofHeader

theorem motionStatus (dt : Nat) (header : FrameHeader) (speed : Word) (order : Order) :
    Statement (.motionStatus dt header speed order) :=
  frameLength_ofHeader

theorem qualityReport (dt : Nat) (header : FrameHeader) (broken foreign samples : Word) :
    Statement (.qualityReport dt header broken foreign samples) :=
  frameLength_ofHeader

theorem unknownKindFrame (dt : Nat) (header : FrameHeader) (kind : BitVec 10) :
    Statement (.unknownKindFrame dt header kind) :=
  frameLength_ofBoth

theorem frameTransmitted (dt : Nat) : Statement (.frameTransmitted dt) :=
  fun _ _ e => nomatch e

theorem transmissionFailure (dt : Nat) : Statement (.transmissionFailure dt) :=
  fun _ _ e => nomatch e

theorem busOff (dt : Nat) : Statement (.busOff dt) :=
  fun _ _ e => nomatch e

theorem busOffSilenceExpiry : Statement (.busOffSilenceExpiry) :=
  fun _ _ e => nomatch e

theorem powerLoss (dt : Nat) : Statement (.powerLoss dt) :=
  fun _ _ e => nomatch e

theorem unknownOperation (dt : Nat) (header : FrameHeader) (request : UnknownRequest) :
    Statement (.unknownOperation dt header request) :=
  frameLength_ofBoth

end Sys2Proof.Laws.FrameLength
end

