-- ==== Sys2Proof/Laws/Reception.lean ====
section
/-! SUPPORT. The judgement of a request frame by R171, step by step, in the words of the statements. -/

namespace Sys2Proof.Machine

theorem Part.hearsFrame_iff (s : Part) (h : FrameHeader) : s.hearsFrame h ↔ (s.hears h && s.addressed h) = true := by
  unfold Part.hearsFrame Part.hears Part.addressed Part.cal
  rw [Bool.and_eq_true, Bool.and_eq_true, Option.isNone_iff_eq_none, decide_eq_true_iff, decide_eq_true_iff]
  exact ⟨fun x => ⟨⟨x.1, x.2.2⟩, x.2.1⟩, fun x => ⟨x.1.1, x.2, x.1.2⟩⟩

/-- An unheard frame leaves the part as it is (step 1). -/
theorem Part.judgeRequest_unheard {s : Part} {h : FrameHeader} (hh : ¬s.hearsFrame h) (l : Layout) (permitted : Bool) (a : Asked)
    (owner : Part → Part) : s.judgeRequest l h permitted a owner = s := by
  rw [Part.hearsFrame_iff] at hh
  unfold Part.judgeRequest
  rw [if_pos]
  cases e : s.hears h <;> cases e' : s.addressed h <;> simp_all

/-- A heard frame from a source that is not permitted is answered NOT_PERMITTED (step 3). -/
theorem Part.judgeRequest_notPermitted {s : Part} {h : FrameHeader} (hh : s.hearsFrame h) (l : Layout) (a : Asked)
    (owner : Part → Part) : s.judgeRequest l h false a owner = s.reply a .notPermitted 0 := by
  rw [Part.hearsFrame_iff, Bool.and_eq_true] at hh
  simp [Part.judgeRequest, hh.1, hh.2]

/-- A permitted frame that is too short for its fields is answered INCONSISTENT (step 4). -/
theorem Part.judgeRequest_short {s : Part} {h : FrameHeader} (hh : s.hearsFrame h) {l : Layout} (short : h.length < l.bytes)
    (a : Asked) (owner : Part → Part) : s.judgeRequest l h true a owner = s.reply a .inconsistent 0 := by
  rw [Part.hearsFrame_iff, Bool.and_eq_true] at hh
  simp [Part.judgeRequest, hh.1, hh.2, short]

/-- Any other frame is handed to its owner (step 5). -/
theorem Part.judgeRequest_handed {s : Part} {h : FrameHeader} (hh : s.hearsFrame h) {l : Layout} (long : l.bytes ≤ h.length)
    (a : Asked) (owner : Part → Part) : s.judgeRequest l h true a owner = owner s := by
  rw [Part.hearsFrame_iff, Bool.and_eq_true] at hh
  simp [Part.judgeRequest, hh.1, hh.2, Nat.not_lt.mpr long]

end Sys2Proof.Machine
end

