-- ==== Sys2Proof/Machine/Frames.lean ====
section
/-! DEFINITION. The frames the part sends as they stand on the bus: identifiers (10 10.1), priorities, codes and data bytes (R173,
R178, R179, 10 10.6), and the frame in transmission. -/

namespace Sys2Proof.Machine

/-- A result's code (R173). -/
def Result.code : Result → Nat
  | .accepted => 0
  | .acceptedClamped => 1
  | .unknown => 2
  | .notPermitted => 3
  | .badChannel => 4
  | .faulted => 5
  | .notReferenced => 6
  | .notTurning => 7
  | .outranked => 8
  | .busy => 9
  | .inhibited => 10
  | .locked => 11
  | .inconsistent => 12
  | .emptySlot => 13
  | .shuttingDown => 14
  | .notStationary => 15

/-- An event's code (R179). -/
def Event.code : Event → Nat
  | .moveDone => 1
  | .homed => 2
  | .positionLost => 3
  | .channelFaulted => 4
  | .trimApplied => 5
  | .reliefStarted => 6
  | .reliefRecovered => 7
  | .reliefFailed => 8
  | .lossSensorSilent => 9
  | .speedSensor => 10
  | .qualityStale => 11
  | .paramsApplied => 12
  | .storeDone => 13
  | .serviceEnded => 14
  | .startUp => 15

/-- A motion state's code in BOOK_STATUS (10.6). -/
def Phase.code : Phase → Nat
  | .idle => 0
  | .waiting => 1
  | .driving => 2
  | .coasting => 3
  | .faulted _ => 4

/-- The Feed Restrain's state code in RESTRAIN_NOTICE (10.6). -/
def Restrain.code : Restrain → Nat
  | .opened => 0
  | .pending _ => 1
  | .restrained _ _ => 2

/-- The cause code in RESTRAIN_NOTICE (10.6). -/
def Restrain.causeCode : Restrain → Nat
  | .opened | .pending _ => 0
  | .restrained .load _ => 1
  | .restrained .relief _ => 2

/-- The channel byte of an event, 0xFF where it has none (R179). -/
def channelByte : Option Channel → Byte
  | some c => BitVec.ofNat 8 c.index
  | none => 0xFF

/-- A 16-bit field as its two bytes, little-endian. -/
def wordBytes (w : Word) : List Byte := [w.low, w.high]

/-- A u16 field. -/
def u16 (n : Nat) : List Byte := wordBytes (BitVec.ofNat 16 n)

/-- An s16 field: the low 16 bits of a value that does not fit, which BOOK_STATUS's actual value alone can be (assumption 42). -/
def s16 (v : Int) : List Byte := wordBytes (BitVec.ofInt 16 v)

/-- The bits of a list of flags, the first as bit 0. -/
def flagBits (flags : List Bool) : Nat := flags.foldr (fun b n => bit b + 2 * n) 0

/-- The flags byte of BOOK_STATUS (10.6). -/
def bookFlags (referenced : Bool) (hold : Option Holder) (mode : Mode) : Nat :=
  flagBits [referenced, hold.isSome, hold = some .service, mode = .auto]

/-- The last-outcome field of BOOK_STATUS, 15 when absent (10.6). -/
def outcomeField : Option OutcomeCode → Nat
  | some o => o.code
  | none => 15

/-- The tags byte of WINDOW_REPORT frame 3 (10.6). -/
def Tags.byte (t : Tags) : Nat :=
  flagBits [t.short, t.shifted, t.notHarvesting, t.saturated, t.sensorSilent, t.speedFault, t.tiltFault, t.relief]

/-- The symptom word of WINDOW_REPORT frame 3 (10.6). -/
def symptomWord (symptoms : PerSymptom Bool) (available : Bool) (side : Side) : Nat :=
  flagBits (Symptom.all.map symptoms.get ++ [false, available, side = .right])

/-- The data bytes of a frame (10.6). -/
def FrameBody.data : FrameBody → List Byte
  | .reply _ kindLow tag result channel value =>
    [kindLow, tag, BitVec.ofNat 8 result.code, channel] ++ wordBytes value
  | .bookStatus c phase referenced hold mode origin last setpoint actual _ =>
    [BitVec.ofNat 8 c.index, BitVec.ofNat 8 phase.code, BitVec.ofNat 8 (bookFlags referenced hold mode),
      BitVec.ofNat 8 (origin.code + 16 * outcomeField last)] ++ s16 setpoint ++ s16 actual
  | .windowReport1 number sl liW imb _ => u16 number ++ u16 sl ++ u16 liW ++ s16 imb
  | .windowReport2 drumRpm fanRpm tailPm load _ => u16 drumRpm ++ u16 fanRpm ++ u16 tailPm ++ u16 load
  | .windowReport3 roll pitch symptoms available side tags number _ =>
    s16 roll ++ s16 pitch ++ u16 (symptomWord symptoms available side)
      ++ [BitVec.ofNat 8 tags.byte, BitVec.ofNat 8 number]
  | .restrainNotice state reduction load window =>
    [BitVec.ofNat 8 state.code, BitVec.ofNat 8 state.causeCode] ++ u16 reduction ++ u16 load ++ u16 window
  | .event code c d8 d16 overrun window =>
    [BitVec.ofNat 8 code.code, channelByte c, BitVec.ofNat 8 d8, BitVec.ofNat 8 (bit overrun)] ++ u16 d16 ++ u16 window

/-- A frame's kind code (10.1). -/
def FrameBody.kind : FrameBody → BitVec 10
  | .reply _ _ _ _ _ _ => 0x181
  | .bookStatus _ _ _ _ _ _ _ _ _ _ => 0x190
  | .windowReport1 _ _ _ _ _ | .windowReport2 _ _ _ _ _ | .windowReport3 _ _ _ _ _ _ _ _ => 0x191
  | .restrainNotice _ _ _ _ => 0x192
  | .event _ _ _ _ _ _ => 0x193

/-- A frame's priority (R173, R178, R179). -/
def FrameBody.priority : FrameBody → BitVec 3
  | .reply _ _ _ _ _ _ => 4
  | .bookStatus _ _ _ _ _ _ _ _ _ _ => 6
  | .windowReport1 _ _ _ _ _ => 5
  | .windowReport2 _ _ _ _ _ => 6
  | .windowReport3 _ _ _ _ _ _ _ _ => 7
  | .restrainNotice _ _ _ _ => 2
  | .event _ _ _ _ _ _ => 3

/-- A frame's destination: a REPLY goes to the sender of its request; the spec gives none for the others (assumption 14). -/
def FrameBody.destination (b : FrameBody) : Byte :=
  match b with
  | .reply destination _ _ _ _ _ => destination
  | .bookStatus _ _ _ _ _ _ _ _ _ _ | .windowReport1 _ _ _ _ _ | .windowReport2 _ _ _ _ _
  | .windowReport3 _ _ _ _ _ _ _ _ | .restrainNotice _ _ _ _ | .event _ _ _ _ _ _ => Config.reportDestination b.kind

/-- The 29-bit identifier of a frame: priority, kind, destination, source from the most significant end (10.1). -/
def Frame.identifier (f : Frame) : BitVec 29 := f.body.priority ++ f.body.kind ++ f.body.destination ++ f.source

/-- The frame in transmission: the head of the queue, while the part sends (R176, R177). -/
def Part.transmitting (s : Part) : Option (BitVec 29 × List Byte) :=
  match s.power, s.bus.silentUntil with
  | .on, none => s.bus.queue.head?.map fun f => (f.identifier, f.body.data)
  | _, _ => none

/-- The motor drive output of a channel: the direction in which it is powered, none where it is off (R101, R127). -/
def Part.motorOutput (s : Part) (c : Channel) : Option Direction :=
  match s.power, (s.motionOf c).phase with
  | .on, .driving => (s.motionOf c).move.bind (·.direction)
  | _, _ => none

end Sys2Proof.Machine
end

