-- ==== Sys2Proof/Tests/Slice0.lean ====
section
/-! SUPPORT. Tests: an ill-formed command for each check of well-formedness, the reset state, one small step of every command, and for
every statement with hypotheses a concrete state and operands that meet them. -/

namespace Sys2Proof.Tests

open Sys2Proof.Machine

/-! ### Small states -/

/-- A request of the Service Tool. -/
def fromTool : FrameHeader := ⟨3, 0x44, 0x70, 8⟩

/-- A request of the Cab Terminal. -/
def fromCab : FrameHeader := ⟨3, 0x44, 0x20, 8⟩

/-- A broadcast of the Propulsion Controller. -/
def fromDrive : FrameHeader := ⟨3, 0xFF, 0x28, 2⟩

/-- A broadcast of the Grain Quality Node. -/
def fromQuality : FrameHeader := ⟨3, 0xFF, 0x30, 6⟩

/-- The order of definition. -/
def inOrder : Order := ⟨[], []⟩

/-- A referenced channel at rest. -/
def restingAt (position : Int) : Motion := { Motion.reset .idle with position := position, referenced := true }

/-- The part at work: calibrated, every channel at rest, the separator ENGAGED, harvesting in window 10, KEY on, the store idle and
the transmit queue empty. -/
def ready : Part := { Part.reset with
  motion := { drum := Motion.reset .idle, concave := restingAt 560, upperSieve := restingAt 225, lowerSieve := restingAt 150,
              fan := Motion.reset .idle, louver := restingAt 0 }
  store := { Part.reset.store with
    op := none, activeCal := ⟨.default, true⟩, pendingCal := ⟨.default, true⟩
    pageStates := PageState.valid :: List.replicate 17 .empty }
  capture := { Capture.reset with engaged := true }
  lines := ⟨true, true, false⟩
  window := { WindowUnit.reset 0 20 with engaged := true, number := 10, marks := ⟨false, false, false⟩ }
  bus := { Bus.reset with groundSpeed := 50, speedKnown := true, freshUntil := some 1000000 }
  harvesting := true }

/-- The part standing with the separator DISENGAGED. -/
def standing : Part := { ready with
  capture := Capture.reset, lines := ⟨false, true, false⟩, harvesting := false
  bus := { Bus.reset with speedKnown := true, freshUntil := some 1000000 } }

/-- The part standing in service mode. -/
def serviced : Part := { standing with service := true }

/-- The part in a key-off shutdown that began at 0. -/
def closing : Part := { standing with shutdown := some ⟨.keyOff, some 3000000⟩, lines := ⟨false, false, false⟩ }

/-- The part without supply. -/
def dark : Part := { standing with power := .off, phold := false }

/-- A move of the operator with 5 counts to go. -/
def move : Move where
  owner := .request .operator
  kind := .set
  scheduling := .whole
  target := some 565
  direction := some .up
  base := 5
  remaining := 5
  stintCount := 0
  edge := 0
  shakeStart := 0
  shakeOut := 0
  shakeAmplitude := 0
  halfMoves := 0
  corrected := false
  driveTime := 0
  limit := false
  tag := some 7
  granted := true
  driveEnd := .workLeft
  begunCoasting := false

/-- The part with the concave driven under a move. -/
def drivingWith (mv : Move) : Part := { ready with
  motion := { ready.motion with concave := { restingAt 560 with
    phase := .driving, move := some mv, stallAt := some 400000 } }
  slots := [⟨.concave, 0⟩] }

/-- The part with the concave coasting under a move, 10 ms from rest. -/
def coastingWith (mv : Move) : Part := { ready with
  motion := { ready.motion with concave := { restingAt 560 with
    phase := .coasting, move := some mv, lastDirection := some .up, coastEndsAt := some 10000 } } }

/-- The part with the drum driven under a move. -/
def drumDriven : Part := { ready with
  motion := { ready.motion with drum := { Motion.reset .idle with phase := .driving, move := some { move with target := some 850 } } }
  slots := [⟨.drum, 0⟩] }

/-- The part with Plug Relief in a state. -/
def relieved (o : Override) : Part := { ready with override := o }

/-- The part with an operation in flight. -/
def storing (kind : StoreKind) (pages : List Nat) : Part := { serviced with
  store := { serviced.store with op := some ⟨kind, pages, erasedWords, 0, 40000⟩ } }

/-- A notice. -/
def notice : Frame := ⟨0x44, .event .startUp none 1 0 false 1⟩

/-- A periodic frame stamped with a window's number. -/
def periodic (n : Nat) : Frame := ⟨0x44, .windowReport2 0 0 0 0 n⟩

/-- The fields of a SETTING_REQUEST. -/
def asks (channel : Byte) (value : Word) : SettingFields := ⟨channel, value, 2, 7⟩

/-- What a command leaves, when it answers a next state with the queue's rest as it was, has a property. -/
def leaves (c : Instr) (p : Part) (f : Part → Bool) : Bool :=
  match exec c ⟨p, [.keyReturns 1]⟩ with
  | .next t => f t.part && t.pending = [.keyReturns 1]
  | .fault _ | .refused _ => false

/-- The result of the newest frame queued, where it is a REPLY. -/
def answer (p : Part) : Option Result :=
  match p.bus.queue.getLast? with
  | some ⟨_, .reply _ _ _ r _ _⟩ => some r
  | _ => none

/-! ### Well-formedness refuses an ill-formed command at each check -/

/-- A header that no CAN frame has. -/
def tooLong : FrameHeader := { fromTool with length := 9 }

theorem test_wf_accepts : Instr.wf (.set 0 fromTool (asks 1 140)) = true := by decide
theorem test_wf_header_setting : Instr.wf (.set 0 tooLong (asks 1 140)) = false := by decide
theorem test_wf_header_status : Instr.wf (.motionStatus 0 tooLong 50 inOrder) = false := by decide
theorem test_wf_header_unlisted : Instr.wf (.unknownKindFrame 0 tooLong 0x111) = false := by decide
theorem test_wf_header_operation : Instr.wf (.unknownOperation 0 tooLong (.mode 9 ⟨0, 0⟩)) = false := by decide
theorem test_wf_listed_kind : Instr.wf (.unknownKindFrame 0 fromTool 0x181) = false := by decide
theorem test_wf_known_setting_kind : Instr.wf (.unknownOperation 0 fromTool (.setting 5 (asks 1 0))) = false := by decide
theorem test_wf_known_mode : Instr.wf (.unknownOperation 0 fromTool (.mode 3 ⟨0, 0⟩)) = false := by decide
theorem test_wf_known_preset : Instr.wf (.unknownOperation 0 fromTool (.preset 7 ⟨0, 0, 0⟩)) = false := by decide
theorem test_wf_known_param : Instr.wf (.unknownOperation 0 fromTool (.param 2 ⟨0, 0, 0⟩)) = false := by decide
theorem test_wf_known_service : Instr.wf (.unknownOperation 0 fromTool (.service 5 0)) = false := by decide
theorem test_wf_unknown_zero : Instr.wf (.unknownOperation 0 fromTool (.service 0 0)) = true := by decide
theorem test_wf_short_page : Instr.wf (.saveCompletes (some [0])) = false := by decide
theorem test_wf_wiped_page_number : Instr.wf (.wipeCompletes [(18, erasedWords)]) = false := by decide
theorem test_wf_wiped_page_length : Instr.wf (.wipeCompletes [(17, [0])]) = false := by decide

/-! ### Reset -/

theorem test_reset_is_a_power_on : ({ ready with
    lines := ⟨false, true, false⟩ } : Part).powerUp = Part.reset := by decide +kernel

theorem test_idle_step : step ⟨ready, []⟩ = .next ⟨ready, []⟩ := rfl

theorem test_word_spells_no_command : (State.reset).withFetchWord 8 0 = State.reset := rfl

/-! ### One step of every command -/

theorem test_lossEdge : leaves (.lossEdge 500 .left) ready (fun t => t.capture.loss.left = ⟨1, 0, false, some 500⟩ && t.now = 500) =
    true := rfl

theorem test_speedEdge : leaves (.speedEdge 10000 .drum .rising)
    { ready with capture := { ready.capture with speed := { ready.capture.speed with drum := ⟨3, 9000, some 0, 0⟩ } } }
    (fun t => t.capture.speed.drum = ⟨4, 19000, some 10000, 1000⟩) = true := by decide +kernel

theorem test_pwmEdge : leaves (.pwmEdge 2000 .roll .rising)
    { ready with capture := { ready.capture with pwm := { ready.capture.pwm with roll := ⟨0, 0, some ⟨0, 900, 1⟩⟩ } } }
    (fun t => t.capture.pwm.roll = ⟨900, 2000, some ⟨2000, 0, 0⟩⟩) = true := rfl

theorem test_tailChange : leaves (.tailChange 2500 false)
    { ready with capture := { ready.capture with tail := ⟨some 0, 10, 600⟩ } }
    (fun t => t.capture.tail = ⟨none, 13, 100⟩) = true := rfl

theorem test_sepLevelChange : leaves (.sepLevelChange 7 false) ready (fun t => t.capture.sepQualifyAt = some 50007 && t.capture.engaged) =
    true := rfl

theorem test_sepQualifyExpiry : leaves (.sepQualifyExpiry inOrder)
    { ready with lines := ⟨false, true, false⟩, capture := { ready.capture with sepQualifyAt := some 150000 } }
    (fun t => t.capture.engaged = false && t.window.number = 11 && t.harvesting = false && t.window.history.length = 1) =
    true := rfl

theorem test_feedbackPulse : leaves (.feedbackPulse 20 .concave) (drivingWith move)
    (fun t => t.motion.concave.position = 561 && t.motion.concave.stallAt = some 400020) = true := rfl

theorem test_feedbackPulse_last : leaves (.feedbackPulse 20 .concave) (drivingWith { move with remaining := 1 })
    (fun t => t.motion.concave.phase = .coasting && t.slots = []) = true := rfl

theorem test_keyFalls : leaves (.keyFalls 5 inOrder) (drivingWith move)
    (fun t => t.shutdown = some ⟨.keyOff, some 3000005⟩ && t.motion.concave.move = none) = true := rfl

theorem test_keyReturns : leaves (.keyReturns 5) closing (fun t => t.shutdown = none && t.lines.key) = true := rfl

theorem test_powerOn : leaves (.powerOn 5) dark (fun t => t.power = .on && t.phold && t.window.number = 1 && t.window.startedAt = 5) =
    true := by decide +kernel

theorem test_supplyDip : leaves (.supplyDip 5) ready (fun t => t.store.resetCauses = ⟨true, false, true⟩ && t.window.number = 1) =
    true := by decide +kernel

theorem test_windowTimerExpiry : leaves (.windowTimerExpiry inOrder) ready
    (fun t => t.now = 2000000 && t.window.number = 11 && t.evaluator.evaluation.number = 10 && t.window.history.length = 1) =
    true := rfl

theorem test_holdTimerExpiry : leaves (.holdTimerExpiry .fan)
    { ready with book := ready.book.set .fan { ready.entryOf .fan with hold := some ⟨.operator, .seconds 2 900⟩ } }
    (fun t => (t.entryOf .fan).hold = some ⟨.operator, .seconds 1 1000900⟩) = true := rfl

theorem test_jogRefreshExpiry : leaves (.jogRefreshExpiry .concave)
    { drivingWith { move with kind := .jog, scheduling := .held } with
      bus := { ready.bus with jogTimers := ready.bus.jogTimers.set .concave (some 300000) } }
    (fun t => t.motion.concave.phase = .coasting && t.bus.jogTimers.concave = none) = true := rfl

theorem test_groundSpeedFreshnessExpiry : leaves (.groundSpeedFreshnessExpiry inOrder) ready
    (fun t => t.bus.speedKnown = false && t.harvesting = false && t.window.marks.notHarvesting) = true := rfl

theorem test_coastTimerExpiry : leaves (.coastTimerExpiry .concave false)
    (coastingWith { move with remaining := 0, driveEnd := .ownEnd })
    (fun t => t.motion.concave.phase = .idle && (t.entryOf .concave).last = some ⟨.complete, .request .operator, 10⟩) =
    true := rfl

theorem test_settleTimerExpiry : leaves (.settleTimerExpiry .drum)
    { ready with motion := { ready.motion with drum := { Motion.reset .idle with
      phase := .coasting, move := some { move with driveEnd := .ownEnd }, coastEndsAt := some 300 } } }
    (fun t => t.motion.drum.phase = .idle && (t.entryOf .drum).last = some ⟨.complete, .request .operator, 10⟩) =
    true := rfl

theorem test_stallTimerExpiry : leaves (.stallTimerExpiry .concave) (drivingWith move)
    (fun t => t.now = 400000 && t.motion.concave.phase = .coasting && t.motion.concave.stallAt = none) = true := rfl

theorem test_maximumDriveTimeExpiry : leaves (.maximumDriveTimeExpiry .drum) drumDriven
    (fun t => t.now = 4000000 && t.motion.drum.phase = .coasting) = true := rfl

theorem test_drumWatchTimerExpiry : leaves .drumWatchTimerExpiry (relieved ⟨.armed, none, none, none, some 900⟩)
    (fun t => t.override.relief = .suspect && t.override.confirmAt = some 300900) = true := rfl

theorem test_confirmTimerExpiry : leaves (.confirmTimerExpiry false) (relieved ⟨.suspect, some 900, none, none, none⟩)
    (fun t => t.override.relief = .opening && t.motion.concave.phase = .driving && t.evaluator.restrain = .restrained .relief 0) =
    true := rfl

theorem test_recoverTimerExpiry : leaves .recoverTimerExpiry
    { relieved ⟨.openHeld false, none, some 900, some 5000, none⟩ with
      motion := { ready.motion with concave := restingAt 1000 } }
    (fun t => t.override.relief = .returning && t.motion.concave.phase = .driving) = true := rfl

theorem test_giveUpTimerExpiry : leaves .giveUpTimerExpiry (relieved ⟨.openHeld false, none, none, some 900, none⟩)
    (fun t => t.override.relief = .openHeld true && t.override.giveUpAt = none) = true := rfl

theorem test_deadlineTimerExpiry : leaves .deadlineTimerExpiry closing (fun t => t.power = .released && t.phold = false) =
    true := rfl

theorem test_positionWriteStart : leaves .positionWriteStart closing
    (fun t => t.store.op.isSome && t.endOf .positionWrite = some 20000) = true := rfl

theorem test_saveCompletes : leaves (.saveCompletes none) (storing .save [3]) (fun t => t.store.op = none && t.pageState 3 = .empty) =
    true := by decide +kernel

theorem test_eraseCompletes : leaves (.eraseCompletes none) (storing .erase [3]) (fun t => t.store.op = none && t.pageState 3 = .empty) =
    true := by decide +kernel

theorem test_wipeCompletes : leaves (.wipeCompletes []) (storing .wipe [16, 17, 0])
    (fun t => t.store.op = none && t.pageState 0 = .empty) = true := by decide +kernel

theorem test_saveCalCompletes : leaves (.saveCalCompletes none) (storing .saveCal [0]) (fun t => t.pageState 0 = .empty) =
    true := by decide +kernel

theorem test_lockCalCompletes : leaves (.lockCalCompletes none) (storing .lockCal [0]) (fun t => !t.store.lockMark && t.now = 40000) =
    true := by decide +kernel

theorem test_positionWriteCompletes : leaves (.positionWriteCompletes none)
    { storing .positionWrite [1] with shutdown := some ⟨.keyOff, none⟩, lines := ⟨false, false, false⟩ }
    (fun t => t.power = .released && !t.phold) = true := rfl

theorem test_positionEraseCompletes : leaves (.positionEraseCompletes none) (storing .positionErase [1])
    (fun t => t.pageState 1 = .empty && t.store.op = none) = true := by decide +kernel

theorem test_set : leaves (.set 9 fromCab (asks 1 150)) ready
    (fun t => (t.entryOf .concave).setpoint = 150 && t.motion.concave.phase = .driving && answer t = some .accepted) =
    true := rfl

theorem test_set_clamped : leaves (.set 9 fromCab (asks 1 2000)) ready (fun t => answer t = some .acceptedClamped) =
    true := rfl

theorem test_jogStart : leaves (.jogStart 9 fromCab (asks 5 1)) ready
    (fun t => t.motion.louver.phase = .driving && t.bus.jogTimers.louver = some 300009) = true := rfl

theorem test_jogStop : leaves (.jogStop 9 fromCab (asks 1 0)) (drivingWith { move with kind := .jog, scheduling := .held })
    (fun t => t.motion.concave.phase = .coasting && answer t = some .accepted) = true := rfl

theorem test_home : leaves (.home 9 fromTool (asks 2 0)) ready
    (fun t => t.motion.upperSieve.phase = .driving && !t.motion.upperSieve.referenced) = true := rfl

theorem test_shake : leaves (.shake 9 fromTool (asks 2 10)) ready
    (fun t => t.motion.upperSieve.phase = .driving && (t.motion.upperSieve.move.map (·.halfMoves)) = some 4) = true := rfl

theorem test_auto : leaves (.auto 9 fromCab ⟨4, 1⟩) ready (fun t => (t.entryOf .fan).mode = .auto && answer t = some .accepted) =
    true := rfl

theorem test_manual : leaves (.manual 9 fromCab ⟨4, 1⟩) { ready with fanOffset := 40, fanTarget := 1090 }
    (fun t => t.fanOffset = 0 && t.fanTarget = 1050) = true := rfl

theorem test_releaseHold : leaves (.releaseHold 9 fromCab ⟨4, 1⟩)
    { ready with book := ready.book.set .fan { ready.entryOf .fan with hold := some ⟨.service, .untilRelease⟩ } }
    (fun t => (t.entryOf .fan).hold.isSome && answer t = some .outranked) = true := rfl

theorem test_load : leaves (.load 9 fromCab ⟨3, 0, 1⟩) ready (fun t => answer t = some .emptySlot) = true := rfl

theorem test_save : leaves (.save 9 fromCab ⟨15, 0, 1⟩) ready (fun t => t.endOf .save = some 60009 && answer t = some .accepted) =
    true := rfl

theorem test_erase : leaves (.erase 9 fromCab ⟨0, 0, 1⟩) ready (fun t => t.endOf .erase = some 40009) = true := rfl

theorem test_wipe : leaves (.wipe 9 fromTool ⟨0, 1, 1⟩) serviced (fun t => t.endOf .wipe = some 720009) = true := rfl

theorem test_lockCal : leaves (.lockCal 9 fromTool ⟨0, 0, 1⟩) serviced (fun t => t.endOf .lockCal = some 20009) =
    true := rfl

theorem test_inhibit : leaves (.inhibit 9 fromCab ⟨0, 0, 1⟩) ready (fun t => t.store.inhibit && answer t = some .accepted) =
    true := rfl

theorem test_saveCal : leaves (.saveCal 9 fromTool ⟨0, 0, 1⟩) ready (fun t => answer t = some .notPermitted) =
    true := rfl

theorem test_paramRead : leaves (.paramRead 9 fromTool ⟨0x16A, 0, 1⟩) ready (fun t => answer t = some .accepted) =
    true := rfl

theorem test_paramWrite : leaves (.paramWrite 9 fromTool ⟨0x16A, 1000, 1⟩) ready
    (fun t => t.store.pendingPreset.stint = 500 && answer t = some .acceptedClamped) = true := rfl

theorem test_enter : leaves (.enter 9 fromTool 1 inOrder) standing (fun t => t.service && t.book.louver.hold.isSome) =
    true := rfl

theorem test_leave : leaves (.leave 9 fromTool 1) serviced (fun t => !t.service && answer t = some .accepted) = true := rfl

theorem test_restart : leaves (.restart 9 fromTool 1 inOrder) ready (fun t => t.shutdown = some ⟨.commanded, some 3000009⟩) =
    true := rfl

theorem test_clearCauses : leaves (.clearCauses 9 fromTool 1) ready (fun t => t.store.resetCauses = ⟨false, false, false⟩) =
    true := rfl

theorem test_windowRestart : leaves (.windowRestart 99999 fromCab 1 inOrder) ready
    (fun t => t.window.number = 10 && t.window.startedAt = 99999 && t.window.history = []) = true := rfl

theorem test_bookQuery : leaves (.bookQuery 9 fromCab) ready (fun t => t.bus.queue.length = 6) = true := rfl

theorem test_motionStatus : leaves (.motionStatus 9 fromDrive 700 inOrder) serviced
    (fun t => t.bus.groundSpeed = 600 && !t.service) = true := rfl

theorem test_qualityReport : leaves (.qualityReport 9 fromQuality 5 1001 50) ready
    (fun t => t.evaluator.freshReport = some ⟨⟨5, 1000, 50⟩, 0⟩) = true := rfl

theorem test_unknownKindFrame : leaves (.unknownKindFrame 9 fromTool 0x111) ready (fun t => answer t = some .unknown) =
    true := rfl

theorem test_frameTransmitted : leaves (.frameTransmitted 9) { ready with bus := { ready.bus with queue := [notice, periodic 1] } }
    (fun t => t.bus.queue = [periodic 1]) = true := rfl

theorem test_transmissionFailure : leaves (.transmissionFailure 9) { ready with bus := { ready.bus with queue := [notice] } }
    (fun t => t.bus.queue = [notice]) = true := rfl

theorem test_busOff : leaves (.busOff 9) ready (fun t => t.bus.silentUntil = some 1000009) = true := rfl

theorem test_busOffSilenceExpiry : leaves .busOffSilenceExpiry
    { ready with bus := { ready.bus with silentUntil := some 5, queue := [periodic 9, notice, periodic 10] } }
    (fun t => t.bus.queue = [notice, periodic 10] && t.bus.silentUntil = none) = true := rfl

theorem test_powerLoss : leaves (.powerLoss 9) ready (fun t => t.power = .off && !t.phold) = true := rfl

theorem test_unknownOperation : leaves (.unknownOperation 9 fromTool (.service 6 1)) ready (fun t => answer t = some .unknown) =
    true := rfl

theorem test_unknownOperation_of_the_cab : leaves (.unknownOperation 9 fromCab (.param 6 ⟨0x010, 0, 1⟩)) ready
    (fun t => answer t = some .unknown) = true := rfl

/-! ### The hypotheses of every statement are met -/

/-- What holds of the one value an option has, holds of every value it has. -/
theorem of_some {α : Type} {o : Option α} {P : α → Prop} (a : α) (e : o = some a) (h : P a) : ∀ x, o = some x → P x := by
  intro x ex
  rw [e] at ex
  cases ex
  exact h

theorem heard (n : Nat) (h : n ≤ 8) (p : Part) (e : p.store.activeCal = ⟨.default, true⟩) (on : p.power = .on)
    (loud : p.bus.silentUntil = none) : p.receives fromTool 0x70 n ∧ p.receives fromCab 0x20 n := by
  simp only [Part.receives, e, on, loud]
  exact ⟨⟨trivial, trivial, rfl, rfl, by decide, h⟩, ⟨trivial, trivial, rfl, rfl, by decide, h⟩⟩

theorem witness_frames : ready.receives fromTool 0x70 6 ∧ ready.receives fromCab 0x20 6 := heard 6 (by decide) ready rfl rfl rfl

theorem witness_AnEmptyQueueIdles : (⟨ready, []⟩ : State).pending = [] := rfl

theorem witness_TimePassesAsCommandsSay :
    (∃ t : Part, exec (.lossEdge 5 .left) ⟨ready, []⟩ = .next ⟨t, []⟩ ∧ commandTime (.lossEdge 5 .left) = some 5)
    ∧ (ready.power = .on ∧ ready.deadlineOf (.groundSpeedFreshnessExpiry inOrder) = some 1000000)
    ∧ ready.deadlineOf .giveUpTimerExpiry = none ∧ commandTime .giveUpTimerExpiry = none :=
  ⟨⟨_, rfl, rfl⟩, ⟨rfl, rfl⟩, rfl, rfl⟩

theorem witness_AStoppedPartTakesNoEvent : dark.power ≠ .on
    ∧ ∀ dt, Instr.lossEdge 5 .left ≠ .powerOn dt ∧ Instr.lossEdge 5 .left ≠ .keyReturns dt
      ∧ Instr.lossEdge 5 .left ≠ .supplyDip dt ∧ Instr.lossEdge 5 .left ≠ .powerLoss dt :=
  ⟨by decide, fun _ => ⟨nofun, nofun, nofun, nofun⟩⟩

theorem witness_ResetIsAPowerOnWithAnErasedStore :
    let p : Part := { ready with lines := ⟨false, true, false⟩ }
    p.now = 0 ∧ p.store.memory = [] ∧ p.store.op = none ∧ p.freeIndex = 0 ∧ p.lines = ⟨false, true, false⟩ :=
  ⟨rfl, rfl, rfl, rfl, rfl⟩

theorem witness_EveryStepKeepsTheStoreInForm : ready.storeLaw := ⟨by decide, by decide⟩

theorem witness_EveryStepKeepsTheQueueWithinItsCapacity :
    ({ ready with bus := { ready.bus with queue := List.replicate 24 notice } } : Part).queueLaw := by
  show List.length _ ≤ 24
  simp

theorem witness_EveryStepKeepsTheHistoryConsecutive : ready.historyLaw :=
  ⟨by decide, .nil, by simp [ready, WindowUnit.reset], by simp [ready, WindowUnit.reset], by decide, by decide⟩

theorem witness_EveryStepKeepsTwoSlots : (drivingWith move).slotLaw := by show 1 ≤ 2; decide

theorem witness_EveryStepKeepsRequestListsRanked : ready.listLaw := by
  intro c; cases c <;> exact .nil

theorem witness_EveryStepKeepsSettingsInTheirEnvelopes : ready.settingLaw := by
  unfold Part.settingLaw Preset.envelopesOrdered Calibration.factoryOrdered Limits.holds
  refine ⟨?_, by decide, ?_, ?_, ?_, ?_, ?_⟩ <;> intro c <;> cases c <;> decide

theorem witness_EveryStepKeepsParametersLawful : ready.parameterLaw := by
  unfold Part.parameterLaw Preset.lawful Calibration.lawful
  decide +kernel

/-- A step runs in each of these states: every law's second hypothesis is met. -/
theorem witness_EveryStep : step ⟨ready, [.keyReturns 1]⟩ =
    .next ⟨{ ready with now := 1 }, []⟩ := rfl

/-! Sensor Capture -/

/-- The part at work with the left loss input as given. -/
def lossAt (l : LossCapture) : Part := { ready with capture := { ready.capture with loss := { ready.capture.loss with left := l } } }

/-- The part at work with the drum's speed input as given. -/
def speedAt (c : SpeedCapture) : Part := { ready with capture := { ready.capture with speed := { ready.capture.speed with drum := c } } }

/-- The part at work with the roll input's open period as given. -/
def rollAt (o : Option OpenPwm) : Part :=
  { ready with capture := { ready.capture with pwm := { ready.capture.pwm with roll := ⟨0, 0, o⟩ } } }

theorem witness_ALossEdgeIsAHitOrADoubleHit :
    let dead := ready.store.activeCal.figures.deadTime
    (∃ h, (lossAt ⟨0, 0, false, some 0⟩).capture.loss.left.lastHit = some h ∧ ready.now + 299 - h < dead)
    ∧ (∀ h, (lossAt ⟨0, 0, false, some 0⟩).capture.loss.left.lastHit = some h → dead ≤ ready.now + 300 - h)
    ∧ (lossAt ⟨65534, 0, false, some 0⟩).capture.loss.left.hits ≠ 65535
    ∧ (lossAt ⟨65535, 0, false, some 0⟩).capture.loss.left.hits = 65535 :=
  ⟨⟨0, rfl, by decide⟩, of_some 0 rfl (by decide), by decide, rfl⟩

theorem witness_ASpeedEdgeClosesAPeriod :
    let edges := (ready.store.activeCal.figures.speed.get .drum).edges
    let selected := fun e : Edge => edges = .both ∨ (edges = .rising ∧ e = .rising) ∨ (edges = .falling ∧ e = .falling)
    ¬selected .falling ∧ selected .rising
    ∧ (∀ b, (speedAt ⟨0, 0, none, 0⟩).capture.speed.drum.lastEdge = some b → 1000000 < ready.now + 5 - b)
    ∧ (∀ b, (speedAt ⟨0, 0, some 0, 0⟩).capture.speed.drum.lastEdge = some b → 1000000 < ready.now + 1000001 - b)
    ∧ ((speedAt ⟨65535, 0, some 0, 0⟩).capture.speed.drum.lastEdge = some 0 ∧ 1000000 - 0 ≤ 1000000
        ∧ (speedAt ⟨65535, 0, some 0, 0⟩).capture.speed.drum.count = 65535)
    ∧ ((speedAt ⟨65534, 0, some 0, 0⟩).capture.speed.drum.count ≠ 65535 ∧ 0 < ready.now + 1 - 0) :=
  ⟨by decide, by decide, nofun, of_some 0 rfl (by decide), by decide, by decide⟩

theorem witness_ADrumPeriodIsJudgedByPlugRelief :
    let k := ready.store.activePreset.relief
    let setpoint := (ready.entryOf .drum).setpoint
    let cal := ready.store.activeCal.figures.speed.drum
    let rpm := fun period : Nat => (roundHalfUp 960000000 (period * cal.teeth * cal.ratio16) : Int)
    (k.recoverPercent * setpoint ≤ rpm 12788 * 100 ∧ ¬(k.recoverPercent * setpoint ≤ rpm 12796 * 100))
    ∧ (rpm 15687 * 100 < k.enterPercent * setpoint ∧ ¬(rpm 15686 * 100 < k.enterPercent * setpoint))
    ∧ (∀ r ∈ [Relief.spinup, .armed, .suspect, .returning, .openHeld false, .openHeld true, .disarmed, .opening],
        (relieved ⟨r, none, none, none, none⟩).override.relief = r)
    ∧ (drumDriven.motionOf .drum).phase = .driving ∧ (drumDriven.motionOf .drum).move = some { move with target := some 850 }
    ∧ (distance 850 (rpm 11976) ≤ (drumDriven.store.activePreset.bands.get .drum).approach
        ∧ ¬distance 850 (rpm 11984) ≤ (drumDriven.store.activePreset.bands.get .drum).approach)
    ∧ (move.direction = some .up ∧ (850 : Int) ≤ rpm 11765 ∧ ¬(850 : Int) ≤ rpm 11984)
    ∧ (distanceToEdge .up (rpm 11976) 835 = 0 ∧ distanceToEdge .up (rpm 11984) 835 ≠ 0) := by decide +kernel

theorem test_speedEdge_slow : leaves (.speedEdge 15687 .drum .rising)
    { speedAt ⟨0, 0, some 0, 850⟩ with override := ⟨.armed, none, none, none, some 90000⟩ }
    (fun t => t.override.relief = .suspect && t.override.confirmAt = some 315687 && t.window.marks.relief) = true := by
  decide +kernel

theorem witness_APwmEdgeCompletesAPeriod :
    ((rollAt (some ⟨0, 900, 1⟩)).capture.pwm.roll.opened = some ⟨0, 900, 1⟩ ∧ (1 : Nat) = 1 ∧ ready.now + 100000 - 0 ≤ 100000)
    ∧ (∀ o : OpenPwm, (rollAt (some ⟨0, 900, 1⟩)).capture.pwm.roll.opened = some o → o.falls ≠ 1 ∨ 100000 < 100001 - o.rise)
    ∧ (∀ o : OpenPwm, (rollAt (some ⟨0, 900, 2⟩)).capture.pwm.roll.opened = some o → o.falls ≠ 1 ∨ 100000 < 50 - o.rise)
    ∧ (rollAt (some ⟨0, 0, 0⟩)).capture.pwm.roll.opened = some ⟨0, 0, 0⟩
    ∧ (rollAt (some ⟨0, 900, 1⟩)).capture.pwm.roll.opened = some ⟨0, 900, 1⟩
    ∧ (rollAt none).capture.pwm.roll.opened = none :=
  ⟨by decide, of_some ⟨0, 900, 1⟩ rfl (by decide), of_some ⟨0, 900, 2⟩ rfl (by decide), rfl, rfl, rfl⟩

theorem witness_ATailChangeSetsTheGate : ready.capture.tail.openSince = none
    ∧ ({ ready with capture := { ready.capture with tail := ⟨some 0, 0, 999⟩ } } : Part).capture.tail.openSince = some 0 :=
  ⟨rfl, rfl⟩

theorem witness_ASepLevelChangeStartsTheQualification : ready.lines.sep = true ∧ ready.lines.sep ≠ false := ⟨rfl, by decide⟩

theorem witness_ALevelThatHasHeldBecomesTheSeparatorState :
    let held := fun d : Nat => ({ ready with
      lines := ⟨false, true, false⟩, capture := { ready.capture with sepQualifyAt := some d } } : Part)
    let elapsed := fun (p : Part) (d : Nat) => min (p.window.length * 100) ((max p.now d - p.window.startedAt) / 1000)
    (held 100000).power = .on ∧ (held 100000).capture.sepQualifyAt = some 100000 ∧ 100 ≤ elapsed (held 100000) 100000
      ∧ elapsed (held 99999) 99999 < 100 ∧ (held 100000).lines.sep = false := by decide

/-- The part at work whose separator has qualified to a level, Plug Relief DISARMED. -/
def qualified (engaged : Bool) (p : Part) : Part := { p with
  lines := ⟨engaged, true, false⟩, harvesting := false
  capture := { p.capture with engaged := !engaged, sepQualifyAt := some 150000 } }

theorem witness_ADisengagementParksAndAborts :
    let p := qualified false { ready with motion := { ready.motion with
      upperSieve := { restingAt 225 with phase := .waiting, move := some move } } }
    let factory := p.store.activeCal.figures.factory.concave
    let park := (p.store.activeCal.figures.pos.get .concave).parkValue
    p.power = .on ∧ p.capture.sepQualifyAt = some 150000 ∧ p.lines.sep = false ∧ p.shutdown = none
      ∧ (p.store.pendingPreset = p.store.activePreset ∧ p.store.loadMark = none ∧ p.store.pendingCal = p.store.activeCal)
      ∧ ((p.motionOf .upperSieve).move = some move ∧ (p.entryOf .upperSieve).requests = [] ∧ p.harvesting = false
        ∧ (p.motionOf .upperSieve).phase = .waiting
        ∧ (p.store.activeCal.figures.pos.get .upperSieve).inParkMask = false)
      ∧ ((p.store.activeCal.figures.pos.get .concave).inParkMask = true ∧ (p.motionOf .concave).referenced = true
        ∧ (p.motionOf .concave).phase = .idle ∧ (p.motionOf .concave).standing = none
        ∧ p.countsOf .concave (clamp factory.min factory.max park) ≠ (p.motionOf .concave).position) := by decide +kernel

theorem witness_AnEngagementRestores :
    let at_ := fun m : Motion => qualified true { ready with motion := ready.motion.set .upperSieve m }
    let p := at_ (restingAt 225)
    let set := unitsToCounts (p.store.activeCal.figures.pos.get .upperSieve).cal16 (p.entryOf .upperSieve).setpoint
    p.power = .on ∧ p.capture.sepQualifyAt = some 150000 ∧ p.lines.sep = true ∧ p.shutdown = none
      ∧ (p.store.pendingPreset = p.store.activePreset ∧ p.store.loadMark = none ∧ p.store.pendingCal = p.store.activeCal)
      ∧ p.override.relief = .disarmed ∧ (p.entryOf .concave).requests = [] ∧ (p.motionOf .concave).standing = none
      ∧ p.store.activePreset.relief.enable = true ∧ (p.motionOf .concave).referenced = true
      ∧ ((p.motionOf .upperSieve).phase = .idle ∧ (p.motionOf .upperSieve).move = none
        ∧ (p.entryOf .upperSieve).requests = [])
      ∧ ¬(p.deadbandCounts .upperSieve < distance (set + 6) set) ∧ p.deadbandCounts .upperSieve < distance (set + 7) set
      ∧ p.countsOf .upperSieve (p.entryOf .upperSieve).setpoint ≠ set + 7
      ∧ ((at_ (.reset .idle)).motionOf .upperSieve).referenced = false
      ∧ 0 < (p.store.activeCal.figures.pos.get .upperSieve).homeTravel
      ∧ (let mv : Move := { move with kind := .home }
         let q := at_ { restingAt 225 with phase := .driving, move := some mv }
         (q.motionOf .upperSieve).move = some mv ∧ mv.kind.blocks = true ∧ (q.entryOf .upperSieve).requests = [])
      ∧ (let q := at_ { restingAt 225 with phase := .driving, move := some move }
         (q.motionOf .upperSieve).move = some move ∧ q.blocked .upperSieve = false ∧ 0 < move.owner.rank) := by decide +kernel

/-! Windows and records -/

/-- A window latched with hits on the two sieve-rear inputs. -/
def latchedWith (left right : Nat) : Latched := { ready.latched .full with
  loss := { left := ⟨left, 0, false, none⟩, right := ⟨right, 0, false, none⟩, walker := ⟨0, 0, false, none⟩ } }

/-- A window latched with duties. -/
def latchedDuty (d : Option Nat) : Latched := { ready.latched .full with duty := .const d }

/-- A clean record. -/
def record : WindowRecord := ready.recordOf (latchedWith 1 1)

theorem witness_SieveLossIsTheRoundedMean :
    ((latchedWith 1 2).elapsed = (latchedWith 1 2).elapsed) ∧ (1249 + 630) % 2 = 1
    ∧ (ready.recordOf (latchedWith 0 0)).lossIndex.left = 0 ∧ (ready.recordOf (latchedWith 1 0)).lossIndex.left ≠ 0 := by decide

theorem witness_SideImbalanceComparesTheSieveRearIndices :
    let index := fun l r : Nat => (ready.recordOf (latchedWith l r)).lossIndex
    (index 0 0).left + (index 0 0).right = 0 ∧ (index 1 2).left + (index 1 2).right ≠ 0
    ∧ (0 < (index 0 1).right ∧ (index 0 1).left = 0) ∧ (0 < (index 1 0).left ∧ (index 1 0).right = 0)
    ∧ (index 1 1).left = (index 1 1).right
    ∧ 0 < (ready.recordOf (latchedWith 2 1)).imb ∧ (ready.recordOf (latchedWith 1 2)).imb < 0
    ∧ ((index 65535 65535).left = 65535 ∧ (index 65535 65535).right = 65535)
    ∧ (({ ready with window := { ready.window with silentRun := .const ⟨3, false⟩ } } : Part).nextSilentRuns
        (latchedWith 0 2)).left.silent = true := by decide

theorem witness_LoadIsTheLargestOfThreeFigures : (record.rpm.drum = 0 ∧ 0 < (ready.book.get .drum).setpoint)
    ∧ ({ record with tags := { record.tags with notHarvesting := true } } : WindowRecord).tags.notHarvesting = true
    ∧ ready.override.relief.opens = false := by decide

theorem witness_RecordFiguresFollowTheirFormulas :
    ((latchedDuty (some 50)).duty.roll = some 50 ∧ (latchedDuty (some 950)).duty.pitch = some 950)
    ∧ (∀ d, (latchedDuty (some 49)).duty.roll = some d → d < 50 ∨ 950 < d)
    ∧ (∀ d, (latchedDuty (some 951)).duty.pitch = some d → d < 50 ∨ 950 < d)
    ∧ (latchedDuty none).duty.feeder = none ∧ ((ready.latched .full).speed.get .drum).count = 0
    ∧ (let l : Latched := { ready.latched .full with speed := .const ⟨1, 60000, none, 0⟩ }
       (l.speed.get .fan).count ≠ 0 ∧ (l.speed.get .fan).periodSum ≠ 0)
    ∧ (record.rpm.drum : Int) < (ready.book.get .drum).setpoint
    ∧ (({ ready with book := ready.book.set .drum { ready.entryOf .drum with setpoint := 0 } } : Part).book.get .drum).setpoint
        ≤ record.rpm.drum :=
  ⟨by decide, of_some 49 rfl (by decide), of_some 951 rfl (by decide), rfl, rfl, by decide, by decide, by decide⟩

/-- The part at work with a channel in AUTO. -/
def automatic (c : Channel) : Part := { ready with book := ready.book.set c { ready.entryOf c with mode := .auto } }

/-- The part at work with a symptom SET in a valid Evaluation and the countdown at 1. -/
def judging (p : Part) (k : Symptom) : Part := { p with
  settle := 1
  override := ⟨.armed, none, none, none, none⟩
  evaluator := { p.evaluator with evaluation := { p.evaluator.evaluation with
    averages := some ⟨0, 0, 0, 0, 0⟩, symptoms := PerSymptom.build fun x => x = k } } }

theorem witness_WhatARecordCallsFor :
    (let p := automatic .louver
     let target := fun roll : Int => p.clampToEnvelope .louver
       (roundSigned (roll * p.store.activePreset.slope.louverGain16) 16 + p.louverTrim)
     let deadband := p.store.activePreset.slope.louverDeadband
     (p.harvesting = true ∧ record.tags.tiltFault = true ∧ { record.tags with tiltFault := false }.tiltFault = false
       ∧ (p.entryOf .louver).mode = .auto ∧ (p.entryOf .louver).hold = none ∧ (p.motionOf .louver).referenced = true
       ∧ p.shutdown = none ∧ p.capture.engaged = true ∧ p.countsOf .louver (target 13) ≠ (p.motionOf .louver).position)
     ∧ deadband ≤ distance (target 13) (p.entryOf .louver).setpoint ∧ ¬deadband ≤ distance (target 12) (p.entryOf .louver).setpoint)
    ∧ (let e := (judging (automatic .louver) .sideImbalance).evaluator.evaluation
       e.averages.isSome = true ∧ e.symptoms.sideImbalance = true)
    ∧ ((automatic .fan).harvesting = true ∧ ((automatic .fan).entryOf .fan).mode = .auto ∧ (ready.entryOf .fan).mode ≠ .auto)
    ∧ (let hold := (ready.store.activePreset.bands.get .drum).hold
       (ready.motionOf .drum).phase = .idle ∧ hold < distance ((819 : Nat) : Int) (ready.speedTarget .drum)
         ∧ ¬hold < distance ((820 : Nat) : Int) (ready.speedTarget .drum)
         ∧ (ready.store.activePreset.bands.get .drum).approach < distance (ready.speedTarget .drum) (ready.rpmOf .drum)
         ∧ 0 < (ready.store.activeCal.figures.speed.get .drum).maxDriveTime) := by decide

theorem witness_AFullCloseAppendsItsRecord : (ready.power = .on ∧ 1 ≤ ready.window.length)
    ∧ (ready.store.pendingPreset = ready.store.activePreset ∧ ready.store.loadMark = none
        ∧ ready.store.pendingCal = ready.store.activeCal)
    ∧ (let k := ({ ready with store := { ready.store with loadMark := some 15 } } : Part).store
       k.loadMark = some 15 ∧ ¬(k.pendingPreset = k.activePreset ∧ k.loadMark = none)
         ∧ (k.pendingPreset.clampEnvelopes k.pendingCal.figures.factory).envelope = k.activePreset.envelope)
    ∧ (let p : Part := { Part.reset with store := { Part.reset.store with pendingCal := ⟨.default, true⟩ } }
       p.store.pendingCal ≠ p.store.activeCal ∧ p.store.pendingCal.valid = true
         ∧ (p.motionOf .concave).phase = .faulted .noCalibration ∧ (p.motionOf .concave).move = none
         ∧ (p.entryOf .concave).requests = [] ∧ p.override.relief.blocks = false) := by decide +kernel

theorem witness_RunsReachTheirEnds :
    let p : Part := { ready with window := { ready.window with
      silentRun := .const ⟨3, false⟩, faultRun := .const 1 } }
    let l := latchedWith 0 2
    let t := (p.raiseRuns l).advanceRuns l (p.recordOf l)
    ((l.loss.get .left).hits = 0 ∧ l.marks.notHarvesting = false ∧ 1 ≤ (l.loss.get .right).hits)
    ∧ ((p.window.silentRun.get .left).silent = false ∧ (t.window.silentRun.get .left).silent = true)
    ∧ (p.window.engaged = true ∧ (l.speed.get .drum).count = 0 ∧ p.window.faultRun.get .drum = 1)
    ∧ p.bus.queue.length < 20
    ∧ (∀ i, ¬((ready.window.silentRun.get i).silent = false
        ∧ (((ready.raiseRuns (latchedWith 1 1)).advanceRuns (latchedWith 1 1) record).window.silentRun.get i).silent = true))
    ∧ (∀ v, ready.window.faultRun.get v ≠ 1) := by
  refine ⟨by decide, by decide +kernel, by decide, by decide, ?_, ?_⟩
  · intro i; cases i <;> decide +kernel
  · intro v; cases v <;> decide

theorem witness_AWindowRestartClosesTheWindow : ready.receives fromCab 0x20 2 ∧ ready.shutdown = none
    ∧ ready.bus.queue.length < 24 ∧ 100 ≤ min (ready.window.length * 100) ((ready.now + 100000 - ready.window.startedAt) / 1000)
    ∧ min (ready.window.length * 100) ((ready.now + 99999 - ready.window.startedAt) / 1000) < 100 :=
  ⟨(heard 2 (by decide) ready rfl rfl rfl).2, by decide⟩

/-- The part RESTRAINED with cause LOAD, a reduction of its own last sent, and another one pending. -/
def reducing (sent pending : Nat) : Part := { ready with
  evaluator := { ready.evaluator with restrain := .restrained .load 0, sentReduction := sent }
  store := { ready.store with pendingPreset := { ready.store.pendingPreset with
    restrain := { ready.store.pendingPreset.restrain with reduction := pending } } } }

theorem witness_ADiscardedCloseSendsANewReduction :
    let applied := fun p : Part => ({ p with now := 99999 } : Part).clearAccumulators.applyParameters inOrder p.window.number
    (let p := reducing 200 300
     (applied p).reduction ≠ p.reduction ∧ (applied p).reduction ≠ (applied p).evaluator.sentReduction)
    ∧ (let p := reducing 200 200
       (applied p).reduction = p.reduction) := by decide +kernel

/-! Evaluations, symptoms and the Feed Restrain -/

theorem witness_AnEvaluationAveragesTheNewestCleanRecords :
    let spoiled : WindowRecord := { record with tags := { record.tags with notHarvesting := true } }
    let clean : WindowRecord := { record with tags := ⟨false, false, false, false, false, false, false, false⟩ }
    (∀ r ∈ [clean], r.tags.spoiled = false) ∧ (∀ r, [spoiled].getLast? = some r → r.tags.spoiled = true)
    ∧ ([clean].filter fun r => r.tags.clean).length < 2 ∧ 1 ≤ ([clean].filter fun r => r.tags.clean).length :=
  ⟨by decide, of_some _ rfl (by decide), by decide, by decide⟩

/-- An entry of the Trim Table that opens the upper sieve at a sieve loss. -/
def opening : TrimEntry := ⟨true, .sieveLoss, some .grainDirty, .upperSieve, 10⟩

theorem witness_TheTrimEngineTakesAnEntry :
    let p := judging (automatic .upperSieve) .sieveLoss
    let symptoms := p.evaluator.evaluation.symptoms
    (p.evaluator.evaluation.averages.isSome = true ∧ p.harvesting = true ∧ p.override.relief = .armed ∧ p.shutdown = none
      ∧ p.settle ≤ 1 ∧ ¬2 ≤ 1)
    ∧ (opening.enabled = true ∧ symptoms.get .sieveLoss = true ∧ symptoms.get .grainDirty = false
      ∧ (p.entryOf .upperSieve).mode = .auto ∧ (p.entryOf .upperSieve).hold = none ∧ (p.motionOf .upperSieve).phase = .idle
      ∧ p.blocked .upperSieve = false ∧ (p.motionOf .upperSieve).referenced = true
      ∧ p.clampToEnvelope .upperSieve ((p.entryOf .upperSieve).setpoint + 10) ≠ (p.entryOf .upperSieve).setpoint)
    ∧ ({ opening with enabled := false } : TrimEntry).enabled = false
    ∧ (p.motionOf .upperSieve).move = none ∧ (p.entryOf .upperSieve).requests = [] ∧ p.capture.engaged = true
    ∧ p.bus.queue.length < 23
    ∧ p.countsOf .upperSieve (p.clampToEnvelope .upperSieve ((p.entryOf .upperSieve).setpoint + 10))
        ≠ (p.motionOf .upperSieve).position := by decide

theorem witness_SymptomsFollowTheirThresholds :
    let t := ready.store.activePreset.thresholds
    (∀ k, (t.get k).clearAt < (t.get k).setAt) ∧ (t.get .sieveLoss).setAt ≤ 1200 ∧ 900 ≤ (t.get .sieveLoss).clearAt
    ∧ ((t.get .sieveLoss).clearAt < 901 ∧ 1199 < (t.get .sieveLoss).setAt)
    ∧ (∃ a b c : Averages, 0 < a.imb ∧ b.imb < 0 ∧ c.imb = 0) :=
  ⟨by intro k; cases k <;> decide, by decide, by decide, by decide,
    ⟨⟨0, 0, 0, 0, 1⟩, ⟨0, 0, 0, 0, -1⟩, ⟨0, 0, 0, 0, 0⟩, by decide⟩⟩

theorem witness_AHeldReportAgesAndGoesStale :
    let held := fun (age : Nat) (available : Bool) => ({ ready with evaluator := { ready.evaluator with
      freshReport := some ⟨⟨1, 2, 50⟩, age⟩
      evaluation := { ready.evaluator.evaluation with grainAvailable := available } } } : Part)
    let most := ready.store.activePreset.qualityMaxAge
    (held 3 true).evaluator.freshReport = some ⟨⟨1, 2, 50⟩, 3⟩ ∧ min 255 (3 + 1) < most
    ∧ (held 4 true).evaluator.freshReport = some ⟨⟨1, 2, 50⟩, 4⟩ ∧ most ≤ min 255 (4 + 1)
    ∧ (held 4 true).evaluator.evaluation.grainAvailable = true ∧ (held 255 false).evaluator.evaluation.grainAvailable = false
    ∧ most ≤ min 255 (255 + 1) ∧ ready.evaluator.freshReport = none := by decide

/-- The part at work with the Feed Restrain in a state. -/
def restraining (r : Restrain) : Part := { ready with evaluator := { ready.evaluator with restrain := r } }

theorem witness_APendingRestraintCountsConsecutiveRecords :
    let k := ready.store.activePreset.restrain
    (restraining (.pending 1)).evaluator.restrain = .pending 1 ∧ ready.override.relief.opens = false
    ∧ ({ record with tags := { record.tags with notHarvesting := false } } : WindowRecord).tags.notHarvesting = false
    ∧ k.setAt ≤ 600 ∧ k.confirm ≤ 1 + 1 ∧ 0 + 1 < k.confirm ∧ 599 < k.setAt ∧ 1 < k.confirm := by decide

theorem witness_TheFeedRestrainHoldsAndOpens :
    let k := ready.store.activePreset.restrain
    (restraining .opened).evaluator.restrain = .opened ∧ ready.override.relief.opens = false
    ∧ (relieved ⟨.opening, none, none, none, none⟩).override.relief.opens = true
    ∧ (restraining (.restrained .load 2)).evaluator.restrain = .restrained .load 2
    ∧ (400 ≤ k.clearAt ∧ k.minHold ≤ min 255 (2 + 1)) ∧ (k.clearAt < 401 ∨ min 255 (2 + 1) < k.minHold)
    ∧ min 255 (1 + 1) < k.minHold ∧ 599 < k.setAt ∧ k.setAt ≤ 600 ∧ 1 < k.confirm
    ∧ (∃ p : Part, p.store.activePreset.restrain.confirm ≤ 1) :=
  ⟨rfl, rfl, rfl, rfl, by decide, by decide, by decide, by decide, by decide, by decide,
    ⟨{ ready with store := { ready.store with activePreset := { ready.store.activePreset with
        restrain := { ready.store.activePreset.restrain with confirm := 1 } } } }, by decide⟩⟩

theorem witness_RestrainNoticesAreDue :
    let sent := fun p : Part => p.evaluator.appended = true
    let quiet : Part := { ready with evaluator := { ready.evaluator with appended := true } }
    let calm : WindowRecord := { record with load := 599, tags := { record.tags with notHarvesting := false } }
    (sent quiet ∧ quiet.reduction = quiet.evaluator.sentReduction ∧ (quiet.judgeLoad calm).evaluator.restrain = .opened)
    ∧ (ready.evaluator.appended = false)
    ∧ (let p : Part := { relieved ⟨.openHeld false, none, none, none, none⟩ with
         evaluator := { ready.evaluator with restrain := .restrained .relief 0 } }
       p.override.relief.opens = true ∧ p.evaluator.restrain = .restrained .relief 0)
    ∧ (let p : Part := { relieved ⟨.opening, none, none, none, none⟩ with
         evaluator := { ready.evaluator with restrain := .restrained .load 0 }
         store := { ready.store with activePreset := { ready.store.activePreset with
           restrain := { ready.store.activePreset.restrain with reduction := 1000 } } } }
       p.override.relief.opens = true ∧ p.evaluator.restrain = .restrained .load 0
         ∧ p.store.activePreset.restrain.reduction = 1000) := by decide +kernel

theorem witness_AQualityReportIsHeld : ready.power = .on ∧ ready.bus.silentUntil = none
    ∧ fromQuality.source ≠ ready.store.activeCal.figures.nodeAddress
    ∧ (fromQuality.destination = ready.store.activeCal.figures.nodeAddress ∨ fromQuality.destination = broadcastAddress)
    ∧ (fromQuality.source = qualityAddress ∧ 6 ≤ fromQuality.length)
    ∧ (fromDrive.source ≠ qualityAddress ∨ fromDrive.length < 6) := by decide

/-! The Setting Book -/

/-- The part at work with a channel's motion changed. -/
def withMotion (c : Channel) (m : Motion) : Part := { ready with motion := ready.motion.set c m }

theorem witness_SettingRequestsAreRefusedInOrder :
    ready.receives fromCab 0x20 6 ∧ closing.shutdown.isSome = true ∧ ready.shutdown = none ∧ 5 < (6 : Byte).toNat
    ∧ Channel.ofCode (5 : Byte).toNat = some .louver
    ∧ (∃ p : Part, p.service = true ∧ p.shutdown = none)
    ∧ ((SettingKind.home = .home ∨ SettingKind.home = .shake) ∧ Channel.fan ∈ [Channel.drum, Channel.fan])
    ∧ (∃ p : Part, p.store.activeCal.valid = false) ∧ (withMotion .fan (.reset (.faulted .stall))).motion.fan.phase = .faulted .stall
    ∧ (asks 1 0).value = 0 ∧ (asks 0 1).value ≠ 0 ∧ standing.capture.engaged = false
    ∧ ((withMotion .louver (.reset .idle)).motionOf .louver).referenced = false
    ∧ (let p := withMotion .concave { restingAt 560 with phase := .waiting, move := some { move with owner := .request .service } }
       p.busy .concave = true ∧ (p.motionOf .concave).move = some { move with owner := .request .service }
         ∧ (p.motionOf .concave).referenced = true ∧ 1 < (Owner.request .service).rank)
    ∧ ready.service = false ∧ ready.bus.queue.length < 24 :=
  ⟨witness_frames.2, rfl, rfl, by decide, rfl, ⟨serviced, rfl, rfl⟩, by decide, ⟨Part.reset, rfl⟩, rfl, rfl, by decide, rfl, rfl,
    ⟨rfl, rfl, rfl, by decide⟩, rfl, by decide⟩

theorem free (c : Channel) : ready.standsFree c := by
  cases c <;> exact ⟨rfl, rfl, fun _ => rfl, rfl⟩

theorem ordered : ready.store.activePreset.envelopesOrdered := by
  intro c; cases c <;> decide

theorem witness_ASetOnAFreePositionalChannelIsTaken :
    ((0x20 : Byte) = cabAddress ∧ ready.service = false) ∧ ready.receives fromCab 0x20 6 ∧ ready.shutdown = none
    ∧ Channel.ofCode (asks 1 150).channel.toNat = some (PosChannel.concave).channel ∧ ready.standsFree .concave
    ∧ (ready.motionOf .concave).referenced = true ∧ ready.store.activePreset.envelopesOrdered
    ∧ ready.countsOf .concave (ready.clampToEnvelope .concave (asks 1 150).value.toInt) ≠ (ready.motionOf .concave).position
    ∧ ready.bus.queue.length < 24 ∧ ready.slots.length < 2
    ∧ 2 ≤ ({ ready with slots := [⟨.fan, 0⟩, ⟨.drum, 0⟩] } : Part).slots.length :=
  ⟨by decide, witness_frames.2, rfl, rfl, free .concave, rfl, ordered, by decide, by decide, by decide, by decide⟩

/-- A SET of the operator for the concave. -/
def asked : Entry := ⟨.operator, .set (some 150), 10, some 7, false⟩

/-- The part with the concave coasting under no move and requests listed. -/
def coastingTo (referenced : Bool) (list : List Entry) : Part := { ready with
  motion := ready.motion.set .concave { restingAt 560 with
    phase := .coasting, coastEndsAt := some 10000, referenced := referenced }
  book := ready.book.set .concave { ready.entryOf .concave with requests := list } }

theorem witness_AnArrivalIsPlaced :
    ((relieved ⟨.openHeld false, none, none, none, none⟩).blocked .concave = true
      ∧ ((relieved ⟨.openHeld false, none, none, none, none⟩).entryOf .concave).requests = [])
    ∧ (let p := withMotion .concave (.reset .idle)
       (p.motionOf .concave).phase = .idle ∧ (p.motionOf .concave).move = none ∧ (p.motionOf .concave).referenced = false
         ∧ 0 < (p.store.activeCal.figures.pos.get .concave).homeTravel)
    ∧ (let mv : Move := { move with owner := .request (.automatic .trim) }
       ((drivingWith mv).motionOf .concave).move = some mv ∧ (drivingWith mv).blocked .concave = false
         ∧ ((drivingWith mv).motionOf .concave).phase = .driving ∧ ((drivingWith mv).entryOf .concave).requests = []
         ∧ mv.owner.rank < Requester.operator.rank)
    ∧ (move.owner = .request .operator ∧ move.kind = .set ∧ move.direction = some .up
      ∧ Direction.up.sign * (560 - ((drivingWith move).motionOf .concave).position) ≤ 0
      ∧ 0 < Direction.up.sign * (561 - ((drivingWith move).motionOf .concave).position)) := by decide

theorem witness_AListIsTakenAtACoastsEnd :
    (let p := coastingTo true [asked, { asked with requester := .automatic .restore }]
     p.power = .on ∧ p.shutdown = none ∧ (p.motionOf .concave).coastEndsAt = some 10000 ∧ (p.motionOf .concave).move = none
       ∧ (p.motionOf .concave).standing = none ∧ p.override.relief.blocks = false
       ∧ (p.entryOf .concave).requests = asked :: [{ asked with requester := .automatic .restore }]
       ∧ (p.motionOf .concave).referenced = true
       ∧ p.countsOf .concave (p.clampToEnvelope .concave 150) ≠ (p.motionOf .concave).position)
    ∧ (let p := coastingTo false [asked, { asked with requester := .automatic .restore }]
       (p.motionOf .concave).referenced = false ∧ 0 < (p.store.activeCal.figures.pos.get .concave).homeTravel
         ∧ ∀ y ∈ [{ asked with requester := .automatic .restore }], y.requester.rank < asked.requester.rank)
    ∧ ((coastingTo false [{ asked with kind := .jog .up }]).entryOf .concave).requests = [{ asked with kind := .jog .up }]
    ∧ (1 < windowsAbove ready.window.number 8 ∧ ¬1 < windowsAbove ready.window.number 9) := by decide

theorem witness_ASetOnAFreeSpeedChannelIsTakenOrDeferred :
    ((0x20 : Byte) = cabAddress ∧ ready.service = false) ∧ ready.receives fromCab 0x20 6 ∧ ready.shutdown = none
    ∧ Channel.ofCode (asks 4 900).channel.toNat = some (SpeedChannel.fan).channel ∧ ready.standsFree .fan
    ∧ ready.store.activePreset.envelopesOrdered ∧ ready.capture.engaged = true ∧ standing.capture.engaged = false
    ∧ (let approach := (ready.store.activePreset.bands.get .fan).approach
       approach < distance 16 0 ∧ distance 15 0 ≤ approach ∧ 0 < (ready.store.activeCal.figures.speed.get .fan).maxDriveTime)
    ∧ ready.slots.length < 2 :=
  ⟨by decide, witness_frames.2, rfl, rfl, free .fan, ordered, rfl, rfl, by decide, by decide⟩

theorem witness_ASetOnASpeedChannelThatDoesNotStandFree :
    ready.clampToEnvelope .drum 900 = 900 ∧ (ready.entryOf .drum).setpoint < 900 ∧ ¬(ready.entryOf .drum).setpoint < 850
    ∧ ready.standsFree .drum ∧ (relieved ⟨.armed, none, none, none, some 900⟩).override.relief = .armed
    ∧ (relieved ⟨.returning, none, none, none, some 900⟩).override.relief = .returning
    ∧ (let p := withMotion .drum { Motion.reset .idle with phase := .coasting, coastEndsAt := some 300 }
       p.blocked .drum = true ∧ (p.entryOf .drum).requests = [])
    ∧ (let mv : Move := { move with target := some 850, owner := .request (.automatic .regulate) }
       let p := withMotion .drum { Motion.reset .idle with phase := .driving, move := some mv }
       (p.motionOf .drum).move = some mv ∧ p.blocked .drum = false ∧ (p.motionOf .drum).phase = .driving
         ∧ (p.entryOf .drum).requests = [] ∧ mv.owner.rank < Requester.operator.rank)
    ∧ (move.granted = true ∧ move.direction = some .up ∧ move.kind = .set
      ∧ 0 < Direction.up.sign * (1 - drumDriven.rpmOf .drum) ∧ ¬0 < Direction.up.sign * (0 - drumDriven.rpmOf .drum))
    ∧ ({ move with direction := none } : Move).direction = none :=
  ⟨by decide, by decide, by decide, free .drum, rfl, rfl, by decide, by decide, by decide, rfl⟩

theorem witness_AJogStartsOrIsRefreshed :
    Channel.ofCode (asks 1 1).channel.toNat = some .concave ∧ (asks 1 1).value ≠ 0 ∧ ready.standsFree .concave
    ∧ (ready.motionOf .concave).referenced = true
    ∧ distanceToEdge .up (ready.motionOf .concave).position (ready.jogEdge .concave .up) ≠ 0
    ∧ (let p := drivingWith { move with kind := .jog, scheduling := .held }
       (p.motionOf .concave).move = some { move with kind := .jog, scheduling := .held } ∧ (p.motionOf .concave).referenced = true
         ∧ (∀ cause, (p.motionOf .concave).phase ≠ .faulted cause))
    ∧ (let p := withMotion .concave (restingAt 1800)
       distanceToEdge .up (p.motionOf .concave).position (p.jogEdge .concave .up) = 0)
    ∧ ready.standsFree .fan ∧ ready.capture.engaged = true
    ∧ (distanceToEdge .up 1300 (ready.jogEdge .fan .up) = 0 ∧ distanceToEdge .up 1299 (ready.jogEdge .fan .up) ≠ 0)
    ∧ (let p := relieved ⟨.returning, none, none, none, none⟩
       p.blocked .concave = true ∧ (p.entryOf .concave).requests = [] ∧ (p.motionOf .concave).referenced = true
         ∧ (p.motionOf .concave).move = none) :=
  ⟨rfl, by decide, free .concave, rfl, by decide, ⟨rfl, rfl, nofun⟩, by decide, free .fan, rfl, by decide, by decide⟩

/-- The part with a jog of the operator driven on the concave, its refresh timer running. -/
def jogging : Part := { drivingWith { move with kind := .jog, scheduling := .held } with
  bus := { ready.bus with jogTimers := ready.bus.jogTimers.set .concave (some 300000) } }

theorem witness_AJogEndsAtItsStopOrRefreshExpiry :
    ((jogging.motionOf .concave).phase = .driving
      ∧ (jogging.motionOf .concave).move = some { move with kind := .jog, scheduling := .held })
    ∧ ((∀ mv, (ready.motionOf .concave).move = some mv → mv.kind ≠ .jog ∨ mv.owner ≠ .request .operator)
        ∧ (ready.entryOf .concave).requests = [])
    ∧ jogging.bus.jogTimers.get .concave = some 300000 :=
  ⟨by decide, ⟨fun mv h => by simp [ready, Part.motionOf, PerChannel.get, restingAt, Motion.reset] at h, rfl⟩, by decide⟩

theorem witness_AJogEndsAtItsCoastsEnd :
    (let mv : Move := { move with kind := .jog, scheduling := .held, edge := 560, driveEnd := .workLeft }
     let p := coastingWith mv
     p.power = .on ∧ (p.motionOf .concave).coastEndsAt = some 10000 ∧ (p.motionOf .concave).move = some mv
       ∧ mv.owner = .request .operator ∧ mv.begunCoasting = false ∧ (p.entryOf .concave).requests = []
       ∧ (p.motionOf .concave).stallCount < 2 ∧ 2 ≤ ({ restingAt 560 with stallCount := 2 } : Motion).stallCount
       ∧ mv.driveEnd ≠ .stall ∧ mv.direction = some .up ∧ mv.remaining ≠ 0
       ∧ distanceToEdge .up (p.motionOf .concave).position mv.edge = 0
       ∧ distanceToEdge .up (p.motionOf .concave).position 561 ≠ 0)
    ∧ ((∀ e ∈ ([] : List Entry), ∀ way, e.kind ≠ .jog way) ∧ (SpeedChannel.drum).channel = .drum)
    ∧ distanceToEdge .up (ready.rpmOf .drum) 0 = 0 ∧ distanceToEdge .up (ready.rpmOf .drum) 1 ≠ 0 :=
  ⟨by decide, ⟨nofun, rfl⟩, by decide, by decide⟩

theorem witness_HomeAndShakeStartTheirMoves :
    Channel.ofCode (asks 2 100).channel.toNat = some (PosChannel.upperSieve).channel ∧ ready.standsFree .upperSieve
    ∧ ready.store.activeCal.valid = true ∧ 0 < (ready.store.activeCal.figures.pos.get .upperSieve).homeTravel
    ∧ (let p := withMotion .upperSieve (.reset (.faulted .stall))
       (p.motionOf .upperSieve).phase = .faulted .stall ∧ (p.motionOf .upperSieve).move = none
         ∧ (p.entryOf .upperSieve).requests = [])
    ∧ (ready.motionOf .upperSieve).referenced = true
    ∧ (clamp 5 100 (asks 2 5).value.toInt = 5 ∧ clamp 5 100 (asks 2 100).value.toInt = 100
      ∧ clamp 5 100 (asks 2 4).value.toInt ≠ 4 ∧ clamp 5 100 (asks 2 101).value.toInt ≠ 101)
    ∧ (clampNat 1 15 (1 : Byte).toNat = 1 ∧ clampNat 1 15 (15 : Byte).toNat = 15
      ∧ clampNat 1 15 (0 : Byte).toNat ≠ 0 ∧ clampNat 1 15 (16 : Byte).toNat ≠ 16)
    ∧ (let counts := clampNat 1 65535 (unitsToCounts (ready.store.activeCal.figures.pos.get .upperSieve).cal16 100).toNat
       ((225 : Int) + counts ≤ 32767 ∧ -32768 ≤ (225 : Int) - counts)) :=
  ⟨rfl, free .upperSieve, rfl, by decide, ⟨rfl, rfl, rfl⟩, rfl, by decide, by decide, by decide⟩

theorem witness_HomeAndShakeEnd :
    let homing : Move := { move with kind := .home, target := none, remaining := 1 }
    let shaking : Move := { move with kind := .shake, remaining := 0, halfMoves := 2, driveEnd := .ownEnd }
    ((coastingWith homing).power = .on ∧ ((coastingWith homing).motionOf .concave).move = some homing
      ∧ ((coastingWith homing).motionOf .concave).coastEndsAt = some 10000 ∧ homing.begunCoasting = false
      ∧ ((coastingWith homing).entryOf .concave).requests = [] ∧ homing.driveEnd ≠ .stall ∧ homing.remaining ≠ 0
      ∧ (coastingWith homing).bus.queue.length < 24)
    ∧ (((coastingWith shaking).motionOf .concave).move = some shaking ∧ shaking.driveEnd ≠ .stall ∧ 1 < shaking.halfMoves
      ∧ ({ shaking with halfMoves := 1 } : Move).halfMoves ≤ 1 ∧ shaking.target = some 565
      ∧ distance 572 ((coastingWith shaking).motionOf .concave).position ≤ ready.deadbandCounts .concave
      ∧ ready.deadbandCounts .concave < distance 573 ((coastingWith shaking).motionOf .concave).position)
    ∧ (({ shaking with driveEnd := .stall } : Move).kind = .shake ∧ ((coastingWith shaking).motionOf .concave).stallCount + 1 < 3
      ∧ 3 ≤ ({ restingAt 560 with stallCount := 2 } : Motion).stallCount + 1)
    ∧ ((coastingWith { shaking with remaining := 3 }).power = .on ∧ ({ shaking with remaining := 3 } : Move).remaining ≠ 0
      ∧ 0 < shaking.base) := by decide

theorem witness_ModesAndHoldsChangeAsAsked :
    ready.receives fromCab 0x20 3 ∧ closing.shutdown.isSome = true ∧ 5 < (6 : Byte).toNat
    ∧ Channel.ofCode (4 : Byte).toNat = some .fan ∧ serviced.service = true ∧ ready.service = false
    ∧ (let p : Part := { ready with book := ready.book.set .fan { ready.entryOf .fan with hold := some ⟨.service, .untilRelease⟩ } }
       (p.entryOf .fan).hold = some ⟨.service, .untilRelease⟩)
    ∧ (∀ k, (ready.entryOf .fan).hold = some k → k.holder = .operator)
    ∧ (let p : Part := { ready with book := ready.book.set .fan { ready.entryOf .fan with hold := some ⟨.operator, .seconds 1 9⟩ } }
       (p.entryOf .fan).hold = some ⟨.operator, .seconds 1 9⟩) :=
  ⟨(heard 3 (by decide) ready rfl rfl rfl).2, rfl, by decide, rfl, rfl, rfl, rfl, nofun, rfl⟩

theorem witness_EnterStartsServiceMode : standing.receives fromTool 0x70 2 ∧ standing.shutdown = none
    ∧ (standing.bus.speedKnown = true ∧ standing.bus.groundSpeed = 0 ∧ standing.capture.engaged = false)
    ∧ ¬(ready.bus.speedKnown = true ∧ ready.bus.groundSpeed = 0 ∧ ready.capture.engaged = false)
    ∧ serviced.service = true ∧ standing.service = false ∧ standing.bus.queue.length < 24
    ∧ (((drivingWith move).motionOf .concave).move = some move ∧ move.owner ≠ .override
        ∧ ((drivingWith move).entryOf .concave).requests = [])
    ∧ (((coastingTo true [asked]).entryOf .concave).requests = [] ++ [asked] ∧ (∀ x ∈ [] ++ [asked], x.requester ≠ .service)
        ∧ ((coastingTo true [asked]).motionOf .concave).standing = none)
    ∧ (let mv : Move := { move with owner := .override, kind := .park }
       ((drivingWith mv).motionOf .concave).move = some mv ∧ mv.kind.blocks = true) :=
  ⟨(heard 2 (by decide) standing rfl rfl rfl).1, by decide⟩

theorem witness_LeaveEndsServiceMode : serviced.receives fromTool 0x70 2 ∧ serviced.shutdown = none ∧ serviced.service = true
    ∧ closing.shutdown.isSome = true ∧ standing.service = false :=
  ⟨(heard 2 (by decide) serviced rfl rfl rfl).1, by decide⟩

/-! Motion -/

theorem witness_AFeedbackPulseMovesTheCountOrIsAStray :
    (let p := drivingWith { move with remaining := 2 }
     (p.motionOf .concave).phase = .driving ∧ (p.motionOf .concave).move = some { move with remaining := 2 } ∧ 1 < 2
       ∧ ¬(move.scheduling = .stepwise ∧ p.store.activePreset.stint ≤ 0))
    ∧ (let mv : Move := { move with scheduling := .stepwise, stintCount := 39, remaining := 100 }
       mv.scheduling = .stepwise ∧ ready.store.activePreset.stint ≤ mv.stintCount + 1)
    ∧ ({ move with remaining := 1 } : Move).remaining ≤ 1
    ∧ ((coastingWith move).motionOf .concave).lastDirection = some .up
    ∧ (let p := withMotion .concave { restingAt 560 with strayCount := 6 }
       (p.motionOf .concave).phase = .idle ∧ (p.entryOf .concave).requests = [] ∧ (p.motionOf .concave).strayCount < 7)
    ∧ (let p := withMotion .concave { restingAt 560 with strayCount := 7 }
       (p.motionOf .concave).strayCount = 7 ∧ (p.motionOf .concave).referenced = true ∧ (p.motionOf .concave).move = none) := by
  decide

/-- The part with the concave referenced and 7 strays counted, requests listed for it: with Plug Relief open over it, or a RELIEF
move that waits. -/
def straying (mv : Option Move) (list : List Entry) : Part := {
  relieved ⟨if mv.isSome then .opening else .openHeld false, none, none, none, none⟩ with
  motion := ready.motion.set .concave { restingAt 560 with
    phase := if mv.isSome then .waiting else .idle, move := mv, strayCount := 7 }
  book := ready.book.set .concave { ready.entryOf .concave with requests := list } }

theorem witness_AStrayOnAChannelWithRequests :
    let lifting : Move := { move with owner := .override, kind := .relief }
    (∀ mv ∈ [none, some lifting], ∀ e ∈ [asked, { asked with kind := .home }, { asked with kind := .shake 10 2 }],
      ∀ others ∈ [[], [{ asked with requester := .automatic .trim }]],
        let p := straying mv (e :: others)
        let m := p.motionOf .concave
        p.power = .on ∧ m.strayCount = 7 ∧ m.referenced = true ∧ (p.entryOf .concave).requests = e :: others ∧ p.shutdown = none
          ∧ m.standing = none ∧ (mv = none → m.phase = .idle ∧ p.blocked .concave = true ∧ m.move = none)
          ∧ (mv = some lifting → m.phase = .waiting ∧ m.move = some lifting ∧ lifting.kind ≠ .home)
          ∧ (∀ y ∈ others, y.requester.rank < e.requester.rank) ∧ e.requester = .operator ∧ p.bus.queue.length < 23
          ∧ 0 < (p.store.activeCal.figures.pos.get .concave).homeTravel)
    ∧ ((straying (some lifting) []).entryOf .concave).requests = [] := by decide +kernel

theorem test_the_eighth_stray_homes_for_a_listed_set :
    leaves (.feedbackPulse 5 .concave) (straying (some { move with owner := .override, kind := .relief }) [asked]) (fun p =>
      (p.motionOf .concave).move.map (·.kind) = some .home && (p.entryOf .concave).requests = [asked]
        && p.override.relief = .disarmed) = true := rfl

theorem witness_ACoastOrSettleEndsTheMove :
    let mv : Move := { move with remaining := 0, driveEnd := .ownEnd }
    let p := coastingWith mv
    p.power = .on ∧ (p.motionOf .concave).coastEndsAt = some 10000 ∧ (p.motionOf .concave).move = some mv ∧ mv.kind = .set
      ∧ mv.begunCoasting = false ∧ (p.entryOf .concave).requests = [] ∧ mv.target = some 565 ∧ mv.driveEnd = .ownEnd
      ∧ distance 565 (p.motionOf .concave).position ≤ p.deadbandCounts .concave
      ∧ p.deadbandCounts .concave < distance 700 (p.motionOf .concave).position
      ∧ (SpeedChannel.drum).channel = .drum
      ∧ (p.motionOf .concave).stallCount + 1 < 3 ∧ 3 ≤ ({ restingAt 560 with stallCount := 2 } : Motion).stallCount + 1
      ∧ (let kept : Move := { mv with driveEnd := .workLeft, remaining := 1 }
         kept.driveEnd = .workLeft ∧ kept.remaining ≠ 0 ∧ 0 < kept.base ∧ kept.target = some 565)
      ∧ (let approach := (ready.store.activePreset.bands.get .drum).approach
         distance 15 (ready.rpmOf .drum) ≤ approach ∧ approach < distance 16 (ready.rpmOf .drum)) := by decide

theorem witness_AStallOrALimitTurnsTheDriveOff :
    ((drivingWith move).motionOf .concave).phase = .driving ∧ ((drivingWith move).motionOf .concave).move = some move
    ∧ ((drivingWith move).motionOf .concave).stallAt = some 400000
    ∧ (drumDriven.motionOf .drum).phase = .driving
    ∧ (drumDriven.motionOf .drum).move = some { move with target := some 850 } := by decide

/-- The part with the drum and the fan driven, by the operator and automatically, and the sieves and the concave waiting. -/
def crowded (k : MoveKind) (o : Owner) : Part :=
  let driven : Move := { move with target := some 850 }
  let waits := fun mv : Move => ({ restingAt 225 with phase := .waiting, move := some mv } : Motion)
  { ready with
    motion := { ready.motion with
      drum := { Motion.reset .idle with phase := .driving, move := some driven }
      fan := { Motion.reset .idle with phase := .driving, move := some { driven with owner := .request (.automatic .regulate) } }
      upperSieve := waits move, lowerSieve := waits { move with owner := .request .service }
      concave := waits { move with kind := k, owner := o } }
    slots := [⟨.drum, 0⟩, ⟨.fan, 1⟩] }

theorem witness_TheArbiterChooses :
    (let p := crowded .set (.request .operator)
     (p.motionOf .lowerSieve).phase = .waiting ∧ p.rankOrder = [.concave, .drum, .fan, .upperSieve] ++ .lowerSieve :: [.louver]
       ∧ (∀ x ∈ [Channel.concave, .drum, .fan, .upperSieve], (p.motionOf x).phase = .waiting → p.classOf x < p.classOf .lowerSieve)
       ∧ (∀ x ∈ [Channel.louver], (p.motionOf x).phase = .waiting → p.classOf x ≤ p.classOf .lowerSieve)
       ∧ p.bestWaiting = some .lowerSieve ∧ (p.motionOf .lowerSieve).move.isSome = true
       ∧ (p.slots.filter (·.channel ≠ .drum)).length < 2 ∧ 2 ≤ p.slots.length)
    ∧ (∀ c ∈ ready.rankOrder, (ready.motionOf c).phase ≠ .waiting) ∧ ready.slots.length < 2
    ∧ (let p := crowded .relief .override
       p.slots = [⟨.drum, 0⟩] ++ ⟨.fan, 1⟩ :: [] ∧ Channel.fan ≠ .concave ∧ (p.motionOf .fan).move.isSome = true
         ∧ p.classOf .fan < 3 ∧ ∀ x ∈ [(⟨.drum, 0⟩ : Slot)], p.classOf .fan ≤ p.classOf x.channel)
    ∧ (let p : Part := { crowded .relief .override with slots := [⟨.concave, 0⟩, ⟨.concave, 1⟩] }
       ∀ x ∈ p.slots, p.classOf x.channel = 3)
    ∧ ready.store.activePreset.rank.get .louver ≤ 5 := by decide

/-- The part with the concave 10 ms from the end of a move's coast, Plug Relief in a state. -/
def overriding (r : Relief) (mv : Move) : Part := { coastingWith mv with
  override := ⟨r, none, none, none, none⟩
  evaluator := { ready.evaluator with restrain := .restrained .relief 0 } }

theorem witness_TheOverrideUnitsMovesEnd :
    let ends : Move := { move with owner := .override, remaining := 0, driveEnd := .ownEnd }
    let relief := overriding .opening { ends with kind := .relief }
    let returning := overriding .returning { ends with kind := .returning }
    (∀ k ∈ [MoveKind.relief, .returning, .park], k ∈ [MoveKind.set, .relief, .returning, .park])
    ∧ ((relief.motionOf .concave).move = some { ends with kind := .relief } ∧ relief.override.relief = .opening
      ∧ (relief.motionOf .concave).coastEndsAt = some 10000 ∧ (relief.entryOf .concave).requests = [])
    ∧ ((returning.motionOf .concave).move = some { ends with kind := .returning } ∧ returning.override.relief = .returning
      ∧ returning.bus.queue.length < 22)
    ∧ (relief.override.relief.opens = true ∧ relief.override.relief ≠ .disarmed
      ∧ relief.evaluator.restrain = .restrained .relief 0)
    ∧ (let mv : Move := { ends with kind := .relief, begunCoasting := true }
       let p := overriding .opening mv
       (p.motionOf .concave).move = some mv ∧ mv.begunCoasting = true ∧ mv.target = some 565
         ∧ distance 565 (p.motionOf .concave).position ≠ 0 ∧ distance 560 (p.motionOf .concave).position = 0)
    ∧ (relief.slots.length < 2 ∧ 2 ≤ (crowded .relief .override).slots.length
      ∧ (∀ y ∈ (crowded .relief .override).slots, y.channel ≠ .concave)
      ∧ ∃ y ∈ (crowded .relief .override).slots, (crowded .relief .override).classOf y.channel < 3) := by decide

theorem test_coastTimerExpiry_release_first :
    let p : Part := { crowded .relief .override with
      motion := (crowded .relief .override).motion.set .concave { restingAt 560 with
        phase := .coasting, coastEndsAt := some 10000
        move := some { move with kind := .relief, owner := .override, begunCoasting := true } } }
    leaves (.coastTimerExpiry .concave true) p (fun t => t.motion.concave.phase = .waiting && t.slots = p.slots)
      && leaves (.coastTimerExpiry .concave false) p (fun t => t.motion.concave.phase = .driving && t.motion.fan.phase = .coasting) =
    true := rfl

/-! Plug Relief -/

theorem witness_TheWatchSuspectsAndReliefGivesUp :
    (relieved ⟨.armed, none, none, none, some 900⟩).override.relief = .armed
    ∧ (relieved ⟨.armed, none, none, none, some 900⟩).override.watchAt = some 900 ∧ 0 < (ready.entryOf .drum).setpoint
    ∧ (∀ r ∈ [Relief.suspect, .openHeld false, .openHeld true, .returning, .disarmed, .spinup, .opening],
        (relieved ⟨r, none, none, none, some 900⟩).override.relief = r
          ∧ (relieved ⟨r, none, none, none, some 900⟩).override.watchAt = some 900)
    ∧ (relieved ⟨.returning, none, none, none, some 900⟩).override.confirmAt = none
    ∧ (relieved ⟨.returning, some 950, none, none, some 900⟩).override.confirmAt ≠ none
    ∧ (relieved ⟨.openHeld false, none, none, some 900, none⟩).override.giveUpAt = some 900 := by decide

theorem test_drumWatchTimerExpiry_held : leaves .drumWatchTimerExpiry (relieved ⟨.openHeld false, none, some 950, some 5000, some 900⟩)
    (fun t => t.override.recoverAt = none && t.override.giveUpAt = some 5000 && t.now = 900) = true := rfl

theorem witness_AConfirmedPlugOpensTheConcave :
    let p := relieved ⟨.suspect, some 900, none, none, none⟩
    let f := p.store.activeCal.figures.factory.concave
    p.override.relief = .suspect ∧ p.override.confirmAt = some 900 ∧ (p.motionOf .concave).phase = .idle
      ∧ (p.motionOf .concave).move = none
      ∧ (p.motionOf .concave).position
          < max (p.countsOf .concave (clamp f.min f.max p.store.activePreset.relief.gap)) (p.motionOf .concave).position
      ∧ p.bus.queue.length < 24 := by decide

theorem witness_AConfirmedPlugFindsTheConcaveBusy :
    let suspect := fun m : Motion => ({ withMotion .concave m with override := ⟨.suspect, some 900, none, none, none⟩ } : Part)
    (let p := suspect { restingAt 560 with phase := .waiting, move := some move }
     (p.motionOf .concave).phase = .waiting ∧ (p.motionOf .concave).move = some move ∧ (p.motionOf .concave).standing = none)
    ∧ (let p := suspect { restingAt 560 with phase := .driving, move := some move }
       (p.motionOf .concave).phase = .driving ∧ (p.motionOf .concave).move.isSome = true)
    ∧ ((suspect { restingAt 560 with phase := .coasting, coastEndsAt := some 10000 }).motionOf .concave).phase = .coasting
    ∧ (let p := suspect (restingAt 1400)
       let f := p.store.activeCal.figures.factory.concave
       max (p.countsOf .concave (clamp f.min f.max p.store.activePreset.relief.gap)) (p.motionOf .concave).position
         = (p.motionOf .concave).position ∧ p.bus.queue.length < 20)
    ∧ (∀ held, ready.evaluator.restrain ≠ .restrained .relief held) := by
  refine ⟨by decide, by decide, by decide, by decide, nofun⟩

theorem witness_ARecoveredDrumReturnsTheConcave :
    let p : Part := { relieved ⟨.openHeld false, none, some 900, some 5000, none⟩ with
      motion := { ready.motion with concave := restingAt 1000 } }
    p.override.recoverAt = some 900 ∧ (p.motionOf .concave).phase = .idle ∧ (p.motionOf .concave).move = none
      ∧ p.countsOf .concave (p.entryOf .concave).setpoint ≠ (p.motionOf .concave).position := by decide

theorem witness_AReturnWithNothingToGo :
    let p : Part := { relieved ⟨.openHeld false, none, some 900, some 5000, none⟩ with
      evaluator := { ready.evaluator with restrain := .restrained .relief 3 } }
    p.override.recoverAt = some 900 ∧ p.override.relief.opens = true ∧ p.bus.queue.length < 20
      ∧ p.evaluator.restrain = .restrained .relief 3 ∧ (p.entryOf .concave).requests = []
      ∧ p.countsOf .concave (p.entryOf .concave).setpoint = (p.motionOf .concave).position := by decide

/-! The Preset Store -/

theorem witness_PageStatesAreJudgedByTheCheckValue :
    (erasedWords.length = 256 ∧ (∀ w ∈ erasedWords, w = 0xFFFF))
    ∧ (let words : List Word := List.replicate 255 0 ++ [0x5A5A]
       words.length = 256 ∧ (∃ w ∈ words, w ≠ 0xFFFF) ∧ judgePage 1 words = .valid ∧ judgePage 2 words = .valid)
    ∧ judgePage 1 (List.replicate 255 0 ++ [0x5A59]) = .damaged
    ∧ judgePage 0 ((List.replicate 255 (0 : Word) ++ [0x5A59]).set lockWordIndex 0xFFFF) = .valid ∧ 17 < 18
    ∧ 17 < ready.store.pageStates.length :=
  ⟨⟨List.length_replicate, fun w h => (List.mem_replicate.mp h).2⟩, ⟨by decide +kernel,
    ⟨0, List.mem_append_left _ (List.mem_replicate.mpr ⟨by decide, rfl⟩), by decide⟩, by decide +kernel, by decide +kernel⟩,
    by decide +kernel, by decide +kernel, by decide, by decide⟩

theorem witness_APageWrittenLeavesTheOthers : (ready.store.memory).wf ∧ 17 < 18 ∧ 18 ≤ 18 ∧ (255 : Nat) < 256 := by decide

theorem witness_StoreRequestsBeginTheirOperations :
    ready.receives fromCab 0x20 4 ∧ serviced.receives fromTool 0x70 4 ∧ ready.store.inhibit = false ∧ ready.store.op = none
    ∧ (15 : Byte).toNat ≤ 15 ∧ serviced.service = true ∧ serviced.store.lockMark = false ∧ serviced.pageState 0 = .valid
    ∧ (0 : Byte) = 0 ∧ (1 : Byte) ≠ 0 :=
  ⟨(heard 4 (by decide) ready rfl rfl rfl).2, (heard 4 (by decide) serviced rfl rfl rfl).1, by decide⟩

/-- The part at work with the fallback preset in slot 15. -/
def saved : Part := { ready with store := { ready.store with
  memory := ready.store.memory.setPage 17 (presetPage 17 ready.store.pendingPreset)
  pageStates := PageState.valid :: List.replicate 16 .empty ++ [.valid] } }

/-- The part at work with a page judged VALID that holds no preset. -/
def erased : Part := { ready with store := { ready.store with pageStates := List.replicate 18 .valid } }

/-- The part in service mode with the inhibit latch set. -/
def latched : Part := { serviced with store := { serviced.store with inhibit := true } }

theorem witness_LoadFillsThePendingSetAndInhibitLatches :
    closing.shutdown.isSome = true ∧ 15 < (16 : Byte).toNat ∧ (15 : Byte).toNat ≤ 15
    ∧ (∃ p : Part, p.store.inhibit = true) ∧ (storing .save [3]).store.op.isSome = true
    ∧ ready.pageState ((15 : Byte).toNat + 2) ≠ .valid
    ∧ saved.store.op = none ∧ saved.pageState ((15 : Byte).toNat + 2) = .valid
    ∧ readPreset (saved.store.memory.page ((15 : Byte).toNat + 2)) = some ready.store.pendingPreset
    ∧ readPreset (erased.store.memory.page ((15 : Byte).toNat + 2)) = none ∧ erased.pageState ((15 : Byte).toNat + 2) = .valid
    ∧ (latched.store.inhibit = true ∧ latched.service = true ∧ (0 : Byte) = 0 ∧ ready.service = false)
    ∧ ∃ t : Part, exec (.lossEdge 1 .left) ⟨latched, []⟩ = .next ⟨t, []⟩ :=
  ⟨rfl, by decide, by decide, ⟨latched, rfl⟩, rfl, by decide +kernel, rfl, by decide +kernel, by decide +kernel, by decide +kernel,
    by decide, ⟨rfl, rfl, rfl, rfl⟩, ⟨_, rfl⟩⟩

theorem witness_WritingRequestsAreRefused :
    (let locked : Part := { serviced with store := { serviced.store with lockMark := true } }
     locked.service = true ∧ locked.store.inhibit = false ∧ locked.store.lockMark = true ∧ locked.shutdown = none)
    ∧ (let blank : Part := { serviced with store := { serviced.store with pageStates := List.replicate 18 .empty } }
       blank.service = true ∧ blank.store.inhibit = false ∧ blank.store.lockMark = false ∧ blank.pageState 0 ≠ .valid)
    ∧ ((storing .save [3]).service = true ∧ (storing .save [3]).store.op.isSome = true
      ∧ (storing .save [3]).pageState 0 = .valid ∧ (storing .save [3]).store.inhibit = false)
    ∧ standing.service = false ∧ standing.receives fromTool 0x70 4 :=
  ⟨by decide, by decide +kernel, by decide +kernel, rfl, (heard 4 (by decide) standing rfl rfl rfl).1⟩

theorem witness_StoreOperationsEndWithStoreDone :
    let p := storing .saveCal [0]
    p.power = .on ∧ p.store.op = some ⟨.saveCal, [0], erasedWords, 0, 40000⟩ ∧ 0 < p.store.pageStates.length := by decide +kernel

theorem witness_AWipeEndsWithOneStoreDone :
    let p := storing .wipe [16, 17, 0]
    p.power = .on ∧ (∀ x ∈ [16, 17, 0], x < 18) ∧ p.store.pageStates.length = 18 ∧ p.store.memory.wf := by decide +kernel

theorem witness_ParamRequestsReadAndWriteThePendingSet :
    serviced.receives fromTool 0x70 6 ∧ closing.shutdown.isSome = true ∧ Param.ofNumber 0xFF = none
    ∧ Param.ofNumber 0x16A = some (.preset .stint) ∧ Param.ofNumber 0x010 = some (.cal (.factoryMin .drum))
    ∧ serviced.service = true ∧ serviced.store.lockMark = false
    ∧ ready.store.pendingPreset.trimTable.length = 16 ∧ ready.store.pendingPreset.cropName.length = 6 :=
  ⟨(heard 6 (by decide) serviced rfl rfl rfl).1, rfl, by decide +kernel, by decide +kernel, by decide +kernel, rfl, rfl, rfl, rfl⟩

/-! Shutdown, start-up and the bus -/

theorem witness_AShutdownDiscardsRequestsAndMoves :
    ready.power = .on ∧ ready.shutdown = none ∧ closing.shutdown = some ⟨.keyOff, some 3000000⟩
    ∧ ready.receives fromTool 0x70 2 ∧ ready.bus.queue.length < 24
    ∧ (∃ p : Part, p.power = .on ∧ p.shutdown = some ⟨.commanded, none⟩) :=
  ⟨rfl, rfl, rfl, (heard 2 (by decide) ready rfl rfl rfl).1, by decide, ⟨{ ready with shutdown := some ⟨.commanded, none⟩ }, rfl, rfl⟩⟩

theorem witness_AShutdownFindsReliefOpen :
    let p : Part := { relieved ⟨.openHeld false, none, none, none, none⟩ with
      evaluator := { ready.evaluator with restrain := .restrained .relief 0 } }
    p.override.relief.opens = true ∧ p.evaluator.restrain = .restrained .relief 0 ∧ p.bus.queue.length ≤ 4
      ∧ (∀ c, (p.entryOf c).requests.length ≤ 1) ∧ ∀ c, (p.motionOf c).standing = none := by
  refine ⟨rfl, rfl, by decide, ?_, ?_⟩ <;> intro c <;> cases c <;> decide

theorem witness_ThePositionRecordIsWrittenBeforeRelease :
    (closing.power = .on ∧ closing.shutdown.isSome = true ∧ closing.store.op = none)
    ∧ (∀ c, (closing.motionOf c).phase = .idle ∨ ∃ cause, (closing.motionOf c).phase = .faulted cause)
    ∧ (let p : Part := { storing .positionWrite [1] with shutdown := some ⟨.keyOff, none⟩, lines := ⟨false, false, false⟩ }
       p.power = .on ∧ p.store.op = some ⟨.positionWrite, [1], erasedWords, 0, 40000⟩ ∧ p.store.pageStates.length = 18
         ∧ p.shutdown = some ⟨.keyOff, none⟩ ∧ p.lines.key = false)
    ∧ closing.lines.key = false
    ∧ (∀ k d, ({ storing .positionWrite [1] with shutdown := some ⟨k, d⟩ } : Part).shutdown = some ⟨k, d⟩
        ∧ ({ storing .positionWrite [1] with shutdown := some ⟨k, d⟩ } : Part).lines.key = true) :=
  ⟨by decide, by intro c; cases c <;> exact .inl rfl, by decide +kernel, rfl, fun _ _ => ⟨rfl, rfl⟩⟩

theorem witness_StartUpAndSupply :
    ready.power ≠ .off ∧ dark.power = .off ∧ ({ dark with power := .released } : Part).power = .released
    ∧ (closing.power = .on ∧ closing.shutdown = some ⟨.keyOff, some 3000000⟩ ∧ closing.store.op = none
        ∧ closing.override.relief = .disarmed ∧ closing.capture.engaged = false)
    ∧ (ready.capture.engaged = true ∧ ready.store.activePreset.relief.enable = true ∧ (ready.motionOf .concave).referenced = true
        ∧ (ready.motionOf .concave).phase = .idle ∧ (relieved ⟨.armed, none, none, none, none⟩).override.relief ≠ .disarmed)
    ∧ (∃ p : Part, p.shutdown = some ⟨.keyOff, none⟩ ∧ (p.motionOf .concave).referenced = false ∧ p.power = .on
        ∧ p.override.relief = .disarmed ∧ p.store.op = none)
    ∧ ({ serviced with shutdown := some ⟨.commanded, some 9⟩ } : Part).power = .on
    ∧ ready.receives fromTool 0x70 2 :=
  ⟨by decide, rfl, rfl, by decide, by decide,
    ⟨{ withMotion .concave (.reset .idle) with shutdown := some ⟨.keyOff, none⟩ }, rfl, rfl, rfl, rfl, rfl⟩, rfl,
    (heard 2 (by decide) ready rfl rfl rfl).1⟩

theorem witness_AnOperationIsCutShort :
    (storing .save [5]).store.op = some ⟨.save, [5], erasedWords, 0, 40000⟩ ∧ [5] = [] ++ 5 :: ([] : List Nat)
    ∧ (storing .save [5]).store.memory.wf
    ∧ (storing .wipe [1, 2, 3]).store.op = some ⟨.wipe, [1, 2, 3], erasedWords, 0, 40000⟩
    ∧ ([1, 2, 3].Nodup ∧ ∀ x ∈ [1, 2, 3], x < 18)
    ∧ ([1, 2, 3] = [] ++ 1 :: [2, 3] ∧ ([] : List Nat).length = min (3 - 1) ((39999 - 0) / 40000))
    ∧ ([1, 2, 3] = [1] ++ 2 :: [3] ∧ [1].length = min (3 - 1) ((40000 - 0) / 40000))
    ∧ ([1, 2, 3] = [1, 2] ++ 3 :: [] ∧ [1, 2].length = min (3 - 1) ((120000 - 0) / 40000)) := by decide +kernel

/-- A position record. -/
def recorded : PositionRecord :=
  ⟨65536, some 15, .const (-5), .const true, .const 32767, .const .follow⟩

/-- A store with the default calibration and its lock mark, a position record and the preset of its slot written. -/
def writtenMemory (k : Preset) : Memory :=
  ((Memory.setPage [] 0 ((calibrationPage .default).set lockWordIndex lockMarkWord)).setPage 1 (recordPage recorded)).setPage 17
    (presetPage 17 k)

theorem length_pageImage (page : Nat) (l : List Word) : (pageImage page l).length = pageWords := by
  unfold pageImage
  rw [List.length_append, List.length_take, List.length_append, List.length_replicate, List.length_singleton]
  simp only [pageWords]
  omega

theorem witness_AStartUpReadsBack :
    (∀ m, ({ closing with store := { closing.store with op := none, memory := m } } : Part).store.op = none)
    ∧ (∀ k, let page := (writtenMemory k).page
        page 0 = (calibrationPage .default).set lockWordIndex lockMarkWord ∧ page 1 = recordPage recorded
          ∧ recorded.slot = some 15 ∧ page (15 + 2) = presetPage (15 + 2) k)
    ∧ Memory.page (Memory.setPage [] 0 (calibrationPage .default)) 0 = calibrationPage .default
    ∧ (∀ page ∈ [0, 1, 15 + 2], Memory.page [] page = erasedWords)
    ∧ judgePage 0 erasedWords ≠ .valid ∧ judgePage 1 erasedWords ≠ .valid ∧ judgePage (15 + 2) erasedWords ≠ .valid := by
  have lc : (calibrationPage .default).length = pageWords := length_pageImage _ _
  have lr : (recordPage recorded).length = pageWords := length_pageImage _ _
  have lp : ∀ k, (presetPage 17 k).length = pageWords := fun _ => length_pageImage _ _
  have w0 := Memory.wf_setPage Memory.wf_nil 0 ((calibrationPage .default).set lockWordIndex lockMarkWord)
  have w1 := Memory.wf_setPage w0 1 (recordPage recorded)
  refine ⟨fun _ => rfl, fun k => ⟨?_, ?_, rfl, ?_⟩, ?_, by decide +kernel, by decide +kernel, by decide +kernel, by decide +kernel⟩
  · rw [writtenMemory, Memory.page_setPage_of_ne w1 (by decide), Memory.page_setPage_of_ne w0 (by decide),
      Memory.page_setPage Memory.wf_nil (by decide) (by rw [List.length_set, lc])]
  · rw [writtenMemory, Memory.page_setPage_of_ne w1 (by decide), Memory.page_setPage w0 (by decide) lr]
  · exact Memory.page_setPage w1 (by decide) (lp k)
  · rw [Memory.page_setPage Memory.wf_nil (by decide) lc]

theorem witness_AStartUpReadsLawfulPages :
    recorded.lawful ∧ Preset.lawful closing.store.pendingPreset ∧ Calibration.default.lawful := by
  refine ⟨?_, ?_, ?_⟩
  · refine ⟨by decide, by decide, by decide, ?_, ?_⟩ <;> intro c <;> cases c <;> decide
  · unfold Preset.lawful; decide +kernel
  · unfold Calibration.lawful; decide +kernel

theorem witness_TheQueueDropsPeriodicFramesFirst :
    let full : List Frame := notice :: (List.replicate 10 notice ++ periodic 3 :: List.replicate 12 (periodic 4))
    full.length = 24 ∧ (List.replicate 23 notice).length < 24 ∧ (periodic 3).body.periodic = true ∧ notice.body.periodic = false
    ∧ (∀ g ∈ List.replicate 10 notice, g.body.periodic = false)
    ∧ (∀ g ∈ (periodic 3 :: List.replicate 23 notice).drop 1, g.body.periodic = false) := by decide

theorem witness_TransmissionFollowsTheBus : ready.power = .on ∧ ready.bus.silentUntil = none
    ∧ ({ ready with bus := { ready.bus with silentUntil := some 5 } } : Part).bus.silentUntil = some 5 := by decide

theorem witness_ABookQueryIsAnsweredBySixFrames : ready.receives fromCab 0x20 0
    ∧ (0x20 : Byte) ∈ [cabAddress, propulsionAddress, qualityAddress, serviceAddress]
    ∧ (0x21 : Byte) ∉ [cabAddress, propulsionAddress, qualityAddress, serviceAddress]
    ∧ ready.receives ⟨3, 0x44, 0x21, 0⟩ 0x21 0 ∧ closing.shutdown.isSome = true :=
  ⟨(heard 0 (by decide) ready rfl rfl rfl).2, by decide, by decide, ⟨rfl, rfl, rfl, rfl, by decide, by decide⟩, rfl⟩

theorem witness_GroundSpeedGovernsHarvestingAndService : ready.power = .on ∧ ready.bus.silentUntil = none
    ∧ fromDrive.source = propulsionAddress ∧ propulsionAddress ≠ ready.store.activeCal.figures.nodeAddress ∧ 2 ≤ fromDrive.length
    ∧ fromDrive.destination = broadcastAddress ∧ ready.bus.freshUntil = some 1000000 ∧ ready.harvesting = true
    ∧ serviced.service = true := by decide

theorem witness_ServiceModeEndsByMotion :
    let waits := fun o : Owner => ({ restingAt 225 with phase := .waiting, move := some { move with owner := o } } : Motion)
    let p : Part := { serviced with
      motion := { ready.motion with upperSieve := waits (.request .service), lowerSieve := waits .override }
      book := serviced.book.set .fan { serviced.entryOf .fan with requests := [{ asked with requester := .service }] } }
    p.service = true ∧ (600 : Word).toNat ≠ 0
    ∧ ((p.motionOf .upperSieve).move = some { move with owner := .request .service } ∧ (p.entryOf .upperSieve).requests = [])
    ∧ ((p.entryOf .fan).requests = [] ++ [{ asked with requester := .service }]
      ∧ (∀ x ∈ [] ++ [{ asked with requester := Requester.service }], x.requester = .service)
      ∧ (p.motionOf .fan).standing = none)
    ∧ ((p.motionOf .lowerSieve).move = some { move with owner := .override } ∧ Owner.override ≠ .request .service
      ∧ (p.motionOf .lowerSieve).phase ∈ [.waiting, .driving, .coasting])
    ∧ p.bus.queue.length ≤ 4 ∧ ∀ c, (p.entryOf c).requests.length ≤ 1 := by
  refine ⟨rfl, by decide, by decide, by decide, by decide, by decide, ?_⟩
  intro c; cases c <;> decide

theorem witness_UnknownKindsAndOperationsAreAnsweredUnknown :
    (0x111 : BitVec 10) ∉ listedKinds ∧ ready.receives fromTool 0x70 0 ∧ ready.receives fromTool 0x70 6 ∧ ready.shutdown = none
    ∧ fromDrive.destination ≠ ready.store.activeCal.figures.nodeAddress ∧ (5 : Byte).toNat ≤ 5 :=
  ⟨by decide, (heard 0 (by decide) ready rfl rfl rfl).1, witness_frames.1, rfl, by decide, by decide⟩

theorem witness_RequestFramesAreJudged :
    let number := ⟨0x0FF, 0, 5⟩
    ready.power = .on ∧ ready.bus.silentUntil = none ∧ fromTool.destination = ready.store.activeCal.figures.nodeAddress
    ∧ fromTool.source ≠ ready.store.activeCal.figures.nodeAddress ∧ (0xFF : Byte) ≠ ready.store.activeCal.figures.nodeAddress
    ∧ requestFrame (.set 5 fromTool (asks 1 140)) = some ⟨5, fromTool, 0x01, 6, 7, some 1, true, 0⟩
    ∧ requestFrame (.paramWrite 5 { fromCab with length := 2 } number) =
        some ⟨5, { fromCab with length := 2 }, 0x04, 6, 5, none, false, 3⟩
    ∧ requestFrame (.paramWrite 5 { fromCab with length := 3 } number) =
        some ⟨5, { fromCab with length := 3 }, 0x04, 6, 5, none, false, 3⟩
    ∧ (fromCab.source = cabAddress ∧ fromCab.source ≠ serviceAddress ∧ 2 < 3 ∧ ¬3 < 3)
    ∧ (cabMayName 0x0FF = false ∧ cabMayName 0x100 = true ∧ cabMayName 0x3FF = true ∧ cabMayName 0x400 = false) := by decide

theorem test_a_broadcast_request_is_ignored :
    exec (.set 5 { fromTool with destination := 0xFF } (asks 1 140)) ⟨ready, []⟩ = .next ⟨ready.later 5, []⟩ := rfl

theorem test_a_short_request_is_inconsistent :
    leaves (.set 5 { fromTool with length := 5 } (asks 1 140)) ready (fun p => answer p = some .inconsistent) = true := rfl

end Sys2Proof.Tests
end

section
/-! PROOFS. Sensor inputs and measurement windows: what the sensor commands make of their input's accumulators, and the law that every
step keeps of the Window History. -/

namespace Sys2Proof.Machine

/-! ### When a command is taken -/

/-- A part that works takes an event from outside at its time. -/
theorem Part.onEvent_of_on {s : Part} (on : s.power = .on) (dt : Nat) (f : Part → Part) : s.onEvent dt f = f (s.later dt) := by
  unfold Part.onEvent Part.later
  exact if_pos on

/-- A part that works takes the expiry of a running timer at its deadline. -/
theorem Part.onExpiry_of_on {s : Part} (on : s.power = .on) {deadline : Option Nat} {d : Nat} (runs : deadline = some d)
    (f : Part → Part) : s.onExpiry deadline f = f (s.atTime d) := by
  unfold Part.onExpiry Part.atTime
  subst runs
  exact if_pos on

theorem exec_lossEdge_of_on {p : Part} (on : p.power = .on) (q : List Instr) (dt : Nat) (i : LossInput) :
    exec (.lossEdge dt i) ⟨p, q⟩ =
      .next ⟨(p.later dt).modLoss i fun l => l.candidate (p.now + dt) p.store.activeCal.figures.deadTime, q⟩ :=
  congrArg (fun t => Host.Outcome.next (State.mk t q)) (Part.onEvent_of_on on dt _)

theorem exec_pwmEdge_of_on {p : Part} (on : p.power = .on) (q : List Instr) (dt : Nat) (i : PwmInput) (e : Edge) :
    exec (.pwmEdge dt i e) ⟨p, q⟩ = .next ⟨(p.later dt).modPwm i fun c =>
      match e with
      | .rising => c.rise (p.now + dt)
      | .falling => c.fall (p.now + dt), q⟩ :=
  congrArg (fun t => Host.Outcome.next (State.mk t q)) (Part.onEvent_of_on on dt _)

theorem exec_tailChange_of_on {p : Part} (on : p.power = .on) (q : List Instr) (dt : Nat) (active : Bool) :
    exec (.tailChange dt active) ⟨p, q⟩ =
      .next ⟨(({ p with lines := { p.lines with tail := active } } : Part).later dt).setGate, q⟩ :=
  congrArg (fun t => Host.Outcome.next (State.mk t q))
    (Part.onEvent_of_on (s := { p with lines := { p.lines with tail := active } }) on dt _)

theorem exec_sepLevelChange_of_same {p : Part} (on : p.power = .on) (q : List Instr) (dt : Nat) {level : Bool}
    (same : p.lines.sep = level) : exec (.sepLevelChange dt level) ⟨p, q⟩ = .next ⟨p.later dt, q⟩ := by
  refine congrArg (fun t => Host.Outcome.next (State.mk t q)) ?_
  exact (if_pos same).trans (Part.onEvent_of_on on dt _)

theorem exec_sepLevelChange_of_new {p : Part} (on : p.power = .on) (q : List Instr) (dt : Nat) {level : Bool}
    (new : p.lines.sep ≠ level) : exec (.sepLevelChange dt level) ⟨p, q⟩ =
      .next ⟨(({ p with lines := { p.lines with sep := level } } : Part).later dt).sepChanges level, q⟩ := by
  refine congrArg (fun t => Host.Outcome.next (State.mk t q)) ?_
  exact (if_neg new).trans (Part.onEvent_of_on (s := { p with lines := { p.lines with sep := level } }) on dt _)

/-! ### A loss input (R1, R2) -/

theorem LossCapture.candidate_within {l : LossCapture} {now dead h : Nat} (last : l.lastHit = some h) (near : now - h < dead) :
    l.candidate now dead = { l with doubleHits := min 65535 (l.doubleHits + 1) } := by
  simp [LossCapture.candidate, last, near, counterTop]

theorem LossCapture.candidate_apart {l : LossCapture} {now dead : Nat} (apart : ∀ h, l.lastHit = some h → dead ≤ now - h) :
    l.candidate now dead =
      if l.hits = 65535 then { l with saturated := true, lastHit := some now }
      else { l with hits := l.hits + 1, lastHit := some now } := by
  have counted : (match l.lastHit with
      | some h => decide (now - h < dead)
      | none => false) = false := by
    cases last : l.lastHit with
    | none => rfl
    | some h => exact decide_eq_false (Nat.not_lt.2 (apart h last))
  unfold LossCapture.candidate counterTop
  extract_lets rejected
  exact if_neg (Bool.eq_false_iff.1 counted)

/-! ### A PWM input (R6) -/

theorem PwmCapture.rise_complete {c : PwmCapture} {o : OpenPwm} {now : Nat} (opened : c.opened = some o) (once : o.falls = 1)
    (short : now - o.rise ≤ 100000) :
    c.rise now = ⟨c.sumHigh + (o.fall - o.rise), c.sumTotal + (now - o.rise), some ⟨now, 0, 0⟩⟩ := by
  simp [PwmCapture.rise, opened, once, short, longestPwmPeriod]

theorem PwmCapture.rise_discard {c : PwmCapture} {now : Nat}
    (spoiled : ∀ o, c.opened = some o → o.falls ≠ 1 ∨ 100000 < now - o.rise) :
    c.rise now = ⟨c.sumHigh, c.sumTotal, some ⟨now, 0, 0⟩⟩ := by
  cases opened : c.opened with
  | none => simp [PwmCapture.rise, opened]
  | some o =>
    have fails : ¬(o.falls = 1 ∧ now - o.rise ≤ longestPwmPeriod) := by
      have := spoiled o opened
      simp only [longestPwmPeriod]
      omega
    simp only [PwmCapture.rise, opened, if_neg fails]

theorem PwmCapture.fall_opened {c : PwmCapture} {o : OpenPwm} (now : Nat) (opened : c.opened = some o) :
    c.fall now = ⟨c.sumHigh, c.sumTotal, some (if o.falls = 0 then ⟨o.rise, now, 1⟩ else ⟨o.rise, o.fall, 2⟩)⟩ := by
  simp [PwmCapture.fall, opened]

theorem PwmCapture.fall_closed {c : PwmCapture} (now : Nat) (closed : c.opened = none) : c.fall now = c := by
  cases c
  simp_all [PwmCapture.fall]

/-! ### The tailings gate (R7) -/

theorem TailGate.setOpen_of_closed {g : TailGate} (closed : g.openSince = none) (now : Nat) (opened : Bool) :
    g.setOpen now opened = { g with openSince := if opened = true then some now else none } := by
  cases opened <;> simp [TailGate.setOpen, TailGate.run, closed]

theorem TailGate.setOpen_of_open {g : TailGate} {b : Nat} (since : g.openSince = some b) (now : Nat) (opened : Bool) :
    g.setOpen now opened = ⟨if opened = true then some now else none, g.activeMs + (g.carry + (now - b)) / 1000,
      (g.carry + (now - b)) % 1000⟩ := by
  cases opened <;> simp [TailGate.setOpen, TailGate.run, since]

end Sys2Proof.Machine

open Sys2Proof Sys2Proof.Machine

/-- Settles O9: every command is a chain of changes, and each of them keeps the law. -/
theorem everyStepKeepsTheHistoryConsecutive : Obligations.EveryStepKeepsTheHistoryConsecutive := by
  intro s t law stepped
  unfold step at stepped
  split at stepped
  · cases stepped
    exact law
  · exact Changes.keeps (L := Part.historyLaw) (fun _ _ e => e.historyLaw) (exec_changes stepped) law

/-- Settles O14: the three outcomes of a candidate hit. -/
theorem aLossEdgeIsAHitOrADoubleHit : Obligations.ALossEdgeIsAHitOrADoubleHit := by
  intro p q dt i on
  simp only [exec_lossEdge_of_on on]
  refine ⟨fun ⟨h, last, near⟩ => ?_, fun apart room => ?_, fun apart full => ?_⟩
  · simp [Part.modLoss, LossCapture.candidate_within last near]
  · simp [Part.modLoss, LossCapture.candidate_apart apart, room]
  · simp [Part.modLoss, LossCapture.candidate_apart apart, full]

/-- Settles O16: a rising edge completes or discards the open period, a falling edge marks or spoils it. -/
theorem aPwmEdgeCompletesAPeriod : Obligations.APwmEdgeCompletesAPeriod := by
  intro p q dt i on
  simp only [exec_pwmEdge_of_on on]
  refine ⟨fun o opened once short => ?_, fun spoiled => ?_, fun o opened none => ?_, fun o opened some => ?_, fun closed => ?_⟩
  · simp [Part.modPwm, PwmCapture.rise_complete opened once short]
  · simp [Part.modPwm, PwmCapture.rise_discard spoiled]
  · simp [Part.modPwm, PwmCapture.fall_opened _ opened, none]
  · simp [Part.modPwm, PwmCapture.fall_opened _ opened, some]
  · simp [Part.modPwm, PwmCapture.fall_closed _ closed]

/-- Settles O17: the gate set from closed and from open. -/
theorem aTailChangeSetsTheGate : Obligations.ATailChangeSetsTheGate := by
  intro p q dt active on
  simp only [exec_tailChange_of_on on]
  refine ⟨fun closed => ?_, fun b since => ?_⟩
  · simp [Part.setGate, Part.later, TailGate.setOpen_of_closed closed]
  · simp [Part.setGate, Part.later, TailGate.setOpen_of_open since]

/-- Settles O18: a level the line has is no change, a new one starts or ends the qualification. -/
theorem aSepLevelChangeStartsTheQualification : Obligations.ASepLevelChangeStartsTheQualification := by
  intro p q dt engaged on
  exact ⟨fun same => exec_sepLevelChange_of_same on q dt same, fun new => exec_sepLevelChange_of_new on q dt new⟩

end

section
/-! PROOFS. Plug Relief's watch: what a period of the drum, an overdue one and the give-up timer make of the Override Unit (R146 to
R148, R151, R152). -/

namespace Sys2Proof.Machine

/-! ### The watch timer (R146) -/

/-- When the watch timer started now runs out: the period of a percentage of the DRUM setpoint, none at a setpoint of 0. -/
def Part.watchDeadline (s : Part) (percent : Nat) : Option Nat :=
  let k := s.store.activeCal.figures.speed.drum
  let setpoint := (s.entryOf .drum).setpoint
  if 0 < setpoint then some (s.now + roundHalfUp 96000000000 (percent * setpoint.toNat * k.teeth * k.ratio16)) else none

theorem startWatch_of_watched {s : Part} {percent : Nat} (watched : s.watchedPercent = some percent) :
    s.startWatch = { s with override := { s.override with watchAt := s.watchDeadline percent } } := by
  have length : s.watchLength.map (s.now + ·) = s.watchDeadline percent := by
    unfold Part.watchLength Part.watchDeadline
    simp only [watched]
    by_cases positive : 0 < (s.entryOf .drum).setpoint
    · rw [if_pos positive, if_neg (by omega)]
      rfl
    · rw [if_neg positive, if_pos (by omega)]
      rfl
  unfold Part.startWatch
  rw [length]

theorem startWatch_of_unwatched {s : Part} (unwatched : s.watchedPercent = none) :
    s.startWatch = { s with override := { s.override with watchAt := none } } := by
  unfold Part.startWatch Part.watchLength
  simp [unwatched]

/-- The watch timer started leaves the part's other fields, and the other timers of the Override Unit. -/
theorem startWatch_override (s : Part) :
    s.startWatch.override = { s.override with watchAt := match s.watchedPercent with
      | some percent => s.watchDeadline percent
      | none => none } := by
  cases watched : s.watchedPercent with
  | some percent => rw [startWatch_of_watched watched]
  | none => rw [startWatch_of_unwatched watched]

/-! ### An overdue or slow period (R148, R151, R152) -/

theorem slowPeriod_of_armed {s : Part} (h : s.override.relief = .armed) : s.slowPeriod = { s with
    override := { s.override with relief := .suspect, confirmAt := some (s.now + s.store.activePreset.relief.confirmTime * 1000) }
    window := { s.window with marks := { s.window.marks with relief := true } } } := by
  unfold Part.slowPeriod
  rw [h]
  rfl

theorem slowPeriod_of_returning {s : Part} (h : s.override.relief = .returning) : s.slowPeriod = { s with
    override := { s.override with
      confirmAt := s.override.confirmAt.or (some (s.now + s.store.activePreset.relief.confirmTime * 1000)) } } := by
  unfold Part.slowPeriod
  rw [h]
  dsimp only
  split
  · rename_i runs
    rw [Option.or_of_isSome runs]
  · rename_i stopped
    rw [Option.not_isSome_iff_eq_none.1 stopped]
    rfl

theorem slowPeriod_of_held {s : Part} (h : s.override.relief = .openHeld false) :
    s.slowPeriod = { s with override := { s.override with recoverAt := none } } := by
  unfold Part.slowPeriod
  rw [h]

/-- The states that take no notice of a slow period. -/
theorem slowPeriod_of_idle {s : Part} (h : s.override.relief = .openHeld true ∨ s.override.relief = .disarmed
    ∨ s.override.relief = .spinup ∨ s.override.relief = .suspect ∨ s.override.relief = .opening) : s.slowPeriod = s := by
  unfold Part.slowPeriod
  rcases h with h | h | h | h | h <;> rw [h]

/-! ### The expiries -/

theorem exec_drumWatchTimerExpiry_of_on {p : Part} (on : p.power = .on) (q : List Instr) {d : Nat}
    (runs : p.override.watchAt = some d) :
    exec .drumWatchTimerExpiry ⟨p, q⟩ = .next ⟨(p.atTime d).startWatch.slowPeriod, q⟩ :=
  congrArg (fun t => Host.Outcome.next (State.mk t q)) (Part.onExpiry_of_on on runs _)

theorem exec_giveUpTimerExpiry_of_on {p : Part} (on : p.power = .on) (q : List Instr) {d : Nat}
    (runs : p.override.giveUpAt = some d) : exec .giveUpTimerExpiry ⟨p, q⟩ = .next ⟨(p.atTime d).giveUp, q⟩ :=
  congrArg (fun t => Host.Outcome.next (State.mk t q)) (Part.onExpiry_of_on on runs _)

end Sys2Proof.Machine

open Sys2Proof Sys2Proof.Machine

/-- Settles O43: the watch timer starts again by its state's threshold, and each relief state judges the overdue period. -/
theorem theWatchSuspectsAndReliefGivesUp : Obligations.TheWatchSuspectsAndReliefGivesUp := by
  refine ⟨fun p q d on runs => ?_, fun p q d on runs => ?_⟩
  · simp only [exec_drumWatchTimerExpiry_of_on on q runs]
    have watched {percent : Nat} (h : (p.atTime d).watchedPercent = some percent) := startWatch_of_watched h
    refine ⟨fun h => ?_, fun h => ?_, fun h => ?_, fun h => ?_, fun h no => ?_, fun h yes => ?_, fun h => ?_⟩
    · rw [slowPeriod_of_armed (s := (p.atTime d).startWatch) h, watched (by simp [Part.watchedPercent, h]; rfl)]
      rfl
    · rw [slowPeriod_of_idle (s := (p.atTime d).startWatch) (.inr (.inr (.inr (.inl h)))),
        watched (by simp [Part.watchedPercent, h]; rfl)]
      rfl
    · rw [slowPeriod_of_held (s := (p.atTime d).startWatch) h, watched (by simp [Part.watchedPercent, h]; rfl)]
      rfl
    · rw [slowPeriod_of_idle (s := (p.atTime d).startWatch) (.inl h), watched (by simp [Part.watchedPercent, h]; rfl)]
      rfl
    · rw [slowPeriod_of_returning (s := (p.atTime d).startWatch) h, watched (by simp [Part.watchedPercent, h]; rfl)]
      simp only [atTime_fields, no]
      rfl
    · obtain ⟨e, he⟩ := Option.ne_none_iff_exists'.1 yes
      rw [slowPeriod_of_returning (s := (p.atTime d).startWatch) h, watched (by simp [Part.watchedPercent, h]; rfl)]
      simp only [atTime_fields, he]
      rfl
    · have unwatched : (p.atTime d).watchedPercent = none := by
        rcases h with h | h | h <;> simp [Part.watchedPercent, h]
      rw [slowPeriod_of_idle (s := (p.atTime d).startWatch)
        (h.elim (fun h => .inr (.inl h)) fun h => h.elim (fun h => .inr (.inr (.inl h))) fun h => .inr (.inr (.inr (.inr h)))),
        startWatch_of_unwatched unwatched]
      rfl
  · exact exec_giveUpTimerExpiry_of_on on q runs

end

section
/-! PROOFS. What the Drive Arbiter can change: motions, slots, the live rank order and the SHIFTED mark; and of the motions, beside
the channel it is asked about, those of waiting channels alone, whose moves it keeps (R127 to R133). -/

namespace Sys2Proof.Machine

/-! ### One channel read after a change -/

theorem motionOf_modMotion (s : Part) (c d : Channel) (f : Motion → Motion) :
    (s.modMotion c f).motionOf d = if d = c then f (s.motionOf c) else s.motionOf d := by
  unfold Part.motionOf Part.modMotion
  exact PerChannel.get_set _ _ _ _

@[simp] theorem motionOf_modMotion_self (s : Part) (c : Channel) (f : Motion → Motion) :
    (s.modMotion c f).motionOf c = f (s.motionOf c) := by
  rw [motionOf_modMotion, if_pos rfl]

theorem motionOf_modMotion_of_ne (s : Part) {c d : Channel} (ne : d ≠ c) (f : Motion → Motion) :
    (s.modMotion c f).motionOf d = s.motionOf d := by
  rw [motionOf_modMotion, if_neg ne]

theorem entryOf_modBook (s : Part) (c d : Channel) (f : BookEntry → BookEntry) :
    (s.modBook c f).entryOf d = if d = c then f (s.entryOf c) else s.entryOf d := by
  unfold Part.entryOf Part.modBook
  exact PerChannel.get_set _ _ _ _

@[simp] theorem entryOf_modBook_self (s : Part) (c : Channel) (f : BookEntry → BookEntry) :
    (s.modBook c f).entryOf c = f (s.entryOf c) := by
  rw [entryOf_modBook, if_pos rfl]

theorem entryOf_modBook_of_ne (s : Part) {c d : Channel} (ne : d ≠ c) (f : BookEntry → BookEntry) :
    (s.modBook c f).entryOf d = s.entryOf d := by
  rw [entryOf_modBook, if_neg ne]

/-! ### The fields that the Drive Arbiter writes -/

/-- Beside motions, slots, the live rank order and the SHIFTED mark nothing differs. -/
def Drives (s t : Part) : Prop :=
  ∃ (motion : PerChannel Motion) (slots : List Slot) (rankOrder : List Channel) (shifted : Bool), t = { s with
    motion := motion, slots := slots, rankOrder := rankOrder
    window := { s.window with marks := { s.window.marks with shifted := shifted } } }

theorem Drives.refl (s : Part) : Drives s s := ⟨s.motion, s.slots, s.rankOrder, s.window.marks.shifted, rfl⟩

theorem Drives.trans {s t u : Part} (h : Drives s t) (k : Drives t u) : Drives s u := by
  obtain ⟨m, l, r, b, rfl⟩ := h
  obtain ⟨m', l', r', b', rfl⟩ := k
  exact ⟨m', l', r', b', rfl⟩

theorem Drives.modMotion {s0 s : Part} (h : Drives s0 s) (c : Channel) (f : Motion → Motion) : Drives s0 (s.modMotion c f) :=
  h.trans ⟨_, s.slots, s.rankOrder, s.window.marks.shifted, rfl⟩

theorem Drives.driveOff {s0 s : Part} (h : Drives s0 s) (c : Channel) (e : DriveEnd) : Drives s0 (s.driveOff c e) := by
  unfold Part.driveOff
  exact Drives.modMotion (h.trans ⟨s.motion, _, s.rankOrder, s.window.marks.shifted, rfl⟩) c _

theorem Drives.markShifted {s0 s : Part} (h : Drives s0 s) (c : Channel) (m : Move) : Drives s0 (s.markShifted c m) := by
  unfold Part.markShifted
  split
  · exact h.trans ⟨s.motion, s.slots, s.rankOrder, true, rfl⟩
  · exact h

theorem Drives.holdSlot {s0 s : Part} (h : Drives s0 s) (c : Channel) : Drives s0 (s.holdSlot c) :=
  h.trans ⟨s.motion, _, _, s.window.marks.shifted, rfl⟩

theorem Drives.drivePositional {s0 s : Part} (h : Drives s0 s) (c : Channel) (p : PosChannel) (mv : Move) :
    Drives s0 (s.drivePositional c p mv) := by
  unfold Part.drivePositional
  extract_lets driven t
  split
  · exact (h.modMotion c _).driveOff c _
  · exact h.modMotion c _

theorem Drives.driveSpeed {s0 s : Part} (h : Drives s0 s) (c : Channel) (v : SpeedChannel) (mv : Move) :
    Drives s0 (s.driveSpeed c v mv) := by
  unfold Part.driveSpeed
  extract_lets driven late t
  split
  · exact (h.modMotion c _).driveOff c _
  · exact h.modMotion c _

theorem Drives.grant {s0 s : Part} (h : Drives s0 s) (c : Channel) : Drives s0 (s.grant c) := by
  unfold Part.grant
  split
  · exact h
  · extract_lets t
    have ht : Drives s0 t := (h.holdSlot c).markShifted c _
    split
    · exact ht.drivePositional c _ _
    · exact ht.driveSpeed c _ _

theorem Drives.regrantUpTo {s0 : Part} (n : Nat) : ∀ {s : Part}, Drives s0 s → Drives s0 (Part.regrantUpTo n s) := by
  induction n with
  | zero => exact fun h => h
  | succ n ih =>
    intro s h
    unfold Part.regrantUpTo
    split
    · split
      · exact ih (h.grant _)
      · exact h
    · exact h

theorem Drives.regrant {s0 s : Part} (h : Drives s0 s) : Drives s0 s.regrant := Drives.regrantUpTo 6 h

theorem Drives.endDrive {s0 s : Part} (h : Drives s0 s) (c : Channel) (e : DriveEnd) : Drives s0 (s.endDrive c e) :=
  (h.driveOff c e).regrant

theorem Drives.askSlot {s0 s : Part} (h : Drives s0 s) (c : Channel) : Drives s0 (s.askSlot c) := by
  unfold Part.askSlot
  split
  · exact (h.grant c).regrant
  · exact h

/-! ### The motions that the Drive Arbiter writes -/

/-- What a move is, whatever its progress: owner, kind, target and tag. -/
def Move.identity (m : Move) : Owner × MoveKind × Option Int × Option Byte := (m.owner, m.kind, m.target, m.tag)

/-- A motion as a grant to another channel may leave it: untouched unless it waits, and still with its move. -/
structure Motion.Follows (m m' : Motion) : Prop where
  untouched : m.phase ≠ .waiting → m' = m
  phase : m.phase = .waiting → m'.phase ∈ [.waiting, .driving, .coasting]
  identity : m'.move.map Move.identity = m.move.map Move.identity
  standing : m'.standing = m.standing

theorem Motion.Follows.refl (m : Motion) : m.Follows m := ⟨fun _ => rfl, fun h => by simp [h], rfl, rfl⟩

theorem Motion.Follows.trans {m n k : Motion} (h : m.Follows n) (g : n.Follows k) : m.Follows k := by
  refine ⟨fun idle => ?_, fun waits => ?_, g.identity.trans h.identity, g.standing.trans h.standing⟩
  · rw [g.untouched (by rw [h.untouched idle]; exact idle), h.untouched idle]
  · by_cases still : n.phase = .waiting
    · exact g.phase still
    · rw [g.untouched still]
      exact h.phase waits

theorem Motion.Follows.of_eq {m m' : Motion} (h : m' = m) : m.Follows m' := h ▸ .refl m

theorem motionOf_driveOff (s : Part) (c d : Channel) (e : DriveEnd) :
    (s.driveOff c e).motionOf d = if d = c then { s.motionOf c with
      phase := .coasting
      coastEndsAt := some (s.now + ms (s.coastTime c))
      stallAt := none
      lastDirection := ((s.motionOf c).move.bind (·.direction)).or (s.motionOf c).lastDirection
      move := (s.motionOf c).move.map fun mv => { mv with
        driveEnd := e
        driveTime := mv.driveTime + match c.kind with
          | .speed _ => s.now - (s.motionOf c).drivingSince
          | .positional _ => 0 } } else s.motionOf d := by
  unfold Part.driveOff
  rw [motionOf_modMotion]
  split <;> rfl

theorem motionOf_driveOff_of_ne (s : Part) {c d : Channel} (ne : d ≠ c) (e : DriveEnd) :
    (s.driveOff c e).motionOf d = s.motionOf d := by
  rw [motionOf_driveOff, if_neg ne]

theorem driveOff_phase (s : Part) (c : Channel) (e : DriveEnd) : ((s.driveOff c e).motionOf c).phase = .coasting := by
  rw [motionOf_driveOff, if_pos rfl]

theorem driveOff_identity (s : Part) (c : Channel) (e : DriveEnd) :
    ((s.driveOff c e).motionOf c).move.map Move.identity = (s.motionOf c).move.map Move.identity := by
  rw [motionOf_driveOff, if_pos rfl]
  cases (s.motionOf c).move <;> rfl

theorem driveOff_standing (s : Part) (c : Channel) (e : DriveEnd) :
    ((s.driveOff c e).motionOf c).standing = (s.motionOf c).standing := by
  rw [motionOf_driveOff, if_pos rfl]

theorem motionOf_markShifted (s : Part) (c d : Channel) (m : Move) : (s.markShifted c m).motionOf d = s.motionOf d := by
  unfold Part.markShifted
  split <;> rfl

theorem atGrant_identity (s : Part) (c : Channel) (position : Int) (m : Move) :
    (s.atGrant c position m).identity = m.identity := by
  unfold Part.atGrant
  extract_lets n
  split
  · split <;> rfl
  all_goals rfl

/-- A channel driven, whether its drive turns off at once or not. -/
structure Driven (m m' : Motion) (mv : Move) : Prop where
  phase : m'.phase ∈ [.driving, .coasting]
  identity : m'.move.map Move.identity = some mv.identity
  standing : m'.standing = m.standing

theorem drivePositional_driven (s : Part) (c : Channel) (p : PosChannel) (mv : Move) :
    Driven (s.motionOf c) ((s.drivePositional c p mv).motionOf c) mv := by
  unfold Part.drivePositional
  extract_lets src driven t
  have same : driven.identity = mv.identity := atGrant_identity s c _ mv
  have ht : t.motionOf c = { s.motionOf c with
      phase := .driving, move := some driven, drivingSince := s.now
      stallAt := some (s.now + ms (s.cal.pos.get p).stallTime) } := motionOf_modMotion_self _ _ _
  split
  · refine ⟨by simp [driveOff_phase], ?_, ?_⟩
    · rw [driveOff_identity, ht]
      exact congrArg some same
    · rw [driveOff_standing, ht]
  · rw [ht]
    exact ⟨by simp, congrArg some same, rfl⟩

theorem driveSpeed_driven (s : Part) (c : Channel) (v : SpeedChannel) (mv : Move) :
    Driven (s.motionOf c) ((s.driveSpeed c v mv).motionOf c) mv := by
  unfold Part.driveSpeed
  extract_lets driven late t
  have ht : t.motionOf c = { s.motionOf c with phase := .driving, move := some driven, drivingSince := s.now } :=
    motionOf_modMotion_self _ _ _
  split
  · refine ⟨by simp [driveOff_phase], ?_, ?_⟩
    · rw [driveOff_identity, ht]
      rfl
    · rw [driveOff_standing, ht]
  · rw [ht]
    exact ⟨by simp, rfl, rfl⟩

theorem motionOf_drivePositional_of_ne (s : Part) {c d : Channel} (ne : d ≠ c) (p : PosChannel) (mv : Move) :
    (s.drivePositional c p mv).motionOf d = s.motionOf d := by
  unfold Part.drivePositional
  extract_lets src driven t
  have ht : t.motionOf d = s.motionOf d := motionOf_modMotion_of_ne s ne _
  split
  · rw [motionOf_driveOff_of_ne _ ne, ht]
  · exact ht

theorem motionOf_driveSpeed_of_ne (s : Part) {c d : Channel} (ne : d ≠ c) (v : SpeedChannel) (mv : Move) :
    (s.driveSpeed c v mv).motionOf d = s.motionOf d := by
  unfold Part.driveSpeed
  extract_lets driven late t
  have ht : t.motionOf d = s.motionOf d := motionOf_modMotion_of_ne s ne _
  split
  · rw [motionOf_driveOff_of_ne _ ne, ht]
  · exact ht

theorem motionOf_grant_of_ne (s : Part) {c d : Channel} (ne : d ≠ c) : (s.grant c).motionOf d = s.motionOf d := by
  unfold Part.grant
  split
  · rfl
  · extract_lets t
    have ht : t.motionOf d = s.motionOf d := motionOf_markShifted _ _ _ _
    split
    · rw [motionOf_drivePositional_of_ne _ ne, ht]
    · rw [motionOf_driveSpeed_of_ne _ ne, ht]

/-- A grant drives a channel that has a move. -/
theorem grant_driven {s : Part} {c : Channel} {mv : Move} (moves : (s.motionOf c).move = some mv) :
    Driven (s.motionOf c) ((s.grant c).motionOf c) mv := by
  unfold Part.grant
  rw [moves]
  dsimp only
  have ht : ((s.holdSlot c).markShifted c mv).motionOf c = s.motionOf c := motionOf_markShifted _ _ _ _
  rw [← ht]
  split
  · exact drivePositional_driven _ c _ mv
  · exact driveSpeed_driven _ c _ mv

theorem grant_of_no_move {s : Part} {c : Channel} (none : (s.motionOf c).move = none) : s.grant c = s := by
  unfold Part.grant
  rw [none]

/-- A grant to a waiting channel, seen from any channel. -/
theorem grant_follows {s : Part} {c : Channel} (waits : (s.motionOf c).phase = .waiting) (d : Channel) :
    (s.motionOf d).Follows ((s.grant c).motionOf d) := by
  by_cases same : d = c
  · subst same
    cases moves : (s.motionOf d).move with
    | none => exact .of_eq (by rw [grant_of_no_move moves])
    | some mv =>
      have g := grant_driven moves
      refine ⟨fun h => absurd waits h, fun _ => List.mem_cons_of_mem _ g.phase, ?_, g.standing⟩
      rw [g.identity, moves]
      rfl
  · exact .of_eq (motionOf_grant_of_ne s same)

theorem bestWaiting_waits {s : Part} {c : Channel} (best : s.bestWaiting = some c) : (s.motionOf c).phase = .waiting := by
  unfold Part.bestWaiting at best
  have := List.mem_of_find?_eq_some best
  simpa using (List.mem_filter.1 this).2

theorem regrantUpTo_follows (n : Nat) (d : Channel) : ∀ s : Part, (s.motionOf d).Follows ((Part.regrantUpTo n s).motionOf d) := by
  induction n with
  | zero => exact fun s => .refl _
  | succ n ih =>
    intro s
    unfold Part.regrantUpTo
    split
    · split
      · rename_i c best
        exact (grant_follows (bestWaiting_waits best) d).trans (ih _)
      · exact .refl _
    · exact .refl _

theorem regrant_follows (s : Part) (d : Channel) : (s.motionOf d).Follows (s.regrant.motionOf d) := regrantUpTo_follows 6 d s

/-! ### The slots that the Drive Arbiter writes -/

theorem slots_drivePositional (s : Part) (c : Channel) (p : PosChannel) (mv : Move) :
    ∀ y ∈ (s.drivePositional c p mv).slots, y ∈ s.slots := by
  unfold Part.drivePositional
  extract_lets driven t
  split
  · exact fun y hy => (List.mem_filter.1 hy).1
  · exact fun y hy => hy

theorem slots_driveSpeed (s : Part) (c : Channel) (v : SpeedChannel) (mv : Move) :
    ∀ y ∈ (s.driveSpeed c v mv).slots, y ∈ s.slots := by
  unfold Part.driveSpeed
  extract_lets driven late t
  split
  · exact fun y hy => (List.mem_filter.1 hy).1
  · exact fun y hy => hy

/-- A grant gives a slot to its channel alone. -/
theorem slots_grant (s : Part) (c : Channel) : ∀ y ∈ (s.grant c).slots, y ∈ s.slots ∨ y.channel = c := by
  have held : ∀ (mv : Move), ∀ y ∈ ((s.holdSlot c).markShifted c mv).slots, y ∈ s.slots ∨ y.channel = c := by
    intro mv y hy
    simp only [markShifted_fields, Part.holdSlot, List.mem_append, List.mem_singleton] at hy
    exact hy.imp_right fun h => by rw [h]
  unfold Part.grant
  split
  · exact fun y hy => .inl hy
  · extract_lets t
    split
    · exact fun y hy => held _ y (slots_drivePositional t c _ _ y hy)
    · exact fun y hy => held _ y (slots_driveSpeed t c _ _ y hy)

/-- A channel that does not wait is given no slot. -/
theorem slots_regrantUpTo (n : Nat) (c : Channel) : ∀ {s : Part}, (s.motionOf c).phase ≠ .waiting →
    (∀ y ∈ s.slots, y.channel ≠ c) → ∀ y ∈ (Part.regrantUpTo n s).slots, y.channel ≠ c := by
  induction n with
  | zero => exact fun _ h => h
  | succ n ih =>
    intro s idle h
    unfold Part.regrantUpTo
    split
    · split
      · rename_i d best
        have ne : c ≠ d := fun e => idle (e ▸ bestWaiting_waits best)
        refine ih (by rw [motionOf_grant_of_ne s ne]; exact idle) fun y hy => ?_
        rcases slots_grant s d y hy with old | new
        · exact h y old
        · rw [new]
          exact ne.symm
      · exact h
    · exact h

/-- A drive-off leaves its channel COASTING without a slot, whatever the released slot is granted to. -/
theorem endDrive_slots (s : Part) (c : Channel) (e : DriveEnd) : ∀ y ∈ (s.endDrive c e).slots, y.channel ≠ c := by
  refine slots_regrantUpTo 6 c (by rw [driveOff_phase]; decide) fun y hy => ?_
  simpa using (List.mem_filter.1 hy).2

theorem motionOf_endDrive_self (s : Part) (c : Channel) (e : DriveEnd) :
    (s.endDrive c e).motionOf c = (s.driveOff c e).motionOf c :=
  (regrant_follows _ c).untouched (by rw [driveOff_phase]; decide)

end Sys2Proof.Machine
end

section
/-! PROOFS. SPEED_EDGE: the period it closes, what Plug Relief makes of a drum period, and the drive that a period's rpm ends (R3 to
R5, R120, R124, R146 to R148, R151, R152). -/

namespace Sys2Proof.Machine

/-! ### Edges and periods (R3 to R5) -/

theorem EdgeSelection.admits_iff (selection : EdgeSelection) (e : Edge) : selection.admits e = true ↔
    selection = .both ∨ (selection = .rising ∧ e = .rising) ∨ (selection = .falling ∧ e = .falling) := by
  cases selection <;> cases e <;> decide

theorem SpeedCapture.closedPeriod_within {c : SpeedCapture} {b now : Nat} (last : c.lastEdge = some b)
    (near : now - b ≤ 1000000) : c.closedPeriod now = some (now - b) := by
  simp [SpeedCapture.closedPeriod, last, near, longestPeriod]

theorem SpeedCapture.closedPeriod_overdue {c : SpeedCapture} {now : Nat}
    (overdue : ∀ b, c.lastEdge = some b → 1000000 < now - b) : c.closedPeriod now = none := by
  cases last : c.lastEdge with
  | none => simp [SpeedCapture.closedPeriod, last]
  | some b => simp [SpeedCapture.closedPeriod, last, longestPeriod, Nat.not_le.2 (overdue b last)]

/-- A speed input after a qualifying edge: the edge kept, the period it closes added, and its rpm held. -/
def SpeedCapture.edge (c : SpeedCapture) (now : Nat) (cal : SpeedCal) (k : Nat) : SpeedCapture :=
  match c.closedPeriod now with
  | some p => { ({ c with lastEdge := some now } : SpeedCapture).addPeriod p with rpm := instantRpm cal p k }
  | none => { c with lastEdge := some now }

theorem SpeedCapture.edge_of_overdue {c : SpeedCapture} {now : Nat} (open' : c.closedPeriod now = none) (cal : SpeedCal) (k : Nat) :
    c.edge now cal k = { c with lastEdge := some now } := by
  simp [SpeedCapture.edge, open']

theorem SpeedCapture.edge_of_closed {c : SpeedCapture} {now p : Nat} (closed : c.closedPeriod now = some p) (cal : SpeedCal)
    (k : Nat) : c.edge now cal k =
      { ({ c with lastEdge := some now } : SpeedCapture).addPeriod p with rpm := instantRpm cal p k } := by
  simp [SpeedCapture.edge, closed]

theorem SpeedCapture.addPeriod_full {c : SpeedCapture} (full : c.count = 65535) (p : Nat) : c.addPeriod p = c := by
  simp [SpeedCapture.addPeriod, counterTop, full]

theorem SpeedCapture.addPeriod_room {c : SpeedCapture} (room : c.count ≠ 65535) (p : Nat) :
    c.addPeriod p = { c with count := c.count + 1, periodSum := c.periodSum + p } := by
  simp [SpeedCapture.addPeriod, counterTop, room]

@[simp] theorem SpeedCapture.addPeriod_lastEdge (c : SpeedCapture) (p : Nat) : (c.addPeriod p).lastEdge = c.lastEdge := by
  unfold SpeedCapture.addPeriod
  split <;> rfl

@[simp] theorem SpeedCapture.edge_lastEdge (c : SpeedCapture) (now : Nat) (cal : SpeedCal) (k : Nat) :
    (c.edge now cal k).lastEdge = some now := by
  unfold SpeedCapture.edge
  split <;> simp

theorem instantRpm_of_pos {p : Nat} (positive : 0 < p) (cal : SpeedCal) (k : Nat) :
    instantRpm cal p k = roundHalfUp 960000000 (p * cal.teeth * cal.ratio16) := by
  simp [instantRpm, Nat.pos_iff_ne_zero.1 positive]

/-! ### A good period (R147, R148, R151, R152) -/

theorem belowEnter_iff (s : Part) (rpm : Int) : s.belowEnter rpm = true ↔
    rpm * 100 < s.store.activePreset.relief.enterPercent * (s.entryOf .drum).setpoint := decide_eq_true_iff

theorem atRecover_iff (s : Part) (rpm : Int) : s.atRecover rpm = true ↔
    s.store.activePreset.relief.recoverPercent * (s.entryOf .drum).setpoint ≤ rpm * 100 := decide_eq_true_iff

/-- The Override Unit after a period of the drum at an rpm, its watch timer aside. -/
def Part.judgedOverride (s : Part) (rpm : Int) : Override :=
  let o := s.override
  let confirm := some (s.now + s.store.activePreset.relief.confirmTime * 1000)
  let recover := some (s.now + s.store.activePreset.relief.recoverTime * 1000)
  match o.relief with
  | .spinup => if s.atRecover rpm then { o with relief := .armed } else o
  | .armed => if s.belowEnter rpm then { o with relief := .suspect, confirmAt := confirm } else o
  | .suspect => if s.belowEnter rpm then o else { o with relief := .armed, confirmAt := none }
  | .returning => { o with confirmAt := if s.belowEnter rpm then o.confirmAt.or confirm else none }
  | .openHeld false => { o with recoverAt := if s.atRecover rpm then o.recoverAt.or recover else none }
  | .openHeld true | .disarmed | .opening => o

theorem judgedOverride_of_spinup {s : Part} {rpm : Int} (h : s.override.relief = .spinup) : s.judgedOverride rpm =
    if s.atRecover rpm = true then { s.override with relief := .armed } else s.override := by
  simp only [Part.judgedOverride, h]

theorem judgedOverride_of_armed {s : Part} {rpm : Int} (h : s.override.relief = .armed) : s.judgedOverride rpm =
    if s.belowEnter rpm = true then { s.override with
      relief := .suspect, confirmAt := some (s.now + s.store.activePreset.relief.confirmTime * 1000) } else s.override := by
  simp only [Part.judgedOverride, h]

theorem judgedOverride_of_suspect {s : Part} {rpm : Int} (h : s.override.relief = .suspect) : s.judgedOverride rpm =
    if s.belowEnter rpm = true then s.override else { s.override with relief := .armed, confirmAt := none } := by
  simp only [Part.judgedOverride, h]

theorem judgedOverride_of_returning {s : Part} {rpm : Int} (h : s.override.relief = .returning) : s.judgedOverride rpm =
    { s.override with confirmAt := if s.belowEnter rpm = true
      then s.override.confirmAt.or (some (s.now + s.store.activePreset.relief.confirmTime * 1000)) else none } := by
  simp only [Part.judgedOverride, h]

theorem judgedOverride_of_held {s : Part} {rpm : Int} (h : s.override.relief = .openHeld false) : s.judgedOverride rpm =
    { s.override with recoverAt := if s.atRecover rpm = true
      then s.override.recoverAt.or (some (s.now + s.store.activePreset.relief.recoverTime * 1000)) else none } := by
  simp only [Part.judgedOverride, h]

theorem judgedOverride_of_idle {s : Part} {rpm : Int} (h : s.override.relief = .openHeld true
    ∨ s.override.relief = .disarmed ∨ s.override.relief = .opening) : s.judgedOverride rpm = s.override := by
  rcases h with h | h | h <;> simp only [Part.judgedOverride, h]

/-- When the watch timer started now in a relief state runs out (R146). -/
def Part.watchFor (s : Part) : Relief → Option Nat
  | .armed | .suspect | .returning => s.watchDeadline s.store.activePreset.relief.enterPercent
  | .openHeld _ => s.watchDeadline s.store.activePreset.relief.recoverPercent
  | .disarmed | .spinup | .opening => none

theorem startWatch_watchFor (s : Part) :
    s.startWatch.override = { s.override with watchAt := s.watchFor s.override.relief } := by
  rw [startWatch_override]
  unfold Part.watchedPercent Part.watchFor
  cases s.override.relief <;> rfl

theorem watchFor_at {s : Part} {o : Override} {r : Relief} (h : o.relief = r) :
    ({ o with watchAt := s.watchFor o.relief } : Override) = { o with watchAt := s.watchFor r } :=
  congrArg (fun x => { o with watchAt := s.watchFor x }) h

/-- Beside the Override Unit and the RELIEF mark nothing differs. -/
def Relieves (s t : Part) : Prop :=
  ∃ (o : Override) (relief : Bool), t = { s with
    override := o, window := { s.window with marks := { s.window.marks with relief := relief } } }

theorem Relieves.of_override (s : Part) (o : Override) : Relieves s { s with override := o } :=
  ⟨o, s.window.marks.relief, rfl⟩

theorem Relieves.refl (s : Part) : Relieves s s := .of_override s s.override

theorem Relieves.of_eq {s t : Part} (h : t = s) : Relieves s t := h ▸ .refl t

theorem Relieves.trans {s t u : Part} (h : Relieves s t) (k : Relieves t u) : Relieves s u := by
  obtain ⟨o, b, rfl⟩ := h
  obtain ⟨o', b', rfl⟩ := k
  exact ⟨o', b', rfl⟩

theorem Relieves.startWatch (s : Part) : Relieves s s.startWatch := .of_override s _

theorem Relieves.watchFor {s t : Part} (h : Relieves s t) (r : Relief) : t.watchFor r = s.watchFor r := by
  obtain ⟨o, b, rfl⟩ := h
  cases r <;> rfl

theorem slowPeriod_relieves (s : Part) : Relieves s s.slowPeriod := by
  cases h : s.override.relief with
  | armed => exact ⟨_, true, slowPeriod_of_armed h⟩
  | returning => exact slowPeriod_of_returning h ▸ .of_override s _
  | openHeld failed =>
    cases failed with
    | false => exact slowPeriod_of_held h ▸ .of_override s _
    | true => exact Relieves.of_eq (slowPeriod_of_idle (.inl h))
  | disarmed | spinup | suspect | opening => exact Relieves.of_eq (slowPeriod_of_idle (by simp [h]))

theorem goodPeriod_of_spinup {s : Part} (h : s.override.relief = .spinup) : s.goodPeriod =
    ({ s with override := { s.override with relief := .armed } } : Part).startWatch := by
  unfold Part.goodPeriod
  rw [h]
  rfl

theorem goodPeriod_of_suspect {s : Part} (h : s.override.relief = .suspect) : s.goodPeriod =
    { s with override := { s.override with relief := .armed, confirmAt := none } } := by
  unfold Part.goodPeriod
  rw [h]
  rfl

theorem goodPeriod_of_returning {s : Part} (h : s.override.relief = .returning) : s.goodPeriod =
    { s with override := { s.override with confirmAt := none } } := by
  unfold Part.goodPeriod
  rw [h]
  rfl

theorem goodPeriod_of_held {s : Part} (h : s.override.relief = .openHeld false) : s.goodPeriod = { s with
    override := { s.override with
      recoverAt := s.override.recoverAt.or (some (s.now + s.store.activePreset.relief.recoverTime * 1000)) } } := by
  unfold Part.goodPeriod
  rw [h]
  dsimp only
  split
  · rename_i runs
    rw [Option.or_of_isSome runs]
  · rename_i stopped
    rw [Option.not_isSome_iff_eq_none.1 stopped]
    rfl

theorem goodPeriod_of_idle {s : Part} (h : s.override.relief = .openHeld true ∨ s.override.relief = .disarmed
    ∨ s.override.relief = .armed ∨ s.override.relief = .opening) : s.goodPeriod = s := by
  unfold Part.goodPeriod
  rcases h with h | h | h | h <;> rw [h]

theorem goodPeriod_relieves (s : Part) : Relieves s s.goodPeriod := by
  cases h : s.override.relief with
  | spinup => exact goodPeriod_of_spinup h ▸ (Relieves.of_override s _).trans (.startWatch _)
  | suspect => exact goodPeriod_of_suspect h ▸ .of_override s _
  | returning => exact goodPeriod_of_returning h ▸ .of_override s _
  | openHeld failed =>
    cases failed with
    | false => exact goodPeriod_of_held h ▸ .of_override s _
    | true => exact Relieves.of_eq (goodPeriod_of_idle (.inl h))
  | disarmed | armed | opening => exact Relieves.of_eq (goodPeriod_of_idle (by simp [h]))

theorem judgeDrumPeriod_relieves (s : Part) (rpm : Int) : Relieves s (s.judgeDrumPeriod rpm) := by
  have slow := slowPeriod_relieves s
  have good := goodPeriod_relieves s
  unfold Part.judgeDrumPeriod
  split
  · split
    · exact good
    · exact .refl s
  · split
    · exact good
    · exact slow
  all_goals first | exact .refl s | (split; exact slow; exact good)

/-- A closed period of the drum, judged by the relief state's threshold, leaves the Override Unit as R147, R148, R151 and R152 say. -/
theorem judgeDrumPeriod_override (s : Part) (rpm : Int) :
    ∃ w, (s.judgeDrumPeriod rpm).override = { s.judgedOverride rpm with watchAt := w } := by
  unfold Part.judgeDrumPeriod
  cases h : s.override.relief with
  | spinup =>
    rw [judgedOverride_of_spinup h]
    dsimp only
    split
    · rw [goodPeriod_of_spinup h]
      exact ⟨_, rfl⟩
    · exact ⟨_, rfl⟩
  | armed =>
    rw [judgedOverride_of_armed h]
    dsimp only
    split
    · rw [slowPeriod_of_armed h]
      exact ⟨_, rfl⟩
    · rw [goodPeriod_of_idle (by simp [h])]
      exact ⟨_, rfl⟩
  | suspect =>
    rw [judgedOverride_of_suspect h]
    dsimp only
    split
    · rw [slowPeriod_of_idle (by simp [h])]
      exact ⟨_, rfl⟩
    · rw [goodPeriod_of_suspect h]
      exact ⟨_, rfl⟩
  | returning =>
    rw [judgedOverride_of_returning h]
    dsimp only
    split
    · rw [slowPeriod_of_returning h]
      exact ⟨_, rfl⟩
    · rw [goodPeriod_of_returning h]
      exact ⟨_, rfl⟩
  | openHeld failed =>
    cases failed with
    | false =>
      rw [judgedOverride_of_held h]
      dsimp only
      split
      · rw [goodPeriod_of_held h]
        exact ⟨_, rfl⟩
      · rw [slowPeriod_of_held h]
        exact ⟨_, rfl⟩
    | true =>
      rw [judgedOverride_of_idle (.inl h), goodPeriod_of_idle (.inl h), slowPeriod_of_idle (.inl h)]
      exact ⟨_, by rw [ite_self]⟩
  | disarmed | opening => exact ⟨_, by rw [judgedOverride_of_idle (by simp [h])]⟩

/-- A closed period of the drum with the watch timer started again after it. -/
theorem judgeDrumPeriod_startWatch (s : Part) (rpm : Int) : (s.judgeDrumPeriod rpm).startWatch.override =
    { s.judgedOverride rpm with watchAt := s.watchFor (s.judgedOverride rpm).relief } := by
  obtain ⟨w, h⟩ := judgeDrumPeriod_override s rpm
  rw [startWatch_watchFor, (judgeDrumPeriod_relieves s rpm).watchFor, h]

/-- A slow period finds ARMED: the RELIEF mark is set (R17). -/
theorem judgeDrumPeriod_marks {s : Part} {rpm : Int} (h : s.override.relief = .armed) (slow : s.belowEnter rpm = true) :
    (s.judgeDrumPeriod rpm).window.marks.relief = true := by
  unfold Part.judgeDrumPeriod
  rw [h]
  dsimp only
  rw [if_pos slow, slowPeriod_of_armed h]

/-! ### The drive that an rpm ends (R120, R124) -/

/-- The rpm ends the drive of a move: at its jog's edge, in the target band or across the target. -/
theorem rpmEndsDrive_iff (s : Part) (v : SpeedChannel) (m : Move) (rpm : Int) : s.rpmEndsDrive v m rpm = true ↔
    if m.kind = .jog then ∃ d, m.direction = some d ∧ distanceToEdge d rpm m.edge = 0
    else ∃ w, m.target = some w ∧ (distance w rpm ≤ (s.store.activePreset.bands.get v).approach
      ∨ (m.direction = some .up ∧ w ≤ rpm) ∨ (m.direction = some .down ∧ rpm ≤ w)) := by
  by_cases jog : m.kind = .jog
  · rw [if_pos jog]
    unfold Part.rpmEndsDrive Move.atEdge
    rw [jog]
    cases m.direction <;> simp
  · rw [if_neg jog]
    unfold Part.rpmEndsDrive Part.params
    cases kind : m.kind <;> first | exact absurd kind jog | skip
    all_goals
      cases m.target with
      | none => simp
      | some w =>
        cases m.direction with
        | none => simp
        | some d => cases d <;> simp

theorem judgeDrive_drives (s : Part) (v : SpeedChannel) : Drives s (s.judgeDrive v) := by
  unfold Part.judgeDrive
  split
  · split
    · exact (Drives.refl s).endDrive _ _
    · exact .refl s
  · exact .refl s

theorem judgeDrive_of_ends {s : Part} {v : SpeedChannel} {mv : Move} (driving : (s.motionOf v.channel).phase = .driving)
    (moves : (s.motionOf v.channel).move = some mv) (ends : s.rpmEndsDrive v mv (s.rpmOf v) = true) :
    s.judgeDrive v = s.endDrive v.channel .ownEnd := by
  unfold Part.judgeDrive
  simp [driving, moves, ends]

theorem judgeDrive_of_not_ends {s : Part} {v : SpeedChannel} (h : (s.motionOf v.channel).phase ≠ .driving
    ∨ ∀ mv, (s.motionOf v.channel).move = some mv → s.rpmEndsDrive v mv (s.rpmOf v) = false) : s.judgeDrive v = s := by
  unfold Part.judgeDrive
  split
  · rename_i mv driving moves
    rcases h with h | h
    · exact absurd driving h
    · rw [h mv moves]
      rfl
  · rfl

/-! ### A qualifying edge -/

theorem Relieves.drive {s t : Part} (h : Relieves s t) : t.motion = s.motion ∧ t.slots = s.slots := by
  obtain ⟨o, b, rfl⟩ := h
  exact ⟨rfl, rfl⟩

theorem Drives.override {s t : Part} (h : Drives s t) : t.override = s.override := by
  obtain ⟨motion, slots, rankOrder, shifted, rfl⟩ := h
  rfl

theorem Drives.belowEnter {s t : Part} (h : Drives s t) (rpm : Int) : t.belowEnter rpm = s.belowEnter rpm := by
  obtain ⟨motion, slots, rankOrder, shifted, rfl⟩ := h
  rfl

theorem Drives.judgedOverride {s t : Part} (h : Drives s t) (rpm : Int) : t.judgedOverride rpm = s.judgedOverride rpm := by
  obtain ⟨motion, slots, rankOrder, shifted, rfl⟩ := h
  rfl

theorem Drives.watchFor {s t : Part} (h : Drives s t) (r : Relief) : t.watchFor r = s.watchFor r := by
  obtain ⟨motion, slots, rankOrder, shifted, rfl⟩ := h
  cases r <;> rfl

theorem PerSpeed.set_set {α : Type} (t : PerSpeed α) (i : SpeedChannel) (a b : α) : (t.set i a).set i b = t.set i b := by
  cases i <;> rfl

/-- The part with a qualifying edge counted on an input, before anything judges it. -/
def Part.counted (s : Part) (v : SpeedChannel) (k : Nat) : Part :=
  { s with
    capture := { s.capture with
      speed := s.capture.speed.set v ((s.capture.speed.get v).edge s.now (s.store.activeCal.figures.speed.get v) s.freeIndex) }
    freeIndex := k }

/-- What concerns the drum's input alone. -/
def Part.ifDrum (s : Part) (v : SpeedChannel) (f : Part → Part) : Part :=
  match v with
  | .drum => f s
  | .fan => s

theorem qualifyingEdge_of_overdue {s : Part} {v : SpeedChannel} (overdue : (s.capture.speed.get v).closedPeriod s.now = none) :
    s.qualifyingEdge v = (s.counted v s.freeIndex).ifDrum v Part.startWatch := by
  unfold Part.qualifyingEdge Part.counted
  simp only [overdue, SpeedCapture.edge_of_overdue overdue]
  cases v <;> rfl

theorem qualifyingEdge_of_closed {s : Part} {v : SpeedChannel} {period : Nat}
    (closed : (s.capture.speed.get v).closedPeriod s.now = some period) :
    s.qualifyingEdge v = ((s.counted v (s.freeIndex + 1)).judgeDrive v).ifDrum v fun t =>
      (t.judgeDrumPeriod (instantRpm (s.store.activeCal.figures.speed.get v) period s.freeIndex)).startWatch := by
  have counted : ({ (s.modSpeed v fun c => { c with lastEdge := some s.now }).modSpeed v fun c =>
      { c.addPeriod period with rpm := instantRpm (s.store.activeCal.figures.speed.get v) period s.freeIndex } with
      freeIndex := s.freeIndex + 1 } : Part) = s.counted v (s.freeIndex + 1) := by
    simp only [Part.modSpeed, Part.counted, PerSpeed.get_set_self, PerSpeed.set_set, SpeedCapture.edge_of_closed closed]
  unfold Part.qualifyingEdge Part.closePeriod
  simp only [closed]
  cases v with
  | drum => exact congrArg (fun t : Part => ((t.judgeDrive .drum).judgeDrumPeriod _).startWatch) counted
  | fan => exact congrArg (fun t : Part => t.judgeDrive .fan) counted

theorem exec_speedEdge_of_on {p : Part} (on : p.power = .on) (q : List Instr) (dt : Nat) (v : SpeedChannel) (e : Edge) :
    exec (.speedEdge dt v e) ⟨p, q⟩ = .next ⟨if (p.store.activeCal.figures.speed.get v).edges.admits e = true
      then (p.later dt).qualifyingEdge v else p.later dt, q⟩ :=
  congrArg (fun t => Host.Outcome.next (State.mk t q)) (Part.onEvent_of_on on dt _)

/-- What a qualifying edge changes beside its input: motions and slots as the Drive Arbiter does, and on the drum Plug Relief. -/
theorem qualifyingEdge_frame (s : Part) (v : SpeedChannel) :
    ∃ k w, Drives (s.counted v k) w ∧ Relieves w (s.qualifyingEdge v) ∧ (v = .fan → s.qualifyingEdge v = w) := by
  cases closed : (s.capture.speed.get v).closedPeriod s.now with
  | none =>
    refine ⟨_, _, .refl (s.counted v s.freeIndex), ?_, ?_⟩ <;> rw [qualifyingEdge_of_overdue closed]
    · cases v
      · exact .startWatch _
      · exact .refl _
    · exact fun fan => by subst fan; rfl
  | some period =>
    refine ⟨_, _, judgeDrive_drives (s.counted v (s.freeIndex + 1)) v, ?_, ?_⟩ <;> rw [qualifyingEdge_of_closed closed]
    · cases v
      · exact (judgeDrumPeriod_relieves _ _).trans (.startWatch _)
      · exact .refl _
    · exact fun fan => by subst fan; rfl

/-- The motions and slots after a qualifying edge: those after the judgement of the drive that its period may end. -/
theorem qualifyingEdge_drive (s : Part) (v : SpeedChannel) :
    (∀ period, (s.capture.speed.get v).closedPeriod s.now = some period →
      (s.qualifyingEdge v).motion = ((s.counted v (s.freeIndex + 1)).judgeDrive v).motion
      ∧ (s.qualifyingEdge v).slots = ((s.counted v (s.freeIndex + 1)).judgeDrive v).slots)
    ∧ ((s.capture.speed.get v).closedPeriod s.now = none →
      (s.qualifyingEdge v).motion = s.motion ∧ (s.qualifyingEdge v).slots = s.slots) := by
  refine ⟨fun period closed => ?_, fun overdue => ?_⟩
  · rw [qualifyingEdge_of_closed closed]
    cases v with
    | drum => exact ((judgeDrumPeriod_relieves _ _).trans (.startWatch _)).drive
    | fan => exact ⟨rfl, rfl⟩
  · rw [qualifyingEdge_of_overdue overdue]
    cases v <;> exact ⟨rfl, rfl⟩

/-- Plug Relief after a qualifying edge of the drum. -/
theorem qualifyingEdge_relief (s : Part) :
    (∀ period, (s.capture.speed.get .drum).closedPeriod s.now = some period →
      let rpm := instantRpm (s.store.activeCal.figures.speed.get .drum) period s.freeIndex
      (s.qualifyingEdge .drum).override =
          { s.judgedOverride rpm with watchAt := s.watchFor (s.judgedOverride rpm).relief }
        ∧ (s.override.relief = .armed → s.belowEnter rpm = true → (s.qualifyingEdge .drum).window.marks.relief = true))
    ∧ ((s.capture.speed.get .drum).closedPeriod s.now = none →
      (s.qualifyingEdge .drum).override = { s.override with watchAt := s.watchFor s.override.relief }) := by
  refine ⟨fun period closed => ?_, fun overdue => ?_⟩
  · have drives := judgeDrive_drives (s.counted .drum (s.freeIndex + 1)) .drum
    rw [qualifyingEdge_of_closed closed]
    refine ⟨?_, fun armed slow => judgeDrumPeriod_marks ?_ ?_⟩
    · rw [Part.ifDrum, judgeDrumPeriod_startWatch, drives.judgedOverride, drives.watchFor]
      rfl
    · rw [drives.override]
      exact armed
    · rw [drives.belowEnter]
      exact slow
  · rw [qualifyingEdge_of_overdue overdue]
    exact startWatch_watchFor _

/-- What a qualifying edge makes of its input's accumulators, in the words of the statement. -/
theorem SpeedCapture.edge_spec (c : SpeedCapture) (now : Nat) (cal : SpeedCal) (k : Nat) :
    let c' := c.edge now cal k
    c'.lastEdge = some now
    ∧ ((∀ b, c.lastEdge = some b → 1000000 < now - b) → c'.count = c.count ∧ c'.periodSum = c.periodSum ∧ c'.rpm = c.rpm)
    ∧ (∀ b, c.lastEdge = some b → now - b ≤ 1000000 →
        (c.count = 65535 → c'.count = c.count ∧ c'.periodSum = c.periodSum)
        ∧ (c.count ≠ 65535 → c'.count = c.count + 1 ∧ c'.periodSum = c.periodSum + (now - b))
        ∧ (0 < now - b → c'.rpm = roundHalfUp 960000000 ((now - b) * cal.teeth * cal.ratio16))) := by
  refine ⟨SpeedCapture.edge_lastEdge c now cal k, fun overdue => ?_,
    fun b last near => ⟨fun full => ?_, fun room => ?_, fun pos => ?_⟩⟩
  · rw [SpeedCapture.edge_of_overdue (SpeedCapture.closedPeriod_overdue overdue)]
    exact ⟨rfl, rfl, rfl⟩
  all_goals rw [SpeedCapture.edge_of_closed (SpeedCapture.closedPeriod_within last near)]
  · rw [SpeedCapture.addPeriod_full (c := { c with lastEdge := some now }) full]
    exact ⟨rfl, rfl⟩
  · rw [SpeedCapture.addPeriod_room (c := { c with lastEdge := some now }) room]
    exact ⟨rfl, rfl⟩
  · exact instantRpm_of_pos pos cal k

/-- Plug Relief after a qualifying edge of the drum, state by state: the clauses of R146 to R148, R151 and R152. -/
theorem drumEdge_relief (s : Part) :
    let c := s.capture.speed.drum
    let rpm : Int := (c.edge s.now s.store.activeCal.figures.speed.drum s.freeIndex).rpm
    let o := s.override
    let k := s.store.activePreset.relief
    let closed := ∃ b, c.lastEdge = some b ∧ s.now - b ≤ 1000000
    let slow := rpm * 100 < k.enterPercent * (s.entryOf .drum).setpoint
    let fast := k.recoverPercent * (s.entryOf .drum).setpoint ≤ rpm * 100
    let confirm := some (s.now + k.confirmTime * 1000)
    let recover := some (s.now + k.recoverTime * 1000)
    let t := s.qualifyingEdge .drum
    (o.relief = .spinup →
        (closed ∧ fast → t.override = { o with relief := .armed, watchAt := s.watchDeadline k.enterPercent })
        ∧ (¬(closed ∧ fast) → t.override = { o with watchAt := none }))
    ∧ (o.relief = .armed →
        (closed ∧ slow → t.window.marks.relief = true
          ∧ t.override = { o with relief := .suspect, confirmAt := confirm, watchAt := s.watchDeadline k.enterPercent })
        ∧ (¬(closed ∧ slow) → t.override = { o with watchAt := s.watchDeadline k.enterPercent }))
    ∧ (o.relief = .suspect →
        (closed ∧ ¬slow → t.override = { o with relief := .armed, confirmAt := none, watchAt := s.watchDeadline k.enterPercent })
        ∧ (¬(closed ∧ ¬slow) → t.override = { o with watchAt := s.watchDeadline k.enterPercent }))
    ∧ (o.relief = .returning →
        (closed ∧ slow → t.override = { o with
          confirmAt := o.confirmAt.or confirm, watchAt := s.watchDeadline k.enterPercent })
        ∧ (closed ∧ ¬slow → t.override = { o with confirmAt := none, watchAt := s.watchDeadline k.enterPercent })
        ∧ (¬closed → t.override = { o with watchAt := s.watchDeadline k.enterPercent }))
    ∧ (o.relief = .openHeld false →
        (closed ∧ fast → t.override = { o with
          recoverAt := o.recoverAt.or recover, watchAt := s.watchDeadline k.recoverPercent })
        ∧ (closed ∧ ¬fast → t.override = { o with recoverAt := none, watchAt := s.watchDeadline k.recoverPercent })
        ∧ (¬closed → t.override = { o with watchAt := s.watchDeadline k.recoverPercent }))
    ∧ (o.relief = .openHeld true → t.override = { o with watchAt := s.watchDeadline k.recoverPercent })
    ∧ (o.relief = .disarmed ∨ o.relief = .opening → t.override = { o with watchAt := none }) := by
  intro c rpm o k closed slow fast confirm recover t
  have slowIs : s.belowEnter rpm = true ↔ slow := belowEnter_iff s rpm
  have fastIs : s.atRecover rpm = true ↔ fast := atRecover_iff s rpm
  by_cases h : closed
  · obtain ⟨b, last, near⟩ := h
    have period := SpeedCapture.closedPeriod_within last near
    have rpmIs : rpm = instantRpm s.store.activeCal.figures.speed.drum (s.now - b) s.freeIndex := by
      simp only [rpm, c, SpeedCapture.edge_of_closed period]
    have h : closed := ⟨b, last, near⟩
    obtain ⟨judged, mark⟩ := (qualifyingEdge_relief s).1 _ period
    change t.override = _ at judged
    change _ → _ → t.window.marks.relief = true at mark
    rw [show s.store.activeCal.figures.speed.get .drum = s.store.activeCal.figures.speed.drum from rfl, ← rpmIs] at judged mark
    refine ⟨fun r => ⟨fun ⟨_, f⟩ => ?_, fun no => ?_⟩, fun r => ⟨fun ⟨_, f⟩ => ⟨mark r (slowIs.2 f), ?_⟩, fun no => ?_⟩,
      fun r => ⟨fun ⟨_, f⟩ => ?_, fun no => ?_⟩, fun r => ⟨fun ⟨_, f⟩ => ?_, fun ⟨_, f⟩ => ?_, fun no => absurd h no⟩,
      fun r => ⟨fun ⟨_, f⟩ => ?_, fun ⟨_, f⟩ => ?_, fun no => absurd h no⟩, fun r => ?_, fun r => ?_⟩
    · rw [judged, judgedOverride_of_spinup r, if_pos (fastIs.2 f)]; rfl
    · rw [judged, judgedOverride_of_spinup r, if_neg fun f => no ⟨h, fastIs.1 f⟩]; exact watchFor_at r
    · rw [judged, judgedOverride_of_armed r, if_pos (slowIs.2 f)]; rfl
    · rw [judged, judgedOverride_of_armed r, if_neg fun f => no ⟨h, slowIs.1 f⟩]; exact watchFor_at r
    · rw [judged, judgedOverride_of_suspect r, if_neg (f ∘ slowIs.1)]; rfl
    · rw [judged, judgedOverride_of_suspect r, if_pos (slowIs.2 (not_not.1 fun f => no ⟨h, f⟩))]; exact watchFor_at r
    · rw [judged, judgedOverride_of_returning r, if_pos (slowIs.2 f)]; exact watchFor_at (o := { o with confirmAt := o.confirmAt.or confirm }) r
    · rw [judged, judgedOverride_of_returning r, if_neg (f ∘ slowIs.1)]; exact watchFor_at (o := { o with confirmAt := none }) r
    · rw [judged, judgedOverride_of_held r, if_pos (fastIs.2 f)]; exact watchFor_at (o := { o with recoverAt := o.recoverAt.or recover }) r
    · rw [judged, judgedOverride_of_held r, if_neg (f ∘ fastIs.1)]; exact watchFor_at (o := { o with recoverAt := none }) r
    · rw [judged, judgedOverride_of_idle (.inl r)]; exact watchFor_at r
    · rw [judged, judgedOverride_of_idle (.inr r)]
      rcases r with r | r <;> exact watchFor_at r
  · have overdue : ∀ b, c.lastEdge = some b → 1000000 < s.now - b := fun b last => Nat.not_le.1 fun near => h ⟨b, last, near⟩
    have same : t.override = { o with watchAt := s.watchFor o.relief } :=
      (qualifyingEdge_relief s).2 (SpeedCapture.closedPeriod_overdue overdue)
    simp only [h, false_and, not_false_eq_true, false_implies, true_implies, true_and]
    refine ⟨fun r => ?_, fun r => ?_, fun r => ?_, fun r => ?_, fun r => ?_, fun r => ?_, fun r => ?_⟩
    case refine_7 => exact same.trans (r.elim watchFor_at watchFor_at)
    all_goals exact same.trans (watchFor_at r)

/-- The drive that a period's rpm ends, and that no other edge ends one (R120, R124). -/
theorem speedEdge_drive (s : Part) (v : SpeedChannel) :
    let c := s.capture.speed.get v
    let rpm : Int := (c.edge s.now (s.store.activeCal.figures.speed.get v) s.freeIndex).rpm
    let m := s.motionOf v.channel
    let ends := fun mv : Move => (∃ b, c.lastEdge = some b ∧ s.now - b ≤ 1000000) ∧ s.rpmEndsDrive v mv rpm = true
    let t := s.qualifyingEdge v
    (∀ mv, m.phase = .driving → m.move = some mv → ends mv → (∀ y ∈ t.slots, y.channel ≠ v.channel)
      ∧ t.motionOf v.channel = { m with
          phase := .coasting, coastEndsAt := some (s.now + s.coastTime v.channel * 1000), stallAt := none
          lastDirection := mv.direction.or m.lastDirection
          move := some { mv with driveEnd := .ownEnd, driveTime := mv.driveTime + (s.now - m.drivingSince) } })
    ∧ (m.phase ≠ .driving ∨ (∀ mv, m.move = some mv → ¬ends mv) → t.motion = s.motion ∧ t.slots = s.slots) := by
  intro c rpm m ends t
  let x := s.counted v (s.freeIndex + 1)
  have hrpm : x.rpmOf v = rpm := by
    simp only [x, Part.rpmOf, Part.counted, PerSpeed.get_set_self]
    rfl
  refine ⟨fun mv driving moves ⟨⟨b, last, near⟩, past⟩ => ?_, fun h => ?_⟩
  · obtain ⟨motion, slots⟩ := (qualifyingEdge_drive s v).1 _ (SpeedCapture.closedPeriod_within last near)
    have judged : x.judgeDrive v = x.endDrive v.channel .ownEnd :=
      judgeDrive_of_ends (mv := mv) driving moves (by rw [hrpm]; exact past)
    rw [judged] at motion slots
    refine ⟨fun y hy => endDrive_slots x v.channel .ownEnd y (slots ▸ hy), ?_⟩
    have at_end : t.motionOf v.channel = (x.driveOff v.channel .ownEnd).motionOf v.channel := by
      rw [← motionOf_endDrive_self]
      exact congrArg (·.get v.channel) motion
    have same : x.motionOf v.channel = m := rfl
    rw [at_end, motionOf_driveOff, if_pos rfl, same, moves]
    cases v <;> rfl
  · by_cases closed : ∃ b, c.lastEdge = some b ∧ s.now - b ≤ 1000000
    · have judged : x.judgeDrive v = x := by
        refine judgeDrive_of_not_ends (h.imp_right fun not mv moves => ?_)
        rw [hrpm]
        exact Bool.eq_false_iff.2 fun past => not mv moves ⟨closed, past⟩
      obtain ⟨b, last, near⟩ := closed
      obtain ⟨motion, slots⟩ := (qualifyingEdge_drive s v).1 _ (SpeedCapture.closedPeriod_within last near)
      rw [judged] at motion slots
      exact ⟨motion, slots⟩
    · refine (qualifyingEdge_drive s v).2 (SpeedCapture.closedPeriod_overdue fun b last => ?_)
      exact Nat.not_le.1 fun near => closed ⟨b, last, near⟩

end Sys2Proof.Machine

open Sys2Proof Sys2Proof.Machine

/-- Settles O15. -/
theorem aSpeedEdgeClosesAPeriod : Obligations.ASpeedEdgeClosesAPeriod := by
  intro p q dt v e on c cal now selected
  rw [exec_speedEdge_of_on on]
  refine ⟨fun h => ?_, fun h => ?_⟩
  · rw [if_neg fun a => h ((EdgeSelection.admits_iff _ _).1 a)]
  rw [if_pos ((EdgeSelection.admits_iff _ _).2 h)]
  obtain ⟨counts, overdue, within⟩ := SpeedCapture.edge_spec c now cal p.freeIndex
  obtain ⟨k, w, ⟨motion, slots, rankOrder, shifted, rfl⟩, ⟨o, mark, left⟩, fan⟩ := qualifyingEdge_frame (p.later dt) v
  refine ⟨_, c.edge now cal p.freeIndex, rfl, ?_, ?_, counts, overdue, within, ?_, ?_, ?_, ?_, ?_, ?_, ?_, ?_, ?_, ?_, ?_, ?_, ?_, ?_,
    ?_, ?fan, ?drum, ?drive⟩
  case drum =>
    intro isDrum
    subst isDrum
    exact drumEdge_relief (p.later dt)
  case drive =>
    obtain ⟨off, stays⟩ := speedEdge_drive (p.later dt) v
    simp only [rpmEndsDrive_iff] at off stays
    exact ⟨off, stays⟩
  case fan =>
    intro isFan
    rw [fan isFan]
    rfl
  all_goals rw [left]
  all_goals first | rfl | exact on

end

section
/-! PROOFS. A disengagement that finds a referenced channel of the park mask free with a HOME still in its Request List: a TRIM of the
close that comes first runs the take rule, the HOME is taken and clears the reference, and no PARK move is handed (R72, R115, R155). -/

namespace Sys2Proof.Machine

/-- A clean record whose walker-end index sets WALKER_LOSS under the fallback preset. -/
def walkerLossRecord (n : Nat) : WindowRecord where
  number := n
  elapsed := 2000
  cause := .full
  hits := ⟨0, 0, 20⟩
  tailActiveMs := 0
  speedCount := .const 10
  periodSum := .const 100000
  duty := .const (some 500)
  lossIndex := ⟨0, 0, 600⟩
  sl := 0
  imb := 0
  rpm := .const 1000
  tailPm := 0
  roll := 0
  pitch := 0
  feederPm := 0
  droopPm := 0
  load := 0
  tags := ⟨false, false, false, false, false, false, false, false⟩

/-- A part that harvests with relief ARMED, SEP released 50 ms ago: CONCAVE stands IDLE and referenced in mode AUTO, away from its park
value, with a HOME of the operator listed, and the last three records call for its TRIM. -/
def listedHome : Part :=
  { Part.reset with
    harvesting := true
    capture := { Capture.reset with engaged := true, sepQualifyAt := some 1000000 }
    window := { WindowUnit.reset 0 20 with
      number := 4, engaged := true, marks := ⟨false, false, false⟩
      history := [walkerLossRecord 1, walkerLossRecord 2, walkerLossRecord 3] }
    book := { Part.reset.book with
      concave := { BookEntry.reset 140 .preset .auto with requests := [⟨.operator, .home, 4, none, false⟩] } }
    settle := 0
    motion := { Part.reset.motion with concave := { Motion.reset .idle with referenced := true } }
    override := { Override.reset with relief := .armed } }

/-- The part that the expiry of the qualification leaves, the blocks in the order of their definition. -/
def listedHomeLeft : Part := (listedHome.atTime 1000000).changeSeparator false ⟨[], []⟩

theorem exec_sepQualifyExpiry_of_on {p : Part} (on : p.power = .on) (q : List Instr) (o : Order) {d : Nat}
    (runs : p.capture.sepQualifyAt = some d) :
    exec (.sepQualifyExpiry o) ⟨p, q⟩ = .next ⟨(p.atTime d).changeSeparator p.lines.sep o, q⟩ :=
  congrArg (fun t => Host.Outcome.next (State.mk t q)) (Part.onExpiry_of_on on runs _)

/-- The HOME that the TRIM's take rule took is aborted and its reference is gone, so CONCAVE holds no move. -/
theorem listedHomeLeft_concave : (listedHomeLeft.motionOf .concave).move = none := rfl

end Sys2Proof.Machine

open Sys2Proof Sys2Proof.Machine

/-- Refutes O19: of a parked channel the statement asks for the PARK move whatever its Request List holds. On `listedHome` the window
closes first, while the part still harvests; its record's TRIM of CONCAVE runs the take rule, which takes the listed HOME of the
operator; the HOME clears the referenced flag and is aborted, and R155 parks referenced channels only. -/
theorem not_aLevelThatHasHeldBecomesTheSeparatorState : ¬ Obligations.ALevelThatHasHeldBecomesTheSeparatorState := by
  intro holds
  obtain ⟨t, left, -, -, -, -, -, -, -, -, -, -, -, -, -, disengaged, -⟩ := holds listedHome [] ⟨[], []⟩ 1000000 rfl rfl
  obtain rfl : listedHomeLeft = t := by
    rw [exec_sepQualifyExpiry_of_on rfl [] ⟨[], []⟩ rfl] at left
    injection left with left
    injection left
  obtain ⟨-, -, channels⟩ := disengaged rfl
  obtain ⟨-, -, parks⟩ := channels ⟨rfl, rfl, rfl⟩ .concave (by decide)
  have sound : ∀ cause, (listedHome.motionOf .concave).phase ≠ .faulted cause := fun _ => Phase.noConfusion
  obtain ⟨⟨mv, moves, -⟩, -⟩ := parks .concave rfl ⟨rfl, rfl, rfl, sound⟩ rfl (by decide)
  rw [listedHomeLeft_concave] at moves
  exact absurd moves (by simp)

end

section
/-! PROOFS. What an operation on one channel can do, said once: `Local P W d s t` says that t came from s by work on channel d. Other
channels keep their entries, and their motions but for a grant of a released slot; clock, lines, windows, store, harvesting, service
mode and Evaluation stand as they did; a move that d then holds is one it had or one whose owner satisfies P; and without W the
setpoint and origin of d stand too. -/

namespace Sys2Proof.Machine

/-- What no operation on one channel writes: the window without its SHIFTED and RELIEF marks, the bus without its queue and the jog
timers, of the Evaluator what the records left. -/
structure Pinned where
  now : Nat
  power : Power
  lines : Lines
  phold : Bool
  shutdown : Option Shutdown
  harvesting : Bool
  capture : Capture
  window : WindowUnit
  evaluation : Evaluation
  latestLoad : Nat
  service : Bool
  fanOffset : Int
  store : Store
  groundSpeed : Nat
  speedKnown : Bool
  freshUntil : Option Nat

/-- The pinned part of a state. -/
def Part.pinned (s : Part) : Pinned where
  now := s.now
  power := s.power
  lines := s.lines
  phold := s.phold
  shutdown := s.shutdown
  harvesting := s.harvesting
  capture := s.capture
  window := { s.window with marks := ⟨false, s.window.marks.notHarvesting, false⟩ }
  evaluation := s.evaluator.evaluation
  latestLoad := s.evaluator.latestLoad
  service := s.service
  fanOffset := s.fanOffset
  store := s.store
  groundSpeed := s.bus.groundSpeed
  speedKnown := s.bus.speedKnown
  freshUntil := s.bus.freshUntil

/-- An entry whose take commits nothing: one without a target of its own, which is no JOG (R58, R119). -/
def Entry.silent (e : Entry) : Prop :=
  match e.kind with
  | .set none | .home | .shake _ _ => True
  | .set (some _) | .jog _ => False

/-- An entry that may stand in the list of a channel on which owners satisfy P and, without W, no setpoint is written. -/
def Entry.fits (P : Owner → Prop) (W : Prop) (e : Entry) : Prop := P (.request e.requester) ∧ (W ∨ e.silent)

/-- Every entry listed for a channel fits. -/
def Part.listFits (s : Part) (P : Owner → Prop) (W : Prop) (d : Channel) : Prop := ∀ e ∈ (s.entryOf d).requests, e.fits P W

/-- The owner of the move in flight on a channel, where it has one, satisfies P. -/
def Part.owned (s : Part) (P : Owner → Prop) (d : Channel) : Prop := ∀ mv, (s.motionOf d).move = some mv → P mv.owner

/-- Work on channel d alone. -/
structure Local (P : Owner → Prop) (W : Prop) (d : Channel) (s t : Part) : Prop where
  pinned : t.pinned = s.pinned
  trim : t.louverTrim = s.louverTrim ∨ t.louverTrim = 0
  relief : s.override.relief.blocks = false → t.override.relief.blocks = false
  entries : ∀ c, c ≠ d → t.entryOf c = s.entryOf c
  motions : ∀ c, c ≠ d → (s.motionOf c).Follows (t.motionOf c)
  mode : (t.entryOf d).mode = (s.entryOf d).mode
  hold : (t.entryOf d).hold = (s.entryOf d).hold
  lists : s.listFits P W d → t.listFits P W d
  owners : s.owned P d → t.owned P d
  setpoint : ¬W → (t.entryOf d).setpoint = (s.entryOf d).setpoint ∧ (t.entryOf d).origin = (s.entryOf d).origin

section

variable {P : Owner → Prop} {W : Prop} {d : Channel} {s0 s t : Part}

theorem Local.refl (s : Part) : Local P W d s s :=
  ⟨rfl, .inl rfl, id, fun _ _ => rfl, fun _ _ => .refl _, rfl, rfl, id, id, fun _ => ⟨rfl, rfl⟩⟩

theorem Local.trans (h : Local P W d s0 s) (k : Local P W d s t) : Local P W d s0 t where
  pinned := k.pinned.trans h.pinned
  trim := k.trim.elim (fun e => e ▸ h.trim) .inr
  relief := k.relief ∘ h.relief
  entries := fun c ne => (k.entries c ne).trans (h.entries c ne)
  motions := fun c ne => (h.motions c ne).trans (k.motions c ne)
  mode := k.mode.trans h.mode
  hold := k.hold.trans h.hold
  lists := k.lists ∘ h.lists
  owners := k.owners ∘ h.owners
  setpoint := fun w => ⟨(k.setpoint w).1.trans (h.setpoint w).1, (k.setpoint w).2.trans (h.setpoint w).2⟩

/-! ### The steps of work on a channel -/

/-- A change of neither a motion nor an entry. -/
theorem Local.other (h : Local P W d s0 s) (pinned : t.pinned = s.pinned) (book : t.book = s.book) (motion : t.motion = s.motion)
    (trim : t.louverTrim = s.louverTrim ∨ t.louverTrim = 0)
    (relief : s.override.relief.blocks = false → t.override.relief.blocks = false) : Local P W d s0 t := by
  have entry (c : Channel) : t.entryOf c = s.entryOf c := congrArg (·.get c) book
  have moved (c : Channel) : t.motionOf c = s.motionOf c := congrArg (·.get c) motion
  refine h.trans ⟨pinned, trim, relief, fun c _ => entry c, fun c _ => .of_eq (moved c), by rw [entry], by rw [entry], ?_, ?_, ?_⟩
  · exact fun l => by rw [Part.listFits, entry]; exact l
  · exact fun o => by rw [Part.owned, moved]; exact o
  · exact fun _ => by rw [entry]; exact ⟨rfl, rfl⟩

/-- A change of the motion of d that makes it no move but one of an allowed owner. -/
theorem Local.modMotion (h : Local P W d s0 s) (f : Motion → Motion)
    (owner : ∀ m mv, (f m).move = some mv → P mv.owner ∨ ∃ old, m.move = some old ∧ old.owner = mv.owner) :
    Local P W d s0 (s.modMotion d f) := by
  refine h.trans ⟨rfl, .inl rfl, id, fun _ _ => rfl, fun c ne => .of_eq (motionOf_modMotion_of_ne s ne f), rfl, rfl, id, ?_,
    fun _ => ⟨rfl, rfl⟩⟩
  intro o mv moves
  rw [motionOf_modMotion_self] at moves
  rcases owner _ mv moves with allowed | ⟨old, was, same⟩
  · exact allowed
  · exact same ▸ o old was

/-- A change of the motion of d that keeps its move. -/
theorem Local.modMotion_move (h : Local P W d s0 s) (f : Motion → Motion) (move : ∀ m, (f m).move = m.move) :
    Local P W d s0 (s.modMotion d f) :=
  h.modMotion f fun m mv moves => .inr ⟨mv, (move m) ▸ moves, rfl⟩

/-- A change of the motion of d that takes its move away. -/
theorem Local.modMotion_none (h : Local P W d s0 s) (f : Motion → Motion) (none : ∀ m, (f m).move = none) :
    Local P W d s0 (s.modMotion d f) :=
  h.modMotion f fun m mv moves => by rw [none m] at moves; exact absurd moves (by simp)

/-- A change of the entry of d. -/
theorem Local.modBook (h : Local P W d s0 s) (f : BookEntry → BookEntry) (mode : ∀ e, (f e).mode = e.mode)
    (hold : ∀ e, (f e).hold = e.hold)
    (lists : s.listFits P W d → ∀ e ∈ (f (s.entryOf d)).requests, e.fits P W)
    (setpoint : ¬W → ∀ e, (f e).setpoint = e.setpoint ∧ (f e).origin = e.origin) : Local P W d s0 (s.modBook d f) := by
  refine h.trans ⟨rfl, .inl rfl, id, fun c ne => entryOf_modBook_of_ne s ne f, fun _ _ => .refl _, ?_, ?_, ?_, id, ?_⟩
  · rw [entryOf_modBook_self, mode]
  · rw [entryOf_modBook_self, hold]
  · exact fun l => by rw [Part.listFits, entryOf_modBook_self]; exact lists l
  · exact fun w => by rw [entryOf_modBook_self]; exact setpoint w _

/-- Another list for d. -/
theorem Local.requests (h : Local P W d s0 s) (l : List Entry) (fits : s.listFits P W d → ∀ e ∈ l, e.fits P W) :
    Local P W d s0 (s.modBook d fun e => { e with requests := l }) :=
  h.modBook _ (fun _ => rfl) (fun _ => rfl) fits fun _ _ => ⟨rfl, rfl⟩

/-- What the Drive Arbiter does for d. -/
theorem Local.drives (h : Local P W d s0 s) (drives : Drives s t)
    (motions : ∀ c, c ≠ d → (s.motionOf c).Follows (t.motionOf c))
    (identity : (t.motionOf d).move.map Move.identity = (s.motionOf d).move.map Move.identity) : Local P W d s0 t := by
  obtain ⟨motion, slots, rankOrder, shifted, rfl⟩ := drives
  refine h.trans ⟨rfl, .inl rfl, id, fun _ _ => rfl, motions, rfl, rfl, id, ?_, fun _ => ⟨rfl, rfl⟩⟩
  intro o mv moves
  rw [moves, Option.map_some] at identity
  obtain ⟨old, was, same⟩ := Option.map_eq_some_iff.1 identity.symm
  have owner : old.owner = mv.owner := congrArg (·.1) same
  exact owner ▸ o old was

theorem Local.regrant (h : Local P W d s0 s) : Local P W d s0 s.regrant :=
  h.drives (Drives.refl s).regrant (fun c _ => regrant_follows s c) (regrant_follows s d).identity

theorem Local.driveOff (h : Local P W d s0 s) (e : DriveEnd) : Local P W d s0 (s.driveOff d e) :=
  h.drives ((Drives.refl s).driveOff d e) (fun _ ne => .of_eq (motionOf_driveOff_of_ne s ne e)) (driveOff_identity s d e)

theorem Local.markShifted (h : Local P W d s0 s) (m : Move) : Local P W d s0 (s.markShifted d m) :=
  h.drives ((Drives.refl s).markShifted d m) (fun c _ => .of_eq (motionOf_markShifted s d c m)) (by rw [motionOf_markShifted])

theorem Local.grant (h : Local P W d s0 s) : Local P W d s0 (s.grant d) := by
  cases moves : (s.motionOf d).move with
  | none => exact (grant_of_no_move moves).symm ▸ h
  | some mv =>
    refine h.drives ((Drives.refl s).grant d) (fun c ne => .of_eq (motionOf_grant_of_ne s ne)) ?_
    rw [(grant_driven moves).identity, moves, Option.map_some]

theorem Local.askSlot (h : Local P W d s0 s) : Local P W d s0 (s.askSlot d) := by
  unfold Part.askSlot
  split
  · exact h.grant.regrant
  · exact h

theorem Local.enterWaiting (h : Local P W d s0 s) : Local P W d s0 (s.enterWaiting d) := by
  refine Local.askSlot ?_
  exact h.modMotion_move _ fun _ => rfl

/-! ### Frames, events and Plug Relief's state -/

theorem Local.send (h : Local P W d s0 s) (b : FrameBody) : Local P W d s0 (s.send b) := by
  refine h.other ?_ rfl rfl (.inl rfl) id
  unfold Part.send Bus.push Part.pinned
  dsimp only
  split
  · rfl
  · split
    · rfl
    · split <;> rfl

theorem Local.raise (h : Local P W d s0 s) (e : Event) (c : Option Channel) (d8 d16 : Nat) :
    Local P W d s0 (s.raise e c d8 d16) := by
  have sent := h.send (.event e c d8 d16 s.bus.overrun (s.window.number % 65536))
  unfold Part.raise Part.raiseIn
  dsimp only
  split
  · exact sent.other rfl rfl rfl (.inl rfl) id
  · exact sent

theorem Local.announceRestrain (h : Local P W d s0 s) (before : RestrainFace × Nat) : Local P W d s0 (s.announceRestrain before) := by
  unfold Part.announceRestrain Part.sendRestrain
  split
  · exact (h.send _).other rfl rfl rfl (.inl rfl) id
  · exact h

theorem Local.setRelief (h : Local P W d s0 s) {r : Relief} (free : r.blocks = false) : Local P W d s0 (s.setRelief r) := by
  unfold Part.setRelief
  dsimp only
  split <;> exact h.other rfl rfl rfl (.inl rfl) fun _ => free

theorem Local.startWatch (h : Local P W d s0 s) : Local P W d s0 s.startWatch := h.other rfl rfl rfl (.inl rfl) id

theorem Local.disarm (h : Local P W d s0 s) : Local P W d s0 s.disarm := by
  unfold Part.disarm
  extract_lets before wasOpen t
  have ht : Local P W d s0 t := h.other rfl rfl rfl (.inl rfl) fun _ => rfl
  split
  · exact (ht.other (t := t.setRestrain (.restrained .load 0)) rfl rfl rfl (.inl rfl) id).announceRestrain _
  · exact ht

theorem Local.judgeRelief (h : Local P W d s0 s) : Local P W d s0 s.judgeRelief := by
  unfold Part.judgeRelief
  split
  · split
    · exact h
    · exact h.disarm
  · split
    · exact h.setRelief rfl
    · exact h

/-! ### Outcomes and setpoints -/

theorem Local.recordOutcome (h : Local P W d s0 s) (o : OutcomeCode) (owner : Owner) (tag : Option Byte) :
    Local P W d s0 (s.recordOutcome d o owner tag) := by
  unfold Part.recordOutcome
  exact (h.modBook (fun e => { e with last := some ⟨o, owner, s.window.number⟩ }) (fun _ => rfl) (fun _ => rfl) id
    fun _ _ => ⟨rfl, rfl⟩).raise _ _ _ _

theorem Local.stopJogTimer (h : Local P W d s0 s) : Local P W d s0 (s.stopJogTimer d) := by
  unfold Part.stopJogTimer
  split
  · exact h
  · exact h.other rfl rfl rfl (.inl rfl) id

theorem Local.stopJogTimerOf (h : Local P W d s0 s) (m : Move) : Local P W d s0 (s.stopJogTimerOf d m) := by
  unfold Part.stopJogTimerOf
  split
  · exact h.stopJogTimer
  · exact h

theorem Local.endEntry (h : Local P W d s0 s) (o : OutcomeCode) (e : Entry) : Local P W d s0 (s.endEntry d o e) := by
  unfold Part.endEntry
  refine Local.recordOutcome ?_ o _ _
  split
  · exact h.stopJogTimer
  · exact h

theorem Local.endEntries (h : Local P W d s0 s) (o : OutcomeCode) (l : List Entry) :
    Local P W d s0 (l.foldl (fun s e => s.endEntry d o e) s) := by
  induction l generalizing s with
  | nil => exact h
  | cons e rest ih => exact ih (h.endEntry o e)

theorem Local.discardEntries (h : Local P W d s0 s) (o : OutcomeCode) (gone : Entry → Bool) :
    Local P W d s0 (s.discardEntries d o gone) := by
  unfold Part.discardEntries
  exact (h.requests _ fun l e he => l e (List.mem_of_mem_filter he)).endEntries o _

theorem Local.updateFanTarget (h : Local P W d s0 s) : Local P W d s0 s.updateFanTarget := h.other rfl rfl rfl (.inl rfl) id

theorem Local.drumRaised (h : Local P W d s0 s) (old : Int) : Local P W d s0 (s.drumRaised old) := by
  unfold Part.drumRaised
  split
  · exact (h.setRelief (r := .spinup) rfl).other rfl rfl rfl (.inl rfl) fun _ => rfl
  · exact h

theorem Local.stopIdleWatch (h : Local P W d s0 s) : Local P W d s0 s.stopIdleWatch := by
  unfold Part.stopIdleWatch
  split
  · exact h.other rfl rfl rfl (.inl rfl) id
  · exact h

theorem Local.putSetpoint (h : Local P W d s0 s) (v : Int) (writes : W) : Local P W d s0 (s.putSetpoint d v) := by
  unfold Part.putSetpoint
  extract_lets old t
  have ht : Local P W d s0 t := h.modBook _ (fun _ => rfl) (fun _ => rfl) id fun w => absurd writes w
  split
  · exact ht.updateFanTarget
  · exact (ht.drumRaised _).stopIdleWatch
  all_goals exact ht

theorem Local.commit (h : Local P W d s0 s) (v : Int) (r : Requester) (origin : Origin) (writes : W) :
    Local P W d s0 (s.commit d v r origin) := by
  unfold Part.commit Part.seeCommitment
  have put := (h.modBook (fun e => { e with origin := origin }) (fun _ => rfl) (fun _ => rfl) id
    fun w => absurd writes w).putSetpoint (s.clampToEnvelope d v) writes
  extract_lets t
  split
  · exact put
  all_goals
    split
    · exact put.other rfl rfl rfl (.inr rfl) id
    · exact put.other rfl rfl rfl (.inl rfl) id

/-! ### The end of a move -/

theorem Local.reliefOutcome (h : Local P W d s0 s) (k : MoveKind) (o : OutcomeCode) : Local P W d s0 (s.reliefOutcome k o) := by
  unfold Part.reliefOutcome
  extract_lets code
  split
  · rename_i opening
    refine Local.startWatch (h.other (t := { s.setRelief (.openHeld false) with override := _ }) ?_ ?_ ?_ (.inl ?_) fun free => ?_)
    case refine_5 => exact absurd free (by rw [opening]; decide)
    all_goals rfl
  · exact (((h.setRelief (r := .armed) rfl).other (t := (s.setRelief .armed).stopConfirm) rfl rfl rfl (.inl rfl) id)).raise _ _ _ _
  · exact h

theorem Local.endMove (h : Local P W d s0 s) (o : OutcomeCode) : Local P W d s0 (s.endMove d o) := by
  unfold Part.endMove
  split
  · exact h
  · exact (((h.modMotion_none _ fun _ => rfl).stopJogTimerOf _).recordOutcome o _ _).reliefOutcome _ o

theorem Local.completeMove (h : Local P W d s0 s) (o : OutcomeCode) : Local P W d s0 (s.completeMove d o) := by
  refine Local.endMove ?_ o
  exact h.modMotion_move _ fun _ => rfl

theorem Local.fault (h : Local P W d s0 s) (cause : FaultCause) (ending : Option OutcomeCode) :
    Local P W d s0 (s.fault d cause ending) := by
  unfold Part.fault
  extract_lets held t1 t2 t3 t4
  have h2 : Local P W d s0 t2 := (h.modMotion_none _ fun _ => rfl).raise _ _ _ _
  have h3 : Local P W d s0 t3 := by
    show Local P W d s0 (match (s.motionOf d).move, ending with
      | some mv, some o => (t2.stopJogTimerOf d mv).recordOutcome d o mv.owner mv.tag
      | _, _ => t2)
    split
    · exact (h2.stopJogTimerOf _).recordOutcome _ _ _
    · exact h2
  have h4 : Local P W d s0 t4 := h3.discardEntries .faulted _
  split
  · exact h4.judgeRelief
  · exact h4

theorem Local.comeToRest (h : Local P W d s0 s) (ending : Option OutcomeCode) : Local P W d s0 (s.comeToRest d ending) := by
  unfold Part.comeToRest
  split
  · exact h.fault _ ending
  · refine Local.endMove ?_ _
    exact h.modMotion_move _ fun _ => rfl

theorem Local.abort (h : Local P W d s0 s) (o : OutcomeCode) : Local P W d s0 (s.abort d o) := by
  unfold Part.abort
  split
  · exact h
  · split
    · exact ((((h.driveOff .workLeft).modMotion_none _ fun _ => rfl).regrant).stopJogTimerOf _).recordOutcome o _ _
    · exact ((h.modMotion_none _ fun _ => rfl).stopJogTimerOf _).recordOutcome o _ _
    all_goals exact h.comeToRest _

theorem Local.commitJog (h : Local P W d s0 s) (mv : Move) (writes : W) : Local P W d s0 (s.commitJog d mv) := by
  unfold Part.commitJog
  split
  · exact h.commit _ _ _ writes
  · exact h

theorem Local.endJogMove (h : Local P W d s0 s) (mv : Move) (writes : W) : Local P W d s0 (s.endJogMove d mv) := by
  unfold Part.endJogMove
  extract_lets t
  have ht : Local P W d s0 t := h.commitJog mv writes
  split
  · exact ht.endMove _
  · exact ht.completeMove _

/-! ### The hand-over -/

theorem Local.hand (h : Local P W d s0 s) (mv : Move) (owner : P mv.owner) (jog : mv.kind = .jog → W) :
    Local P W d s0 (s.hand d mv) := by
  have given : ∀ (f : Motion → Motion), (∀ m, ((f m).move.map (·.owner)) = some mv.owner) → Local P W d s0 (s.modMotion d f) := by
    intro f hf
    refine h.modMotion f fun m mv' moves => .inl ?_
    have same := hf m
    rw [moves, Option.map_some, Option.some.injEq] at same
    exact same ▸ owner
  unfold Part.hand
  split
  · exact h.recordOutcome _ _ _
  · split
    · exact (given _ fun _ => rfl).markShifted mv
    · extract_lets t
      have ht : Local P W d s0 t := given _ fun _ => rfl
      split
      · split
        · split
          · rename_i isJog
            exact ht.endJogMove mv (jog isJog)
          · exact ht.completeMove _
        · exact ht.enterWaiting
      · exact ht.enterWaiting

theorem Local.handSet (h : Local P W d s0 s) {owner : Owner} (allowed : P owner) {kind : MoveKind} (set : kind ≠ .jog)
    (sch : Scheduling) (target : Int) (tag : Option Byte) : Local P W d s0 (s.handSet d owner kind sch target tag) := by
  unfold Part.handSet
  extract_lets mv
  split <;> exact h.hand _ allowed fun jog => absurd jog set

theorem Local.handHome {p : PosChannel} (h : Local P W p.channel s0 s) {r : Requester} (allowed : P (.request r)) (tag : Option Byte) :
    Local P W p.channel s0 (s.handHome p r tag) := by
  unfold Part.handHome
  extract_lets c cal t u
  have ht : Local P W p.channel s0 t := h.modMotion_move _ fun _ => rfl
  have hu : Local P W p.channel s0 u := by
    show Local P W p.channel s0 (if c = .concave then t.judgeRelief else t)
    split
    · exact ht.judgeRelief
    · exact ht
  exact hu.hand _ allowed fun jog => MoveKind.noConfusion jog

theorem Local.handJog (h : Local P W d s0 s) {r : Requester} (allowed : P (.request r)) (writes : W) (dir : Direction)
    (tag : Option Byte) : Local P W d s0 (s.handJog d r dir tag) := by
  unfold Part.handJog
  extract_lets mv
  split <;> exact h.hand _ allowed fun _ => writes

theorem Local.handShake {p : PosChannel} (h : Local P W p.channel s0 s) {r : Requester} (allowed : P (.request r)) (a n : Nat)
    (tag : Option Byte) : Local P W p.channel s0 (s.handShake p r a n tag) :=
  h.hand _ allowed fun jog => MoveKind.noConfusion jog

end

end Sys2Proof.Machine
end

section
/-! PROOFS. The Setting Book's rules of requests are work on one channel: listing, taking, placing and posting (R67 to R76). -/

namespace Sys2Proof.Machine

theorem channel_of_kind_positional {c : Channel} {p : PosChannel} (kind : c.kind = .positional p) : c = p.channel := by
  cases c <;> cases kind <;> rfl

section

variable {P : Owner → Prop} {W : Prop} {d : Channel} {s0 s t : Part}

theorem Local.listEntry (h : Local P W d s0 s) {e : Entry} (fits : e.fits P W) : Local P W d s0 (s.listEntry d e) := by
  unfold Part.listEntry
  extract_lets listed
  split
  · refine Local.endEntry ?_ _ _
    refine h.requests _ fun l x hx => ?_
    obtain ⟨y, hy, rfl⟩ := List.mem_map.1 hx
    split
    · exact fits
    · exact l y hy
  · refine h.requests _ fun l x hx => ?_
    rcases mem_insertEntry.1 hx with rfl | old
    · exact fits
    · exact l x old

/-- A commitment of a SET that fits: without W it has no target, so nothing is committed. -/
theorem Local.commitEntry (h : Local P W d s0 s) {e : Entry} (fits : e.fits P W) : Local P W d s0 (s.commitEntry d e) := by
  unfold Part.commitEntry
  split
  case h_1 target isSet =>
    have writes : W := fits.2.resolve_right fun silent => by
      unfold Entry.silent at silent
      rw [isSet] at silent
      exact silent
    split
    · exact h.commit _ _ _ writes
    · exact h
  all_goals exact h

theorem Local.takeEntry (h : Local P W d s0 s) {e : Entry} (fits : e.fits P W) : Local P W d s0 (s.takeEntry d e) := by
  unfold Part.takeEntry
  split
  · exact (h.commitEntry fits).handSet fits.1 (fun jog => MoveKind.noConfusion jog) _ _ _
  case h_2 isJog =>
    refine h.handJog fits.1 (fits.2.resolve_right fun silent => ?_) _ _
    unfold Entry.silent at silent
    rw [isJog] at silent
    exact silent
  case h_3 p _ isPos =>
    obtain rfl := channel_of_kind_positional isPos
    exact h.handHome fits.1 _
  case h_4 p _ isPos =>
    obtain rfl := channel_of_kind_positional isPos
    exact h.handShake fits.1 _ _ _
  all_goals exact h

theorem Local.homeFirst {p : PosChannel} (h : Local P W p.channel s0 s) {e : Entry} (fits : e.fits P W) :
    Local P W p.channel s0 (s.homeFirst p e) := by
  unfold Part.homeFirst
  extract_lets c t
  have ht : Local P W p.channel s0 t := (h.discardEntries .superseded _).handHome fits.1 _
  split
  · exact ht.discardEntries .aborted _
  · exact ht

theorem Local.deferEntry (h : Local P W d s0 s) {e : Entry} (fits : e.fits P W) : Local P W d s0 (s.deferEntry d e) := by
  unfold Part.deferEntry
  split
  · exact (h.commitEntry fits).recordOutcome _ _ _
  · exact h.recordOutcome _ _ _

theorem Local.takeHead (h : Local P W d s0 s) {e : Entry} {others : List Entry} (list : (s.entryOf d).requests = e :: others)
    (fit : s.listFits P W d) : Local P W d s0 (s.takeHead d e others) := by
  have fits : e.fits P W := fit e (by rw [list]; exact List.mem_cons_self)
  unfold Part.takeHead
  extract_lets dropHead alone taken
  have hd : Local P W d s0 dropHead :=
    h.requests others fun l x hx => l x (by rw [list]; exact List.mem_cons_of_mem _ hx)
  have ha : Local P W d s0 alone := h.requests [e] fun _ x hx => (List.mem_singleton.1 hx) ▸ fits
  have ht : Local P W d s0 taken := (ha.endEntries .superseded others).requests [] fun _ x hx => absurd hx (List.not_mem_nil)
  split
  · exact hd.endEntry _ _
  · split
    case h_1 p isPos =>
      obtain rfl := channel_of_kind_positional isPos
      split
      · exact ht.takeEntry fits
      · split
        · exact ht.takeEntry fits
        · exact hd.endEntry _ _
        · exact hd.endEntry _ _
        · exact h.homeFirst fits
    · split
      · split
        · exact ht.takeEntry fits
        · exact ht.deferEntry fits
      · split
        · exact ht.takeEntry fits
        · exact hd.endEntry _ _
      all_goals exact ht.takeEntry fits

theorem Local.takeUpTo (n : Nat) (fit : s0.listFits P W d) : ∀ {s : Part}, Local P W d s0 s → Local P W d s0 (s.takeUpTo n d) := by
  induction n with
  | zero => exact fun h => h
  | succ n ih =>
    intro s h
    unfold Part.takeUpTo
    split
    · exact h
    case h_2 e others list =>
      split
      · exact ih (h.takeHead list (h.lists fit))
      · exact h

theorem Local.take (h : Local P W d s0 s) (fit : s0.listFits P W d) : Local P W d s0 (s.take d) := Local.takeUpTo _ fit h

theorem Local.retarget (h : Local P W d s0 s) {e : Entry} (fits : e.fits P W) : Local P W d s0 (s.retarget d e) := by
  unfold Part.retarget
  refine (h.commitEntry fits).modMotion _ fun m mv moves => .inr ?_
  obtain ⟨old, was, rfl⟩ := Option.map_eq_some_iff.1 moves
  exact ⟨old, was, by split <;> rfl⟩

theorem Local.place (h : Local P W d s0 s) (fit : s0.listFits P W d) {e : Entry} (fits : e.fits P W) :
    Local P W d s0 (s.place d e).1 := by
  unfold Part.place
  split
  · split
    · exact (h.listEntry fits).take fit
    · exact h.listEntry fits
  · split
    · exact h.listEntry fits
    · split
      · exact h
      · split
        · exact ((h.abort _).listEntry fits).take fit
        · split
          · exact h.retarget fits
          · exact ((h.abort _).listEntry fits).take fit

theorem Local.postEntry (h : Local P W d s0 s) (fit : s0.listFits P W d) {e : Entry} (fits : e.fits P W) :
    Local P W d s0 (s.postEntry d e).1 := by
  unfold Part.postEntry
  split
  · exact h
  · exact h.place fit fits

theorem Local.post (h : Local P W d s0 s) (fit : s0.listFits P W d) (cause : Cause) (target : Option Int)
    (allowed : P (.request (.automatic cause))) (writes : W ∨ target = none) : Local P W d s0 (s.post d cause target).1 := by
  refine h.postEntry fit ⟨allowed, writes.imp_right fun none => ?_⟩
  rw [none]
  trivial

theorem Local.postPreset (h : Local P W d s0 s) (fit : s0.listFits P W d) (v : Int) (allowed : P (.request .operator)) (writes : W) :
    Local P W d s0 (s.postPreset d v) :=
  h.postEntry fit ⟨allowed, .inl writes⟩

end

end Sys2Proof.Machine
end

section
/-! PROOFS. Work on the channels one after another, seen from one of them, and what the transmit queue does meanwhile: no notice leaves
it, and each operation adds a bounded number of frames (R75, R176). -/

namespace Sys2Proof.Machine

/-! ### One channel among those worked on -/

/-- Work on channels other than c, seen from c. -/
structure Aside (c : Channel) (s t : Part) : Prop where
  pinned : t.pinned = s.pinned
  relief : s.override.relief.blocks = false → t.override.relief.blocks = false
  entry : t.entryOf c = s.entryOf c
  motion : (s.motionOf c).Follows (t.motionOf c)

theorem Aside.refl (c : Channel) (s : Part) : Aside c s s := ⟨rfl, id, rfl, .refl _⟩

theorem Aside.trans {c : Channel} {s t u : Part} (h : Aside c s t) (k : Aside c t u) : Aside c s u :=
  ⟨k.pinned.trans h.pinned, k.relief ∘ h.relief, k.entry.trans h.entry, h.motion.trans k.motion⟩

theorem Local.aside {P : Owner → Prop} {W : Prop} {c d : Channel} {s t : Part} (h : Local P W d s t) (ne : d ≠ c) : Aside c s t :=
  ⟨h.pinned, h.relief, h.entries c ne.symm, h.motions c ne.symm⟩

theorem Aside.raise {c : Channel} {s0 s : Part} (h : Aside c s0 s) (e : Event) (d : Option Channel) (d8 d16 : Nat) :
    Aside c s0 (s.raise e d d8 d16) := by
  have raised : Local (fun _ => True) True (if c = .drum then .concave else .drum) s (s.raise e d d8 d16) := (Local.refl s).raise e d d8 d16
  exact h.trans (raised.aside (by cases c <;> decide))

theorem Aside.foldl_of_not_mem {c : Channel} {f : Part → Channel → Part} (step : ∀ s d, d ≠ c → Aside c s (f s d))
    {l : List Channel} (new : c ∉ l) (s : Part) : Aside c s (l.foldl f s) := by
  induction l generalizing s with
  | nil => exact .refl c s
  | cons d rest ih =>
    have ne : d ≠ c := fun e => new (e ▸ List.mem_cons_self)
    exact (step s d ne).trans (ih (fun m => new (List.mem_cons_of_mem _ m)) _)

/-- Work on every channel once, seen from one of them: work aside of it, its own, and work aside of it. -/
theorem Aside.foldl {c : Channel} {f : Part → Channel → Part} (step : ∀ s d, d ≠ c → Aside c s (f s d))
    {l : List Channel} (once : l.Nodup) (mem : c ∈ l) (s : Part) :
    ∃ u, Aside c s u ∧ Aside c (f u c) (l.foldl f s) := by
  obtain ⟨before, after, rfl⟩ := List.append_of_mem mem
  rw [List.nodup_append] at once
  obtain ⟨_, onceAfter, apart⟩ := once
  refine ⟨before.foldl f s, .foldl_of_not_mem step (fun m => apart c m c List.mem_cons_self rfl) s, ?_⟩
  rw [List.foldl_append, List.foldl_cons]
  exact .foldl_of_not_mem step (List.nodup_cons.1 onceAfter).1 _

theorem Aside.foldl_arrange {c : Channel} {f : Part → Channel → Part} (step : ∀ s d, d ≠ c → Aside c s (f s d)) (o : Order)
    (s : Part) : ∃ u, Aside c s u ∧ Aside c (f u c) ((arrange o.channels Channel.all).foldl f s) :=
  Aside.foldl step (arrange_nodup _ _ (by decide)) ((mem_arrange _ _ c).2 (Channel.mem_all c)) s

theorem Aside.owned {P : Owner → Prop} {c : Channel} {s t : Part} (h : Aside c s t) (owned : s.owned P c) : t.owned P c := by
  intro mv moves
  have same := h.motion.identity
  rw [moves, Option.map_some] at same
  obtain ⟨old, was, identity⟩ := Option.map_eq_some_iff.1 same.symm
  exact (congrArg (·.1) identity : old.owner = mv.owner) ▸ owned old was

theorem Aside.listFits {P : Owner → Prop} {W : Prop} {c : Channel} {s t : Part} (h : Aside c s t) (fit : s.listFits P W c) :
    t.listFits P W c := by
  rw [Part.listFits, h.entry]
  exact fit

/-! ### The transmit queue -/

theorem mem_evictOldestPeriodic {l r : List Frame} (gone : evictOldestPeriodic l = some r) {f : Frame} (mem : f ∈ l)
    (notice : f.body.periodic = false) : f ∈ r := by
  induction l generalizing r with
  | nil => exact absurd mem List.not_mem_nil
  | cons g rest ih =>
    unfold evictOldestPeriodic at gone
    split at gone
    case isTrue periodic =>
      obtain rfl := Option.some.inj gone
      exact (List.mem_cons.1 mem).resolve_left fun e => by simp [← e, notice] at periodic
    case isFalse =>
      obtain ⟨r', gone', rfl⟩ := Option.map_eq_some_iff.1 gone
      exact (List.mem_cons.1 mem).elim (fun e => e ▸ List.mem_cons_self) fun m => List.mem_cons_of_mem _ (ih gone' m)

theorem mem_evictBehindHead {l r : List Frame} (gone : evictBehindHead l = some r) {f : Frame} (mem : f ∈ l)
    (notice : f.body.periodic = false) : f ∈ r := by
  cases l with
  | nil => exact absurd mem List.not_mem_nil
  | cons head rest =>
    obtain ⟨r', gone', rfl⟩ := Option.map_eq_some_iff.1 gone
    exact (List.mem_cons.1 mem).elim (fun e => e ▸ List.mem_cons_self)
      fun m => List.mem_cons_of_mem _ (mem_evictOldestPeriodic gone' m notice)

/-- A frame queued leaves every notice in the queue, and makes the queue at most one frame longer, never shorter. -/
theorem Bus.push_queue (b : Bus) (f : Frame) : (∀ g ∈ b.queue, g.body.periodic = false → g ∈ (b.push f).queue)
    ∧ b.queue.length ≤ (b.push f).queue.length ∧ (b.push f).queue.length ≤ b.queue.length + 1 := by
  unfold Bus.push
  split
  · refine ⟨fun g mem _ => List.mem_append_left _ mem, ?_, ?_⟩ <;> simp
  · split
    · exact ⟨fun g mem _ => mem, Nat.le_refl _, Nat.le_succ _⟩
    · split
      · rename_i rest gone
        have shorter := evictBehindHead_length gone
        refine ⟨fun g mem notice => List.mem_append_left _ (mem_evictBehindHead gone mem notice), ?_, ?_⟩ <;> simp <;> omega
      · exact ⟨fun g mem _ => mem, Nat.le_refl _, Nat.le_succ _⟩

theorem Edit.queue {s t : Part} (e : Edit s t) :
    (∀ f ∈ s.bus.queue, f.body.periodic = false → f ∈ t.bus.queue) ∧ s.bus.queue.length ≤ t.bus.queue.length := by
  have same (h : t.bus.queue = s.bus.queue) :
      (∀ f ∈ s.bus.queue, f.body.periodic = false → f ∈ t.bus.queue) ∧ s.bus.queue.length ≤ t.bus.queue.length :=
    ⟨fun f mem _ => h ▸ mem, Nat.le_of_eq (congrArg _ h.symm)⟩
  cases e with
  | other _ live => exact same (congrArg (·.queue) live)
  | push f => exact ⟨(Bus.push_queue _ f).1, (Bus.push_queue _ f).2.1⟩
  | setpoint => exact same rfl
  | fanTarget => exact same rfl
  | requests => exact same rfl
  | slots => exact same rfl

/-- No notice leaves the queue, and it grows no shorter. -/
theorem Quiet.queue {s t : Part} (q : Quiet s t) :
    (∀ f ∈ s.bus.queue, f.body.periodic = false → f ∈ t.bus.queue) ∧ s.bus.queue.length ≤ t.bus.queue.length := by
  induction q with
  | refl => exact ⟨fun f mem _ => mem, Nat.le_refl _⟩
  | tail _ e ih => exact ⟨fun f mem notice => e.queue.1 f (ih.1 f mem notice) notice, ih.2.trans e.queue.2⟩

/-- An event once notified stays notified. -/
theorem Quiet.notified {s t : Part} (q : Quiet s t) {code : Event} {c : Option Channel} {d8 d16 window : Nat}
    (notified : s.notified code c d8 d16 window) : t.notified code c d8 d16 window := by
  obtain ⟨f, mem, overrun, body⟩ := notified
  exact ⟨f, q.queue.1 f mem (by rw [body]; rfl), overrun, body⟩

/-- An event raised into a queue that is not full is notified. -/
theorem raiseIn_notified (s : Part) (n : Nat) (code : Event) (c : Option Channel) (d8 d16 : Nat) (room : s.bus.queue.length < 24) :
    (s.raiseIn n code c d8 d16).notified code c d8 d16 n := by
  refine ⟨⟨s.cal.nodeAddress, .event code c d8 d16 s.bus.overrun (n % 65536)⟩, ?_, s.bus.overrun, rfl⟩
  have room' : s.bus.queue.length < queueCapacity := room
  simp [Part.raiseIn, Bus.admits, Bus.push, room']

/-! ### How many frames an operation queues -/

/-- The entries listed for all channels. -/
def Part.listed (s : Part) : Nat := (Channel.all.map fun c => (s.entryOf c).requests.length).sum

/-- The frames queued and those that the discarding of every list would add. -/
def Part.backlog (s : Part) : Nat := s.bus.queue.length + s.listed

theorem listed_modBook (s : Part) (d : Channel) (f : BookEntry → BookEntry) :
    (s.modBook d f).listed + (s.entryOf d).requests.length = s.listed + (f (s.entryOf d)).requests.length := by
  cases d <;> simp [Part.listed, Channel.all, entryOf_modBook] <;> omega

/-- Work that adds at most k frames, an entry taken off a list paying for the one of its outcome. -/
def Sends (k : Nat) (s t : Part) : Prop := t.backlog ≤ s.backlog + k

section

variable {k : Nat} {s0 s t : Part}

theorem Sends.refl (s : Part) : Sends 0 s s := Nat.le_refl _

theorem Sends.le {k' : Nat} (h : Sends k s0 s) (le : k ≤ k') : Sends k' s0 s := Nat.le_trans h (Nat.add_le_add_left le _)

/-- A change of neither the queue nor a list. -/
theorem Sends.other (h : Sends k s0 s) (queue : t.bus.queue = s.bus.queue) (book : t.book = s.book) : Sends k s0 t := by
  have same : t.backlog = s.backlog := by
    unfold Part.backlog Part.listed Part.entryOf
    rw [queue, book]
  unfold Sends
  rw [same]
  exact h

theorem Sends.push (h : Sends k s0 s) (queue : t.bus.queue.length ≤ s.bus.queue.length + 1) (book : t.book = s.book) :
    Sends (k + 1) s0 t := by
  have same : t.listed = s.listed := by
    unfold Part.listed Part.entryOf
    rw [book]
  unfold Sends Part.backlog at *
  omega

theorem Sends.send (h : Sends k s0 s) (b : FrameBody) : Sends (k + 1) s0 (s.send b) := h.push (Bus.push_queue _ _).2.2 rfl

theorem Sends.raise (h : Sends k s0 s) (e : Event) (c : Option Channel) (d8 d16 : Nat) : Sends (k + 1) s0 (s.raise e c d8 d16) := by
  have sent := h.send (.event e c d8 d16 s.bus.overrun (s.window.number % 65536))
  unfold Part.raise Part.raiseIn
  dsimp only
  split
  · exact sent.other rfl rfl
  · exact sent

theorem Sends.modBook (h : Sends k s0 s) (d : Channel) (f : BookEntry → BookEntry) (list : ∀ e, (f e).requests = e.requests) :
    Sends k s0 (s.modBook d f) := by
  have same := listed_modBook s d f
  rw [list] at same
  have queue : (s.modBook d f).bus = s.bus := rfl
  unfold Sends Part.backlog at *
  rw [queue]
  omega

theorem Sends.drives (h : Sends k s0 s) (drives : Drives s t) : Sends k s0 t := by
  obtain ⟨_, _, _, _, rfl⟩ := drives
  exact h.other rfl rfl

theorem Sends.announceRestrain (h : Sends k s0 s) (before : RestrainFace × Nat) : Sends (k + 1) s0 (s.announceRestrain before) := by
  unfold Part.announceRestrain Part.sendRestrain
  split
  · exact (h.send _).other rfl rfl
  · exact h.le (Nat.le_succ _)

theorem Sends.disarm (h : Sends k s0 s) : Sends (k + 1) s0 s.disarm := by
  unfold Part.disarm
  extract_lets before wasOpen t
  have ht : Sends k s0 t := h.other rfl rfl
  split
  · exact (ht.other (t := t.setRestrain (.restrained .load 0)) rfl rfl).announceRestrain _
  · exact ht.le (Nat.le_succ _)

theorem Sends.judgeRelief (h : Sends k s0 s) : Sends (k + 1) s0 s.judgeRelief := by
  unfold Part.judgeRelief
  split
  · split
    · exact h.le (Nat.le_succ _)
    · exact h.disarm
  · split
    · exact Sends.le (h.other (by simp) (by simp)) (Nat.le_succ _)
    · exact h.le (Nat.le_succ _)

theorem Sends.recordOutcome (h : Sends k s0 s) (c : Channel) (o : OutcomeCode) (owner : Owner) (tag : Option Byte) :
    Sends (k + 1) s0 (s.recordOutcome c o owner tag) :=
  (h.modBook c (fun e => { e with last := some ⟨o, owner, s.window.number⟩ }) fun _ => rfl).raise _ _ _ _

theorem Sends.stopJogTimer (h : Sends k s0 s) (c : Channel) : Sends k s0 (s.stopJogTimer c) := by
  unfold Part.stopJogTimer
  split
  · exact h
  · exact h.other rfl rfl

theorem Sends.stopJogTimerOf (h : Sends k s0 s) (c : Channel) (m : Move) : Sends k s0 (s.stopJogTimerOf c m) := by
  unfold Part.stopJogTimerOf
  split
  · exact h.stopJogTimer c
  · exact h

theorem Sends.endEntries (c : Channel) (o : OutcomeCode) (l : List Entry) : ∀ {k : Nat} {s : Part}, Sends k s0 s →
    Sends (k + l.length) s0 (l.foldl (fun s e => s.endEntry c o e) s) := by
  induction l with
  | nil => exact fun h => h
  | cons e rest ih =>
    intro k s h
    have one : Sends (k + 1) s0 (s.endEntry c o e) := by
      unfold Part.endEntry
      refine Sends.recordOutcome ?_ c o _ _
      split
      · exact h.stopJogTimer c
      · exact h
    exact (ih one).le (by simp only [List.length_cons]; omega)

/-- The frames of discarded entries are those that the entries stood for. -/
theorem Sends.discardEntries (h : Sends k s0 s) (c : Channel) (o : OutcomeCode) (gone : Entry → Bool) :
    Sends k s0 (s.discardEntries c o gone) := by
  unfold Part.discardEntries
  extract_lets listed t
  have fewer : t.backlog + (listed.filter gone).length ≤ s.backlog := by
    have same := listed_modBook s c fun e => { e with requests := listed.filter (!gone ·) }
    have split : listed.length = (listed.filter gone).length + (listed.filter (!gone ·)).length := by
      rw [← List.countP_eq_length_filter, ← List.countP_eq_length_filter, List.length_eq_countP_add_countP gone]
      simp
    have queue : t.bus = s.bus := rfl
    unfold Part.backlog
    rw [queue]
    dsimp only at same
    change t.listed + listed.length = s.listed + _ at same
    omega
  have ended := Sends.endEntries c o (listed.filter gone) (Sends.refl t)
  unfold Sends at *
  omega

/-- The frames that an abort on a channel can add: an outcome and a fault, on CONCAVE a RESTRAIN_NOTICE too. -/
def abortFrames (c : Channel) : Nat := if c = .concave then 3 else 2

theorem Sends.fault (h : Sends k s0 s) (c : Channel) (cause : FaultCause) (ending : Option OutcomeCode) :
    Sends (k + abortFrames c) s0 (s.fault c cause ending) := by
  unfold Part.fault
  extract_lets held t1 t2 t3 t4
  have h2 : Sends (k + 1) s0 t2 := (h.other (t := t1) rfl rfl).raise _ _ _ _
  have h3 : Sends (k + 2) s0 t3 := by
    show Sends (k + 2) s0 (match (s.motionOf c).move, ending with
      | some mv, some o => (t2.stopJogTimerOf c mv).recordOutcome c o mv.owner mv.tag
      | _, _ => t2)
    split
    · exact (h2.stopJogTimerOf c _).recordOutcome c _ _ _
    · exact h2.le (Nat.le_succ _)
  have h4 : Sends (k + 2) s0 t4 := h3.discardEntries c .faulted _
  unfold abortFrames
  split
  · exact h4.judgeRelief
  · exact h4

theorem Sends.endMove (h : Sends k s0 s) (c : Channel) : Sends (k + 1) s0 (s.endMove c .aborted) := by
  unfold Part.endMove Part.reliefOutcome
  split
  · exact h.le (Nat.le_succ _)
  · exact (Sends.stopJogTimerOf (h.other (t := s.modMotion c _) rfl rfl) c _).recordOutcome c _ _ _

theorem Sends.abort (h : Sends k s0 s) (c : Channel) : Sends (k + abortFrames c) s0 (s.abort c .aborted) := by
  have enough : k + 1 ≤ k + abortFrames c := by unfold abortFrames; split <;> omega
  have atRest : Sends (k + abortFrames c) s0 (s.comeToRest c (some .aborted)) := by
    unfold Part.comeToRest
    split
    · exact h.fault c _ _
    · exact Sends.le (Sends.endMove (h.other (t := s.modMotion c _) rfl rfl) c) enough
  unfold Part.abort
  split
  · exact h.le (Nat.le_add_right _ _)
  · split
    · refine Sends.le (Sends.recordOutcome (Sends.stopJogTimerOf ?_ c _) c _ _ _) enough
      exact Sends.drives h ((((Drives.refl s).driveOff c .workLeft).modMotion c _).regrant)
    · exact Sends.le (Sends.recordOutcome (Sends.stopJogTimerOf (h.other (t := s.modMotion c _) rfl rfl) c _) c _ _ _) enough
    all_goals exact atRest

end

/-- Work on channels one after another. -/
theorem Sends.foldl {f : Part → Channel → Part} {g : Channel → Nat} (step : ∀ k (s0 s : Part) c, Sends k s0 s → Sends (k + g c) s0 (f s c))
    (l : List Channel) : ∀ {k : Nat} {s0 s : Part}, Sends k s0 s → Sends (k + (l.map g).sum) s0 (l.foldl f s) := by
  induction l with
  | nil => exact fun h => h
  | cons c rest ih =>
    intro k s0 s h
    exact (ih (step k s0 s c h)).le (by simp only [List.map_cons, List.sum_cons]; omega)

theorem sum_arrange (o : Order) (g : Channel → Nat) :
    ((arrange o.channels Channel.all).map g).sum = (Channel.all.map g).sum := by
  refine List.Perm.sum_eq (List.Perm.map g ?_)
  exact (List.perm_ext_iff_of_nodup (arrange_nodup _ _ (by decide)) (by decide)).2 fun c => mem_arrange _ _ c

theorem Sends.abortMoves {k : Nat} {s0 s : Part} (h : Sends k s0 s) (o : Order) (which : Owner → Bool) :
    Sends (k + 13) s0 (s.abortMoves o which) := by
  have folded := Sends.foldl (f := fun (s : Part) c => match (s.motionOf c).move with
    | some mv => if which mv.owner then s.abort c .aborted else s
    | none => s) (g := abortFrames) (fun k s0 s c h => ?_) (arrange o.channels Channel.all) h
  · rw [sum_arrange] at folded
    exact folded
  · split
    · split
      · exact h.abort c
      · exact h.le (Nat.le_add_right _ _)
    · exact h.le (Nat.le_add_right _ _)

theorem Sends.abortEntries {k : Nat} {s0 s : Part} (h : Sends k s0 s) (o : Order) (which : Requester → Bool) :
    Sends k s0 (s.abortEntries o which) := by
  have folded := Sends.foldl (f := fun (s : Part) c => s.discardEntries c .aborted fun e => which e.requester) (g := fun _ => 0)
    (fun k s0 s c h => h.discardEntries c .aborted _) (arrange o.channels Channel.all) h
  rw [sum_arrange] at folded
  exact folded

end Sys2Proof.Machine
end

section
/-! PROOFS. What an end of service mode does to one channel: its SERVICE hold goes, its SERVICE move ends ABORTED, then the SERVICE
entries of its list, and the take rule runs on what is left (R81). -/

namespace Sys2Proof.Machine

/-! ### What an outcome, an abort and a discard write in the entry of their channel -/

theorem entryOf_of_book {s t : Part} (h : t.book = s.book) (c : Channel) : t.entryOf c = s.entryOf c := congrArg (·.get c) h

theorem motionOf_of_motion {s t : Part} (h : t.motion = s.motion) (c : Channel) : t.motionOf c = s.motionOf c := congrArg (·.get c) h

theorem number_of_pinned {s t : Part} (h : t.pinned = s.pinned) : t.window.number = s.window.number :=
  congrArg (·.window.number) h

theorem entryOf_recordOutcome (s : Part) (c : Channel) (o : OutcomeCode) (owner : Owner) (tag : Option Byte) :
    (s.recordOutcome c o owner tag).entryOf c = { s.entryOf c with last := some ⟨o, owner, s.window.number⟩ } := by
  unfold Part.recordOutcome
  have raised (t : Part) (e : Event) (d : Option Channel) (d8 d16 : Nat) : (t.raise e d d8 d16).entryOf c = t.entryOf c :=
    entryOf_of_book (by simp) c
  rw [raised, entryOf_modBook_self]

theorem entryOf_stopJogTimer (s : Part) (c d : Channel) : (s.stopJogTimer c).entryOf d = s.entryOf d := by
  unfold Part.stopJogTimer
  split <;> rfl

theorem entryOf_stopJogTimerOf (s : Part) (c d : Channel) (m : Move) : (s.stopJogTimerOf c m).entryOf d = s.entryOf d := by
  unfold Part.stopJogTimerOf
  split
  · exact entryOf_stopJogTimer s c d
  · rfl

theorem number_stopJogTimerOf (s : Part) (c : Channel) (m : Move) : (s.stopJogTimerOf c m).window.number = s.window.number := by
  unfold Part.stopJogTimerOf Part.stopJogTimer
  split
  · split <;> rfl
  · rfl

theorem book_disarm (s : Part) : s.disarm.book = s.book ∧ s.disarm.motion = s.motion := by
  unfold Part.disarm
  extract_lets before wasOpen t
  split
  · simp [t]
  · exact ⟨rfl, rfl⟩

theorem entryOf_judgeRelief (s : Part) (c : Channel) : s.judgeRelief.entryOf c = s.entryOf c := by
  unfold Part.judgeRelief
  split
  · split
    · rfl
    · exact entryOf_of_book (book_disarm s).1 c
  · split
    · exact entryOf_of_book (by simp) c
    · rfl

theorem entryOf_endEntry (s : Part) (c : Channel) (o : OutcomeCode) (e : Entry) :
    (s.endEntry c o e).entryOf c = { s.entryOf c with last := some ⟨o, .request e.requester, s.window.number⟩ } := by
  unfold Part.endEntry
  rw [entryOf_recordOutcome]
  split
  · rw [entryOf_stopJogTimer]
    unfold Part.stopJogTimer
    split <;> rfl
  · rfl

/-- The outcome that the entries of a list leave, ended in turn. -/
theorem entryOf_endEntries (c : Channel) (o : OutcomeCode) (r : Requester) (l : List Entry) (all : ∀ e ∈ l, e.requester = r) (s : Part) :
    (l.foldl (fun s e => s.endEntry c o e) s).entryOf c =
      if l = [] then s.entryOf c else { s.entryOf c with last := some ⟨o, .request r, s.window.number⟩ } := by
  induction l generalizing s with
  | nil => rfl
  | cons e rest ih =>
    have number : (s.endEntry c o e).window.number = s.window.number :=
      number_of_pinned ((Local.refl (P := fun _ => True) (W := True) s).endEntry o e).pinned
    have rest' := ih (fun x hx => all x (List.mem_cons_of_mem _ hx)) (s.endEntry c o e)
    rw [List.foldl_cons, rest', if_neg (List.cons_ne_nil e rest), entryOf_endEntry, number, all e List.mem_cons_self]
    split <;> rfl

theorem motionOf_endEntries (c d : Channel) (o : OutcomeCode) (l : List Entry) (s : Part) :
    (l.foldl (fun s e => s.endEntry c o e) s).motionOf d = s.motionOf d := by
  induction l generalizing s with
  | nil => rfl
  | cons e rest ih =>
    have one : (s.endEntry c o e).motion = s.motion := by
      unfold Part.endEntry Part.recordOutcome Part.stopJogTimer
      split
      · split <;> simp
      · simp
    exact (ih _).trans (motionOf_of_motion one d)

theorem motionOf_discardEntries (s : Part) (c d : Channel) (o : OutcomeCode) (gone : Entry → Bool) :
    (s.discardEntries c o gone).motionOf d = s.motionOf d := motionOf_endEntries c d o _ _

/-- Entries of one requester discarded from a list of nothing else. -/
theorem entryOf_discardEntries_all (s : Part) (c : Channel) (o : OutcomeCode) (r : Requester) (gone : Entry → Bool)
    (all : ∀ e ∈ (s.entryOf c).requests, e.requester = r ∧ gone e = true) :
    (s.discardEntries c o gone).entryOf c =
      if (s.entryOf c).requests = [] then s.entryOf c
      else { s.entryOf c with requests := [], last := some ⟨o, .request r, s.window.number⟩ } := by
  have left : (s.entryOf c).requests.filter (!gone ·) = [] := List.filter_eq_nil_iff.2 fun e he => by simp [(all e he).2]
  have taken : (s.entryOf c).requests.filter gone = (s.entryOf c).requests := List.filter_eq_self.2 fun e he => (all e he).2
  unfold Part.discardEntries
  dsimp only
  rw [left, taken, entryOf_endEntries c o r _ fun e he => (all e he).1]
  split
  case isTrue nil =>
    rw [entryOf_modBook_self, ← nil]
  case isFalse => rw [entryOf_modBook_self]; rfl

/-- No requester is left in a list from which its entries are discarded. -/
theorem discardEntries_requests (s : Part) (c : Channel) (o : OutcomeCode) (gone : Entry → Bool) :
    ((s.discardEntries c o gone).entryOf c).requests = (s.entryOf c).requests.filter (!gone ·) := by
  have kept (l : List Entry) : ∀ t : Part, ((l.foldl (fun s e => s.endEntry c o e) t).entryOf c).requests = (t.entryOf c).requests := by
    induction l with
    | nil => exact fun _ => rfl
    | cons e rest ih =>
      intro t
      rw [List.foldl_cons, ih, entryOf_endEntry]
  unfold Part.discardEntries
  dsimp only
  rw [kept, entryOf_modBook_self]

/-! ### An abort -/

theorem motion_recordOutcome (s : Part) (c : Channel) (o : OutcomeCode) (owner : Owner) (tag : Option Byte) :
    (s.recordOutcome c o owner tag).motion = s.motion := by
  unfold Part.recordOutcome
  simp

theorem motion_stopJogTimerOf (s : Part) (c : Channel) (m : Move) : (s.stopJogTimerOf c m).motion = s.motion := by
  unfold Part.stopJogTimerOf Part.stopJogTimer
  split
  · split <;> rfl
  · rfl

theorem motion_reliefOutcome (s : Part) (k : MoveKind) (o : OutcomeCode) : (s.reliefOutcome k o).motion = s.motion := by
  unfold Part.reliefOutcome
  extract_lets code
  split <;> simp +zetaDelta

theorem motion_judgeRelief (s : Part) : s.judgeRelief.motion = s.motion := by
  unfold Part.judgeRelief
  split
  · split
    · rfl
    · exact (book_disarm s).2
  · split
    · simp
    · rfl

theorem endMove_move (s : Part) (c : Channel) (o : OutcomeCode) : ((s.endMove c o).motionOf c).move = none := by
  unfold Part.endMove
  split
  · assumption
  · rw [motionOf_of_motion (motion_reliefOutcome _ _ _), motionOf_of_motion (motion_recordOutcome _ _ _ _ _),
      motionOf_of_motion (motion_stopJogTimerOf _ _ _), motionOf_modMotion_self]

theorem fault_move (s : Part) (c : Channel) (cause : FaultCause) (ending : Option OutcomeCode) :
    ((s.fault c cause ending).motionOf c).move = none := by
  unfold Part.fault
  extract_lets held t1 t2 t3 t4
  have h2 : (t2.motionOf c).move = none := by
    rw [motionOf_of_motion (s := t1) (by simp [t2]), motionOf_modMotion_self]
  have h3 : (t3.motionOf c).move = none := by
    show (Part.motionOf (match (s.motionOf c).move, ending with
      | some mv, some o => (t2.stopJogTimerOf c mv).recordOutcome c o mv.owner mv.tag
      | _, _ => t2) c).move = none
    split
    · rw [motionOf_of_motion (motion_recordOutcome _ _ _ _ _), motionOf_of_motion (motion_stopJogTimerOf _ _ _), h2]
    · exact h2
  have h4 : (t4.motionOf c).move = none := by rw [motionOf_discardEntries, h3]
  split
  · rw [motionOf_of_motion (motion_judgeRelief _), h4]
  · exact h4

theorem comeToRest_move (s : Part) (c : Channel) (ending : Option OutcomeCode) : ((s.comeToRest c ending).motionOf c).move = none := by
  unfold Part.comeToRest
  split
  · exact fault_move s c _ _
  · exact endMove_move _ c _

theorem abort_move (s : Part) (c : Channel) (o : OutcomeCode) : ((s.abort c o).motionOf c).move = none := by
  unfold Part.abort
  split
  · assumption
  case h_2 mv moves =>
    split
    · rw [motionOf_of_motion (motion_recordOutcome _ _ _ _ _), motionOf_of_motion (motion_stopJogTimerOf _ _ _)]
      have gone := (regrant_follows ((s.driveOff c .workLeft).modMotion c fun m => { m with move := none, coastShifts := mv.bearing }) c).identity
      rw [motionOf_modMotion_self] at gone
      exact Option.map_eq_none_iff.1 gone
    · rw [motionOf_of_motion (motion_recordOutcome _ _ _ _ _), motionOf_of_motion (motion_stopJogTimerOf _ _ _), motionOf_modMotion_self]
    all_goals exact comeToRest_move s c _

/-- The entry of its channel after an abort that faults it not, or with nothing listed. -/
theorem abort_entry {s : Part} {c : Channel} {mv : Move} (moves : (s.motionOf c).move = some mv)
    (calm : (s.motionOf c).standing = none ∨ (s.entryOf c).requests = []) :
    (s.abort c .aborted).entryOf c = { s.entryOf c with last := some ⟨.aborted, mv.owner, s.window.number⟩ } := by
  have recorded (t : Part) (book : t.book = s.book) (number : t.window.number = s.window.number) :
      ((t.stopJogTimerOf c mv).recordOutcome c .aborted mv.owner mv.tag).entryOf c =
        { s.entryOf c with last := some ⟨.aborted, mv.owner, s.window.number⟩ } := by
    rw [entryOf_recordOutcome, entryOf_stopJogTimerOf, number_stopJogTimerOf, entryOf_of_book book, number]
  have atRest : (s.comeToRest c (some .aborted)).entryOf c =
      { s.entryOf c with last := some ⟨.aborted, mv.owner, s.window.number⟩ } := by
    unfold Part.comeToRest
    split
    case h_1 cause stands =>
      have none : (s.entryOf c).requests = [] := calm.resolve_left (by simp [stands])
      unfold Part.fault
      extract_lets held t1 t2 t3 t4
      have h3 : t3.entryOf c = { s.entryOf c with last := some ⟨.aborted, mv.owner, s.window.number⟩ } := by
        have same : t3 = (t2.stopJogTimerOf c mv).recordOutcome c .aborted mv.owner mv.tag := by
          simp only [t3, held, moves]
        rw [same]
        exact recorded t2 (by simp [t2, t1]) (by simp [t2, t1])
      have h4 : t4.entryOf c = t3.entryOf c := by
        rw [show t4 = t3.discardEntries c .faulted fun _ => true from rfl,
          entryOf_discardEntries_all t3 c .faulted .operator _ (by simp [h3, none]), if_pos (by simp [h3, none])]
      split
      · rw [entryOf_judgeRelief, h4, h3]
      · rw [h4, h3]
    · have moves' : ((s.modMotion c fun m => { m with phase := .idle, coastShifts := false }).motionOf c).move = some mv := by
        rw [motionOf_modMotion_self]
        exact moves
      unfold Part.endMove
      rw [moves']
      exact recorded _ rfl rfl
  unfold Part.abort
  rw [moves]
  dsimp only
  split
  · have drives := ((Drives.refl s).driveOff c .workLeft).modMotion c fun m => { m with move := none, coastShifts := mv.bearing }
    obtain ⟨_, _, _, _, same⟩ := drives.regrant
    exact recorded _ (by rw [same]) (by rw [same])
  · exact recorded _ rfl rfl
  all_goals exact atRest

end Sys2Proof.Machine
end

section
/-! PROOFS. Ground speed (R9, R17, R81, R174): the harvesting condition judged at its changes, and service mode ended channel by
channel. -/

namespace Sys2Proof.Machine

/-! ### The harvesting condition -/

/-- What the harvesting condition judged again writes. -/
theorem judgeHarvesting_writes (s : Part) : ∃ (notHarvesting : Bool) (fanOffset fanTarget : Int),
    s.judgeHarvesting true = { s with
      harvesting := s.harvestingHolds, fanOffset := fanOffset, fanTarget := fanTarget
      window := { s.window with marks := { s.window.marks with notHarvesting := notHarvesting } } }
    ∧ (s.harvesting = true → s.harvestingHolds = false → notHarvesting = true ∧ fanOffset = 0) := by
  unfold Part.judgeHarvesting
  dsimp only
  split
  case isTrue ends =>
    obtain ⟨_, gone⟩ := ends
    refine ⟨true, 0, s.clampToEnvelope .fan ((s.entryOf .fan).setpoint + 0), ?_, fun _ _ => ⟨rfl, rfl⟩⟩
    rw [gone]
    rfl
  case isFalse stays =>
    exact ⟨s.window.marks.notHarvesting, s.fanOffset, s.fanTarget, rfl, fun harvested gone => absurd ⟨harvested, gone⟩ stays⟩

/-! ### Service mode ended -/

/-- The part out of service mode, without a SERVICE hold. -/
def Part.unserved (s : Part) : Part := ({ s with service := false } : Part).removeHolds .service

/-- The SERVICE move of a channel aborted. -/
def Part.abortServiceMove (s : Part) (c : Channel) : Part :=
  match (s.motionOf c).move with
  | some mv => if mv.owner = .request .service then s.abort c .aborted else s
  | none => s

/-- The SERVICE entries of a channel discarded. -/
def Part.dropServiceEntries (s : Part) (c : Channel) : Part := s.discardEntries c .aborted fun e => e.requester = .service

/-- The holds of one holder removed: each entry is as it was but for a hold, which is of another. -/
theorem entryOf_removeHolds (s : Part) (who : Holder) (c : Channel) : ∃ hold : Option Hold,
    (s.removeHolds who).entryOf c = { s.entryOf c with hold := hold } ∧ ∀ k, hold = some k → k.holder ≠ who := by
  unfold Part.removeHolds
  rw [Part.entryOf, PerChannel.get_build]
  dsimp only
  split
  case h_1 k held =>
    split
    case isTrue => exact ⟨none, rfl, fun _ some => nomatch some⟩
    case isFalse other => exact ⟨some k, by rw [← held], fun k' same => Option.some.inj same ▸ other⟩
  case h_2 free => exact ⟨none, by rw [← free], fun _ some => nomatch some⟩

theorem entryOf_unserved (s : Part) (c : Channel) : ∃ hold : Option Hold,
    s.unserved.entryOf c = { s.entryOf c with hold := hold } ∧ ∀ k, hold = some k → k.holder = .operator := by
  obtain ⟨hold, entry, other⟩ := entryOf_removeHolds { s with service := false } .service c
  refine ⟨hold, entry, fun k held => ?_⟩
  have service := other k held
  cases holder : k.holder with
  | operator => rfl
  | service => exact absurd holder service

/-- The owners that an end of service mode leaves. -/
def NotService (w : Owner) : Prop := w ≠ .request .service

theorem Local.abortServiceMove (P : Owner → Prop) (W : Prop) (s : Part) (c : Channel) : Local P W c s (s.abortServiceMove c) := by
  unfold Part.abortServiceMove
  split
  · split
    · exact (Local.refl s).abort _
    · exact .refl s
  · exact .refl s

theorem abortMoves_service (s : Part) (o : Order) : s.abortMoves o (fun w => w = .request .service) =
    (arrange o.channels Channel.all).foldl Part.abortServiceMove s := by
  unfold Part.abortMoves
  congr 1
  funext t c
  unfold Part.abortServiceMove
  split <;> simp [*]

theorem abortServiceMove_owned (s : Part) (c : Channel) : (s.abortServiceMove c).owned NotService c := by
  unfold Part.abortServiceMove
  split
  case h_1 mv moves =>
    split
    case isTrue =>
      intro mv' moves'
      rw [abort_move] at moves'
      cases moves'
    case isFalse other =>
      intro mv' moves'
      rw [moves] at moves'
      cases moves'
      exact other
  case h_2 none =>
    intro mv moves
    rw [none] at moves
    cases moves

theorem dropServiceEntries_fit (s : Part) (c : Channel) : (s.dropServiceEntries c).listFits NotService True c := by
  intro e mem
  unfold Part.dropServiceEntries at mem
  rw [discardEntries_requests] at mem
  have other : ¬e.requester = .service := by simpa using (List.mem_filter.1 mem).2
  exact ⟨fun owns => other (Owner.request.inj owns), .inl trivial⟩

theorem Local.dropServiceEntries (P : Owner → Prop) (W : Prop) (s : Part) (c : Channel) : Local P W c s (s.dropServiceEntries c) :=
  (Local.refl s).discardEntries _ _

/-- Any work on one channel, whoever owns what. -/
theorem Aside.take {s : Part} {c d : Channel} (ne : d ≠ c) : Aside c s (s.take d) :=
  ((Local.refl (P := fun _ => True) (W := True) s).take fun _ _ => ⟨trivial, .inl trivial⟩).aside ne

/-- An end of service mode, seen from one channel. -/
theorem endService_channel {s : Part} (on : s.service = true) (o : Order) (reason : Nat) (c : Channel) : ∃ u v x : Part,
    Aside c s.unserved u ∧ Aside c (u.abortServiceMove c) v ∧ Aside c (v.dropServiceEntries c) x
      ∧ Aside c (x.take c) (s.endService o reason) := by
  let aborted : Part := (arrange o.channels Channel.all).foldl Part.abortServiceMove s.unserved
  let discarded : Part := (arrange o.channels Channel.all).foldl Part.dropServiceEntries aborted
  have ended : s.endService o reason = (discarded.raise .serviceEnded none reason 0).takeAll o := by
    unfold Part.endService
    rw [if_pos on]
    show (((s.unserved.abortMoves o fun w => w = .request .service).abortEntries o fun r => r = .service).raise _ _ _ _).takeAll o = _
    rw [abortMoves_service]
    rfl
  obtain ⟨u, beforeU, afterU⟩ := Aside.foldl_arrange (c := c)
    (fun s d ne => (Local.abortServiceMove (fun _ => True) True s d).aside ne) o s.unserved
  obtain ⟨v, beforeV, afterV⟩ := Aside.foldl_arrange (c := c)
    (fun s d ne => (Local.dropServiceEntries (fun _ => True) True s d).aside ne) o aborted
  obtain ⟨x, beforeX, afterX⟩ := Aside.foldl_arrange (c := c) (f := fun s d => s.take d) (fun s d ne => Aside.take ne) o
    (discarded.raise .serviceEnded none reason 0)
  rw [ended]
  exact ⟨u, v, x, beforeU, afterU.trans beforeV, (afterV.raise _ _ _ _).trans beforeX, afterX⟩

/-! ### The take rule where it takes nothing -/

theorem take_of_nil {s : Part} {c : Channel} (none : (s.entryOf c).requests = []) : s.take c = s := by
  unfold Part.take
  rw [none]
  rfl

theorem take_of_moving {s : Part} {c : Channel} (moving : (s.motionOf c).phase ∈ [.waiting, .driving, .coasting]) : s.take c = s := by
  have busy (k : RequestKind) : s.freeFor c k = false := by
    unfold Part.freeFor Part.isFaulted
    rcases List.mem_cons.1 moving with phase | rest
    · simp [phase]
    · rcases List.mem_cons.1 rest with phase | last
      · simp [phase]
      · simp [List.mem_singleton.1 last]
  unfold Part.take
  cases length : (s.entryOf c).requests.length with
  | zero => rfl
  | succ n =>
    unfold Part.takeUpTo
    split
    · rfl
    · rw [busy]
      simp

theorem Motion.Follows.moving {m m' : Motion} (h : m.Follows m') (moving : m.phase ∈ [.waiting, .driving, .coasting]) :
    m'.phase ∈ [.waiting, .driving, .coasting] := by
  by_cases waits : m.phase = .waiting
  · exact h.phase waits
  · rw [h.untouched waits]
    exact moving

/-- A move that follows another is the same move further on. -/
theorem Motion.Follows.move {m m' : Motion} (h : m.Follows m') {mv : Move} (moves : m.move = some mv) :
    ∃ mv', m'.move = some mv' ∧ mv'.owner = mv.owner ∧ mv'.kind = mv.kind ∧ mv'.target = mv.target ∧ mv'.tag = mv.tag := by
  have same := h.identity
  rw [moves, Option.map_some] at same
  obtain ⟨mv', moves', identity⟩ := Option.map_eq_some_iff.1 same
  simp only [Move.identity, Prod.mk.injEq] at identity
  exact ⟨mv', moves', identity⟩

/-! ### What is left of service mode, and what is not touched -/

section

variable {s : Part} (on : s.service = true) (o : Order) (reason : Nat)
include on

theorem endService_pinned : (s.endService o reason).pinned = { s.pinned with service := false } := by
  obtain ⟨u, v, x, su, uv, vx, xt⟩ := endService_channel on o reason .drum
  have first : (u.abortServiceMove .drum).pinned = u.pinned := (Local.abortServiceMove (fun _ => True) True u .drum).pinned
  have second : (v.dropServiceEntries .drum).pinned = v.pinned := (Local.dropServiceEntries (fun _ => True) True v .drum).pinned
  have third : (x.take .drum).pinned = x.pinned :=
    ((Local.refl (P := fun _ => True) (W := True) x).take fun _ _ => ⟨trivial, .inl trivial⟩).pinned
  rw [xt.pinned, third, vx.pinned, second, uv.pinned, first, su.pinned]
  rfl

theorem endService_hold (c : Channel) {k : Hold} (held : ((s.endService o reason).entryOf c).hold = some k) :
    k.holder = .operator := by
  obtain ⟨u, v, x, su, uv, vx, xt⟩ := endService_channel on o reason c
  obtain ⟨hold, entry, operator⟩ := entryOf_unserved s c
  have third : ((x.take c).entryOf c).hold = (x.entryOf c).hold :=
    ((Local.refl (P := fun _ => True) (W := True) x).take fun _ _ => ⟨trivial, .inl trivial⟩).hold
  rw [xt.entry, third, vx.entry, (Local.dropServiceEntries (fun _ => True) True v c).hold, uv.entry,
    (Local.abortServiceMove (fun _ => True) True u c).hold, su.entry, entry] at held
  exact operator k held

/-- After the take rule, neither the move of a channel nor an entry of its list is of SERVICE. -/
theorem endService_leaves (c : Channel) :
    (s.endService o reason).owned NotService c ∧ (s.endService o reason).listFits NotService True c := by
  obtain ⟨u, v, x, su, uv, vx, xt⟩ := endService_channel on o reason c
  have owned : x.owned NotService c :=
    vx.owned ((Local.dropServiceEntries NotService True v c).owners (uv.owned (abortServiceMove_owned u c)))
  have fit : x.listFits NotService True c := vx.listFits (dropServiceEntries_fit v c)
  have taken : Local NotService True c x (x.take c) := (Local.refl x).take fit
  exact ⟨xt.owned (taken.owners owned), xt.listFits (taken.lists fit)⟩

/-- A SERVICE move on a channel with nothing listed ends ABORTED. -/
theorem endService_aborts_move {c : Channel} {mv : Move} (moves : (s.motionOf c).move = some mv)
    (service : mv.owner = .request .service) (none : (s.entryOf c).requests = []) :
    ((s.endService o reason).motionOf c).move = .none
      ∧ ((s.endService o reason).entryOf c).last = some ⟨.aborted, mv.owner, s.window.number⟩ := by
  obtain ⟨u, v, x, su, uv, vx, xt⟩ := endService_channel on o reason c
  obtain ⟨hold, entry, _⟩ := entryOf_unserved s c
  obtain ⟨mv', moves', owner, _⟩ := su.motion.move moves
  have stepped : u.abortServiceMove c = u.abort c .aborted := by
    unfold Part.abortServiceMove
    rw [moves']
    exact if_pos (owner.trans service)
  have noneU : (u.entryOf c).requests = [] := by rw [su.entry, entry, none]
  have number : u.window.number = s.window.number := number_of_pinned (s := s.unserved) su.pinned
  have entryV : v.entryOf c = { u.entryOf c with last := some ⟨.aborted, mv.owner, s.window.number⟩ } := by
    rw [uv.entry, stepped, abort_entry moves' (.inr noneU), owner, number]
  have dropped : (v.dropServiceEntries c).entryOf c = v.entryOf c := by
    unfold Part.dropServiceEntries
    rw [entryOf_discardEntries_all v c .aborted .service _ (by simp [entryV, noneU]), if_pos (by simp [entryV, noneU])]
  have entryX : x.entryOf c = v.entryOf c := vx.entry.trans dropped
  have untaken : x.take c = x := take_of_nil (by rw [entryX, entryV, noneU])
  rw [untaken] at xt
  have moveV : (v.motionOf c).move = .none := by
    have gone := uv.motion.identity
    rw [stepped, abort_move] at gone
    exact Option.map_eq_none_iff.1 gone
  have moveT := (vx.motion.trans xt.motion).identity
  unfold Part.dropServiceEntries at moveT
  rw [motionOf_discardEntries, moveV] at moveT
  exact ⟨Option.map_eq_none_iff.1 moveT, by rw [xt.entry, entryX, entryV]⟩

/-- A list of SERVICE entries ends ABORTED. -/
theorem endService_aborts_entries {c : Channel} (some : (s.entryOf c).requests ≠ [])
    (service : ∀ e ∈ (s.entryOf c).requests, e.requester = .service) (calm : (s.motionOf c).standing = none) :
    ((s.endService o reason).entryOf c).requests = []
      ∧ ((s.endService o reason).entryOf c).last = .some ⟨.aborted, .request .service, s.window.number⟩ := by
  obtain ⟨u, v, x, su, uv, vx, xt⟩ := endService_channel on o reason c
  obtain ⟨hold, entry, _⟩ := entryOf_unserved s c
  have listU : (u.entryOf c).requests = (s.entryOf c).requests := by rw [su.entry, entry]
  have calmU : (u.motionOf c).standing = none := su.motion.standing.trans calm
  have listV : (v.entryOf c).requests = (s.entryOf c).requests := by
    rw [uv.entry]
    unfold Part.abortServiceMove
    split
    case h_1 mv moves =>
      split
      · rw [abort_entry moves (.inl calmU), listU]
      · exact listU
    · exact listU
  have number : v.window.number = s.window.number :=
    (number_of_pinned (uv.pinned.trans (Local.abortServiceMove (fun _ => True) True u c).pinned)).trans (number_of_pinned (s := s.unserved) su.pinned)
  have dropped : x.entryOf c = { v.entryOf c with requests := [], last := .some ⟨.aborted, .request .service, s.window.number⟩ } := by
    rw [vx.entry]
    unfold Part.dropServiceEntries
    rw [entryOf_discardEntries_all v c .aborted .service _ (fun e he => by simp [service e (listV ▸ he)]),
      if_neg (by rw [listV]; exact some), number]
  have untaken : x.take c = x := take_of_nil (by rw [dropped])
  rw [untaken] at xt
  rw [xt.entry, dropped]
  exact ⟨rfl, rfl⟩

/-- A move of another owner goes on. -/
theorem endService_spares {c : Channel} {mv : Move} (moves : (s.motionOf c).move = some mv) (other : mv.owner ≠ .request .service)
    (moving : (s.motionOf c).phase ∈ [.waiting, .driving, .coasting]) :
    (s.motionOf c).Follows ((s.endService o reason).motionOf c) := by
  obtain ⟨u, v, x, su, uv, vx, xt⟩ := endService_channel on o reason c
  obtain ⟨mv', moves', owner, _⟩ := su.motion.move moves
  have spared : u.abortServiceMove c = u := by
    unfold Part.abortServiceMove
    rw [moves']
    exact if_neg (owner ▸ other)
  have toV : (s.motionOf c).Follows (v.motionOf c) := su.motion.trans (spared ▸ uv.motion)
  have toX : (s.motionOf c).Follows (x.motionOf c) := by
    have after := vx.motion
    unfold Part.dropServiceEntries at after
    rw [motionOf_discardEntries] at after
    exact toV.trans after
  have untaken : x.take c = x := take_of_moving (toX.moving moving)
  rw [untaken] at xt
  exact toX.trans xt.motion

/-- SERVICE_ENDED finds room behind what the aborts queue, where few frames and entries stand at first. -/
theorem endService_notified (few : s.bus.queue.length ≤ 4) (short : ∀ c, (s.entryOf c).requests.length ≤ 1) :
    (s.endService o reason).notified .serviceEnded none reason 0 s.window.number := by
  let aborted : Part := (s.unserved.abortMoves o fun w => w = .request .service).abortEntries o fun r => r = .service
  have ended : s.endService o reason = (aborted.raise .serviceEnded none reason 0).takeAll o := if_pos on
  have sent : Sends 13 s.unserved aborted := by
    have h := ((Sends.refl s.unserved).abortMoves o fun w => w = .request .service).abortEntries o fun r => r = .service
    exact h.le (Nat.le_refl 13)
  have atFirst : s.unserved.backlog ≤ 10 := by
    have listed : s.unserved.listed ≤ 6 := by
      have one (c : Channel) : (s.unserved.entryOf c).requests.length ≤ 1 := by
        obtain ⟨hold, entry, _⟩ := entryOf_unserved s c
        rw [entry]
        exact short c
      simp only [Part.listed, Channel.all, List.map_cons, List.map_nil, List.sum_cons, List.sum_nil]
      have := one .drum
      have := one .concave
      have := one .upperSieve
      have := one .lowerSieve
      have := one .fan
      have := one .louver
      omega
    have queue : s.unserved.bus = s.bus := rfl
    unfold Part.backlog
    rw [queue]
    omega
  have room : aborted.bus.queue.length < 24 := by
    unfold Sends at sent
    rw [Part.backlog] at sent
    omega
  have number : aborted.window.number = s.window.number := by
    have start : Quiet s.unserved s.unserved := .refl
    have q : Quiet s.unserved aborted := (start.abortMoves o _).abortEntries o _
    exact congrArg (·.window.number) q.still_eq
  rw [ended]
  have start : Quiet (aborted.raise .serviceEnded none reason 0) (aborted.raise .serviceEnded none reason 0) := .refl
  refine (start.takeAll o).notified ?_
  have raised := raiseIn_notified aborted aborted.window.number .serviceEnded none reason 0 room
  rw [number] at raised
  unfold Part.raise
  rw [number]
  exact raised

end

end Sys2Proof.Machine
end

section
/-! PROOFS. Ground speed, settled: what a speed known or unknown makes of the harvesting condition and of service mode (R9, R17, R81, R97,
R174). -/

namespace Sys2Proof.Machine

/-- The part with a ground speed known or unknown, at a time. -/
def Part.withSpeed (p : Part) (now speed : Nat) (known : Bool) (freshUntil : Option Nat) : Part :=
  { p with now := now, bus := { p.bus with groundSpeed := speed, speedKnown := known, freshUntil := freshUntil } }

theorem endService_of_off {s : Part} (off : s.service = false) (o : Order) (reason : Nat) : s.endService o reason = s := by
  unfold Part.endService
  simp [off]

theorem takeSpeed_withSpeed (p : Part) (dt speed : Nat) (o : Order) : (p.later dt).takeSpeed speed o =
    let s := (p.withSpeed (p.now + dt) (min 600 speed) true (some (p.now + dt + 1000000))).judgeHarvesting true
    if 0 < speed then s.endService o 1 else s := rfl

theorem loseSpeed_withSpeed (p : Part) (d : Nat) (o : Order) : (p.atTime d).loseSpeed o =
    ((p.withSpeed (max p.now d) p.bus.groundSpeed false none).judgeHarvesting true).endService o 2 := rfl

theorem exec_motionStatus_of_on {p : Part} (on : p.power = .on) (q : List Instr) (dt : Nat) {h : FrameHeader} (speed : Word) (o : Order)
    (silent : p.bus.silentUntil = none) (source : h.source = propulsionAddress)
    (self : propulsionAddress ≠ p.store.activeCal.figures.nodeAddress) (long : 2 ≤ h.length)
    (destination : h.destination = p.store.activeCal.figures.nodeAddress ∨ h.destination = broadcastAddress) :
    exec (.motionStatus dt h speed o) ⟨p, q⟩ = .next ⟨(p.later dt).takeSpeed speed.toNat o, q⟩ := by
  refine congrArg (fun t => Host.Outcome.next (State.mk t q)) ((Part.onEvent_of_on on dt _).trans (if_pos ?_))
  have node : (p.later dt).cal.nodeAddress = p.store.activeCal.figures.nodeAddress := rfl
  have addressed : h.destination = (p.later dt).cal.nodeAddress ∨ h.destination = broadcastAddress := destination
  have hears : (p.later dt).hears h = true := by
    simp [Part.hears, Part.later, silent, source]
    exact self
  simp [hears, Part.addressed, addressed, source, long]

end Sys2Proof.Machine

open Sys2Proof Sys2Proof.Machine

/-- Settles O59: both commands store or lose the speed, judge the harvesting condition again, and end service mode or leave it. -/
theorem groundSpeedGovernsHarvestingAndService : Obligations.GroundSpeedGovernsHarvestingAndService := by
  intro p q o on judged
  let stored := fun (t : Part) (now speed : Nat) (known : Bool) (fresh : Option Nat) =>
    t.now = now ∧ t.bus.groundSpeed = speed ∧ t.bus.speedKnown = known ∧ t.bus.freshUntil = fresh
  have left (now speed : Nat) (known : Bool) (fresh : Option Nat) :
      ∀ t, t = (p.withSpeed now speed known fresh).judgeHarvesting true → stored t now speed known fresh ∧ judged t p.service := by
    intro t is
    obtain ⟨notHarvesting, fanOffset, fanTarget, written, ends⟩ := judgeHarvesting_writes (p.withSpeed now speed known fresh)
    rw [is, written]
    exact ⟨⟨rfl, rfl, rfl, rfl⟩, rfl, ends, rfl, rfl, rfl, on, rfl, rfl, rfl, rfl, fun served off => absurd (served.symm.trans off) (by decide),
      fun _ => ⟨rfl, rfl, rfl, rfl⟩⟩
  have ended (served : p.service = true) (now speed : Nat) (known : Bool) (fresh : Option Nat) :
      ∀ t, t = ((p.withSpeed now speed known fresh).judgeHarvesting true).endService o (if known = true then 1 else 2) →
        stored t now speed known fresh ∧ judged t false := by
    intro t is
    obtain ⟨notHarvesting, fanOffset, fanTarget, written, ends⟩ := judgeHarvesting_writes (p.withSpeed now speed known fresh)
    generalize (p.withSpeed now speed known fresh).judgeHarvesting true = s at written is
    have serves : s.service = true := by rw [written]; exact served
    have motion : ∀ c, s.motionOf c = p.motionOf c := by rw [written]; exact fun _ => rfl
    have entry : ∀ c, s.entryOf c = p.entryOf c := by rw [written]; exact fun _ => rfl
    have queue : s.bus.queue = p.bus.queue := by rw [written]; rfl
    have number : s.window.number = p.window.number := by rw [written]; rfl
    generalize reason_eq : (if known = true then 1 else 2) = reason at is
    subst is
    have pinned := endService_pinned serves o reason
    rw [show s.pinned = _ from congrArg Part.pinned written] at pinned
    have knows : (s.endService o reason).bus.speedKnown = known := congrArg (·.speedKnown) pinned
    have speeds : (s.endService o reason).bus.groundSpeed = speed := congrArg (·.groundSpeed) pinned
    have harvests : (s.endService o reason).harvesting = (p.withSpeed now speed known fresh).harvestingHolds :=
      congrArg (·.harvesting) pinned
    refine ⟨⟨congrArg (·.now) pinned, speeds, knows, congrArg (·.freshUntil) pinned⟩, ?harvesting, fun was gone => ?mark, congrArg (·.service) pinned, congrArg (·.capture) pinned, congrArg (·.lines) pinned,
      (congrArg (·.power) pinned).trans on, congrArg (·.shutdown) pinned, congrArg (·.store) pinned, congrArg (·.window.number) pinned,
      congrArg (·.window.history) pinned, fun _ _ => ⟨?holds, ?moves, ?lists, ?abortsMove, ?abortsList, ?spares, ?notifies⟩,
      fun off => absurd (served.symm.trans off) (by decide)⟩
    case harvesting =>
      rw [harvests, knows, speeds]
      rfl
    case mark =>
      obtain ⟨marked, zero⟩ := ends was (harvests.symm.trans gone)
      exact ⟨(congrArg (·.window.marks.notHarvesting) pinned).trans marked, (congrArg (·.fanOffset) pinned).trans zero⟩
    case holds => exact fun c k held => endService_hold serves o reason c held
    case moves => exact fun c mv moves => (endService_leaves serves o reason c).1 mv moves
    case lists =>
      intro c e mem service
      exact ((endService_leaves serves o reason c).2 e mem).1 (congrArg Owner.request service)
    case abortsMove =>
      intro c mv moves service none
      rw [← number]
      exact endService_aborts_move serves o reason ((motion c).symm ▸ moves) service ((entry c).symm ▸ none)
    case abortsList =>
      intro c before e list service calm
      rw [← number]
      rw [← list, ← entry] at service
      exact endService_aborts_entries serves o reason (by rw [entry, list]; simp) service (by rw [motion]; exact calm)
    case spares =>
      intro c mv moves other moving
      rw [← motion] at moves moving
      exact (endService_spares serves o reason moves other moving).move moves
    case notifies =>
      intro few short
      rw [knows, reason_eq, ← number]
      exact endService_notified serves o reason (by rw [queue]; exact few) fun c => by rw [entry]; exact short c
  have unserved (off : p.service = false) (now speed : Nat) (known : Bool) (fresh : Option Nat) (reason : Nat) :
      ((p.withSpeed now speed known fresh).judgeHarvesting true).endService o reason =
        (p.withSpeed now speed known fresh).judgeHarvesting true := by
    refine endService_of_off ?_ o reason
    obtain ⟨_, _, _, written, _⟩ := judgeHarvesting_writes (p.withSpeed now speed known fresh)
    rw [written]
    exact off
  have settled (now speed : Nat) (known : Bool) (fresh : Option Nat) (ends : Prop) [Decidable ends] (t : Part)
      (is : t = let s := (p.withSpeed now speed known fresh).judgeHarvesting true
        if ends then s.endService o (if known = true then 1 else 2) else s) :
      stored t now speed known fresh ∧ judged t (p.service && !decide ends) := by
    by_cases ending : ends
    · rw [decide_eq_true ending, Bool.not_true, Bool.and_false]
      rw [if_pos ending] at is
      cases service : p.service with
      | true => exact ended service now speed known fresh t is
      | false => exact service ▸ left now speed known fresh t (is.trans (unserved service _ _ _ _ _))
    · rw [decide_eq_false ending, Bool.not_false, Bool.and_true]
      rw [if_neg ending] at is
      exact left now speed known fresh t is
  refine ⟨fun dt h speed silent source self long destination => ?_, fun d runs => ?_⟩
  · refine ⟨_, exec_motionStatus_of_on on q dt speed o silent source self long destination, ?_⟩
    obtain ⟨⟨now, speed', known, fresh⟩, all⟩ := settled _ _ _ _ (0 < speed.toNat) _ (takeSpeed_withSpeed p dt speed.toNat o)
    refine ⟨now, speed', known, fresh, ?_⟩
    have still : (!decide (0 < speed.toNat)) = decide (speed.toNat = 0) := by
      cases speed.toNat <;> simp
    rw [← still]
    exact all
  · refine ⟨_, congrArg (fun t => Host.Outcome.next (State.mk t q)) (Part.onExpiry_of_on on runs _), ?_⟩
    obtain ⟨⟨now, speed, known, fresh⟩, all⟩ := settled _ _ _ _ True _ (loseSpeed_withSpeed p d o)
    exact ⟨now, speed, known, fresh, by simpa using all⟩

end

section
/-! PROOFS. The parameter application and the readers of a record: what of service mode, the Evaluation and the latest LOAD their work
leaves as it was (R14, R22, R165). -/

namespace Sys2Proof.Machine

/-- Any owner. -/
def AnyOwner (_ : Owner) : Prop := True

theorem listFits_any (s : Part) (c : Channel) : s.listFits AnyOwner True c := fun _ _ => ⟨trivial, .inl trivial⟩

/-! ### Work on one channel at a parameter application -/

section

variable {P : Owner → Prop} {W : Prop} {d : Channel} {s0 s : Part}

theorem Local.handReturn (h : Local P W .concave s0 s) (allowed : P .override) : Local P W .concave s0 s.handReturn :=
  h.handSet allowed (fun jog => MoveKind.noConfusion jog) _ _ _

theorem Local.disableRelief (h : Local P W .concave s0 s) (fit : s0.listFits P W .concave) (allowed : P .override) :
    Local P W .concave s0 s.disableRelief := by
  unfold Part.disableRelief
  extract_lets t
  refine Local.take (s := t) ?_ fit
  show Local P W .concave s0 (match s.override.relief with
    | .opening => (s.abort .concave .aborted).disarm.handReturn
    | .openHeld _ => s.disarm.handReturn
    | .returning | .spinup | .armed | .suspect => s.disarm
    | .disarmed => s)
  split
  · exact (h.abort _).disarm.handReturn allowed
  · exact h.disarm.handReturn allowed
  · exact h.disarm
  · exact h.disarm
  · exact h.disarm
  · exact h.disarm
  · exact h

theorem Local.reliefApplied (h : Local P W .concave s0 s) (fit : s0.listFits P W .concave) (allowed : P .override) :
    Local P W .concave s0 s.reliefApplied := by
  unfold Part.reliefApplied
  split
  · exact h.judgeRelief.take fit
  · exact h.disableRelief fit allowed

/-- What a reclamp posts has no target of its own: it commits nothing. -/
theorem Local.reclamp (h : Local P W d s0 s) (fit : s0.listFits P W d) (loaded : Bool) (allowed : P (.request (.automatic .restore)))
    (writes : W) : Local P W d s0 (s.reclamp loaded d) := by
  unfold Part.reclamp
  extract_lets old new t
  have ht : Local P W d s0 t := h.putSetpoint new writes
  split
  · exact h
  · split
    · exact ht.post fit .restore none allowed (.inr rfl)
    · exact ht

end

/-! ### What the readers of the Evaluation and the followers leave -/

/-- Service mode, the Evaluation and the latest LOAD. -/
def Part.report (s : Part) : Bool × Evaluation × Nat := (s.service, s.evaluator.evaluation, s.evaluator.latestLoad)

theorem report_of_pinned {s t : Part} (h : t.pinned = s.pinned) : t.report = s.report :=
  congrArg (fun x : Pinned => (x.service, x.evaluation, x.latestLoad)) h

theorem Local.report {P : Owner → Prop} {W : Prop} {d : Channel} {s t : Part} (h : Local P W d s t) : t.report = s.report :=
  report_of_pinned h.pinned

theorem report_foldl {α : Type} (f : Part → α → Part) (l : List α) (step : ∀ s, ∀ x ∈ l, (f s x).report = s.report) (s : Part) :
    (l.foldl f s).report = s.report := by
  induction l generalizing s with
  | nil => rfl
  | cons x rest ih =>
    exact (ih (fun s y hy => step s y (List.mem_cons_of_mem _ hy)) _).trans (step s x List.mem_cons_self)

theorem report_send (s : Part) (b : FrameBody) : (s.send b).report = s.report :=
  ((Local.refl (P := AnyOwner) (W := True) (d := .drum) s).send b).report

theorem report_raiseIn (s : Part) (n : Nat) (e : Event) (c : Option Channel) (d8 d16 : Nat) :
    (s.raiseIn n e c d8 d16).report = s.report := by
  unfold Part.raiseIn
  dsimp only
  split
  · exact report_send s (.event e c d8 d16 s.bus.overrun (n % 65536))
  · exact report_send s _

theorem report_judgeHarvesting (s : Part) (mark : Bool) : (s.judgeHarvesting mark).report = s.report := by
  unfold Part.judgeHarvesting
  dsimp only
  split
  · cases mark <;> rfl
  · rfl

theorem report_removeHolds (s : Part) (who : Holder) : (s.removeHolds who).report = s.report := rfl

theorem report_post (s : Part) (c : Channel) (cause : Cause) (v : Option Int) : (s.post c cause v).1.report = s.report :=
  ((Local.refl (P := AnyOwner) (W := True) s).post (listFits_any s c) cause v trivial (.inl trivial)).report

theorem report_applyLoad (s : Part) (slot : Nat) : (s.applyLoad slot).report = s.report := by
  unfold Part.applyLoad
  extract_lets t u v st w
  have hv : v.report = s.report := by
    show Part.report (if (u.entryOf .fan).mode = .manual then u.setFanOffset 0 else u) = s.report
    split <;> rfl
  refine (report_foldl _ _ (fun x c _ => ?_) w).trans hv
  exact ((Local.refl (P := AnyOwner) (W := True) x).postPreset (listFits_any x c) _ trivial trivial).report

theorem report_bookApplied (s : Part) (o : Order) (mark : Option Nat) : (s.bookApplied o mark).report = s.report := by
  unfold Part.bookApplied
  extract_lets t u v
  have ht : t.report = s.report := report_foldl _ _ (fun x c _ =>
    ((Local.refl (P := AnyOwner) (W := True) x).reclamp (listFits_any x c) _ trivial trivial).report) s
  have hv : v.report = s.report := by
    show Part.report (match mark with
      | some slot => u.applyLoad slot
      | none => u) = s.report
    split
    · exact (report_applyLoad u _).trans ht
    · exact ht
  unfold Part.recoverChannels
  split
  · exact hv
  · exact hv

theorem report_applyTask (s : Part) (o : Order) (a : Applied) (k : Task) : (s.applyTask o a k).report = s.report := by
  unfold Part.applyTask
  split
  · exact report_bookApplied s o _
  · split
    · exact report_judgeHarvesting s _
    · rfl
  · split
    · exact ((Local.refl (P := AnyOwner) (W := True) s).reliefApplied (listFits_any s _) trivial).report
    · rfl
  · split <;> rfl
  · rfl
  · exact report_raiseIn s _ _ _ _ _
  all_goals rfl

/-- A parameter application leaves service mode, the Evaluation and the latest LOAD. -/
theorem report_applyParameters (s : Part) (o : Order) (n : Nat) : (s.applyParameters o n).report = s.report := by
  unfold Part.applyParameters
  extract_lets a
  split
  · exact report_foldl _ _ (fun x k _ => report_applyTask x o a k) s.copySets
  · rfl

theorem report_trim (s : Part) : s.trim.report = s.report := by
  unfold Part.trim
  extract_lets t
  split
  · split
    case h_1 e i _ =>
      have posted := report_post t e.channel .trim (some (t.trimTarget e))
      split
      case h_1 u taken =>
        rw [taken] at posted
        exact (report_raiseIn _ _ _ _ _ _).trans posted
      all_goals rfl
    · rfl
  · rfl

/-- Of a record's readers the Evaluator alone writes the Evaluation and the latest LOAD. -/
theorem report_appendTask (s : Part) (o : Order) (r : WindowRecord) {k : Task} (ne : k ≠ .evaluation) (nl : k ≠ .feedRestrain) :
    (s.appendTask o r k).report = s.report := by
  unfold Part.appendTask
  split
  · exact absurd rfl ne
  · exact absurd rfl nl
  · unfold Part.followRoll
    split
    · exact report_post s _ _ _
    · rfl
  · rfl
  · refine report_foldl _ _ (fun x c _ => ?_) s
    split
    · split
      · exact report_post x _ _ _
      · rfl
    · rfl
  · exact report_foldl _ _ (fun x c _ => report_send x _) s
  · exact report_trim s
  · unfold Part.trimLouver
    dsimp only
    split <;> rfl
  · exact report_foldl _ _ (fun x f _ => report_send x f) s
  all_goals rfl

/-- The Evaluation formed from a record carries its number; service mode and the latest LOAD stand. -/
theorem report_formEvaluation (s : Part) (r : WindowRecord) : ∃ e : Evaluation, e.number = r.number
    ∧ (s.formEvaluation r).report = (s.service, e, s.evaluator.latestLoad) := by
  unfold Part.formEvaluation
  extract_lets before held current averages symptoms e t
  refine ⟨t.evaluator.evaluation, rfl, ?_⟩
  split
  · exact report_raiseIn t _ _ _ _ _
  · rfl

theorem report_sendRestrain (s : Part) : s.sendRestrain.report = s.report :=
  report_send s (.restrainNotice s.evaluator.restrain s.reduction s.evaluator.latestLoad s.windowLow)

theorem report_judgeLoad (s : Part) (r : WindowRecord) :
    (s.judgeLoad r).report = (s.service, s.evaluator.evaluation, r.load) := by
  unfold Part.judgeLoad
  extract_lets before next e t u
  show u.report = t.report
  show Part.report (if t.noticeDue before then t.sendRestrain else t) = t.report
  split
  · exact report_sendRestrain t
  · rfl

end Sys2Proof.Machine
end

section
/-! PROOFS. The close of a window (R11 to R13, R22): what it leaves as it was, what the next window starts with, and what the record's
readers leave. -/

namespace Sys2Proof.Machine

/-! ### What the steps of a close leave as it was -/

/-- What no step of a close writes but the start of the next window and the append. -/
structure Ground where
  now : Nat
  power : Power
  lines : Lines
  phold : Bool
  shutdown : Option Shutdown
  capture : Capture
  memory : Memory
  pageStates : List PageState
  number : Nat
  history : List WindowRecord

/-- The ground of a state. -/
def Part.ground (s : Part) : Ground where
  now := s.now
  power := s.power
  lines := s.lines
  phold := s.phold
  shutdown := s.shutdown
  capture := s.capture
  memory := s.store.memory
  pageStates := s.store.pageStates
  number := s.window.number
  history := s.window.history

theorem Quiet.ground {s t : Part} (q : Quiet s t) : t.ground = s.ground :=
  congrArg (fun x : Still => (⟨x.now, x.power, x.lines, x.phold, x.shutdown, x.capture, x.store.memory, x.store.pageStates,
    x.window.number, x.window.history⟩ : Ground)) q.still_eq

/-- A parameter application changes nothing, or copies the sets and is quiet from there. -/
theorem applyParameters_quiet (s : Part) (o : Order) (n : Nat) :
    s.applyParameters o n = s ∨ Quiet s.copySets (s.applyParameters o n) := by
  unfold Part.applyParameters
  extract_lets a
  split
  · exact .inr (Quiet.foldl .refl _ _ fun _ k hk => hk.applyTask o a k)
  · exact .inl rfl

theorem ground_applyParameters (s : Part) (o : Order) (n : Nat) : (s.applyParameters o n).ground = s.ground := by
  rcases applyParameters_quiet s o n with same | quiet
  · rw [same]
  · exact quiet.ground

theorem queue_applyParameters (s : Part) (o : Order) (n : Nat) {f : Frame} (mem : f ∈ s.bus.queue) (notice : f.body.periodic = false) :
    f ∈ (s.applyParameters o n).bus.queue := by
  rcases applyParameters_quiet s o n with same | quiet
  · rwa [same]
  · exact quiet.queue.1 f mem notice

theorem getLast?_appendRecord (history : List WindowRecord) (r : WindowRecord) : (appendRecord history r).getLast? = some r := by
  unfold appendRecord historyLength
  generalize (if r.number = 1 then [] else history) = kept
  rw [List.drop_append_of_le_length (by omega)]
  simp

/-! ### A close with a record -/

/-- The state in which a record is read: parameters applied, the next window started, the record appended. -/
def Part.recorded (s : Part) (o : Order) (l : Latched) (r : WindowRecord) : Part :=
  ((((s.raiseRuns l).advanceRuns l r).applyParameters o (nextWindowNumber r.number)).startWindow (nextWindowNumber r.number)).append r

theorem closeWithRecord_eq (s : Part) (o : Order) (l : Latched) :
    s.closeWithRecord o l = (s.recorded o l (s.recordOf l)).react o (s.recordOf l) := rfl

section

variable (s : Part) (o : Order) (l : Latched) (r : WindowRecord)

theorem ground_applied : (((s.raiseRuns l).advanceRuns l r).applyParameters o (nextWindowNumber r.number)).ground = s.ground :=
  (ground_applyParameters _ o _).trans (Quiet.raiseRuns .refl l : Quiet s (s.raiseRuns l)).ground

theorem ground_recorded : (s.recorded o l r).ground =
    { s.ground with number := nextWindowNumber r.number, history := appendRecord s.window.history r } := by
  have applied := ground_applied s o l r
  unfold Part.recorded
  generalize ((s.raiseRuns l).advanceRuns l r).applyParameters o (nextWindowNumber r.number) = v at applied
  show { v.ground with number := nextWindowNumber r.number, history := appendRecord v.ground.history r } = _
  rw [applied]
  rfl

theorem ground_react : ((s.recorded o l r).react o r).ground =
    { s.ground with number := nextWindowNumber r.number, history := appendRecord s.window.history r } :=
  ((Quiet.react .refl o r : Quiet (s.recorded o l r) _).ground).trans (ground_recorded s o l r)

/-- The next window: started now, with the length in force and the separator's state. -/
theorem window_react : let t := (s.recorded o l r).react o r
    t.window.startedAt = s.now ∧ t.window.length = t.store.activePreset.windowLength ∧ t.window.engaged = s.capture.engaged := by
  have quiet : Quiet (s.recorded o l r) ((s.recorded o l r).react o r) := Quiet.react .refl o r
  have applied := ground_applied s o l r
  refine ⟨?_, ?_, ?_⟩
  · exact (congrArg (·.window.startedAt) quiet.still_eq).trans (congrArg (·.now) applied)
  · exact (congrArg (·.window.length) quiet.still_eq).trans (congrArg (·.store.activePreset.windowLength) quiet.still_eq).symm
  · exact (congrArg (·.window.engaged) quiet.still_eq).trans (congrArg (·.capture.engaged) applied)

theorem queue_react {f : Frame} (mem : f ∈ s.bus.queue) (notice : f.body.periodic = false) :
    f ∈ ((s.recorded o l r).react o r).bus.queue := by
  have raised : f ∈ (s.raiseRuns l).bus.queue := (Quiet.raiseRuns .refl l : Quiet s (s.raiseRuns l)).queue.1 f mem notice
  have applied := queue_applyParameters ((s.raiseRuns l).advanceRuns l r) o (nextWindowNumber r.number) raised notice
  exact (Quiet.react .refl o r : Quiet (s.recorded o l r) _).queue.1 f applied notice

theorem report_raiseRuns : (s.raiseRuns l).report = s.report := by
  unfold Part.raiseRuns
  extract_lets silent t
  refine (report_foldl _ _ (fun u x _ => ?_) t).trans (report_foldl _ _ (fun u x _ => ?_) s)
  · split
    · exact report_raiseIn u _ _ _ _ _
    · rfl
  · split
    · exact report_raiseIn u _ _ _ _ _
    · rfl

theorem report_recorded : (s.recorded o l r).report = s.report :=
  (report_applyParameters ((s.raiseRuns l).advanceRuns l r) o (nextWindowNumber r.number)).trans (report_raiseRuns s l)

end

/-- Service mode stands through the readers; the Evaluation's number and the latest LOAD are the record's once their tasks have run. -/
theorem report_readers (o : Order) (r : WindowRecord) (l : List Task) : ∀ s : Part,
    let t := l.foldl (fun s k => s.appendTask o r k) s
    t.service = s.service
      ∧ (.evaluation ∈ l ∨ s.evaluator.evaluation.number = r.number → t.evaluator.evaluation.number = r.number)
      ∧ (.feedRestrain ∈ l ∨ s.evaluator.latestLoad = r.load → t.evaluator.latestLoad = r.load) := by
  induction l with
  | nil =>
    intro s
    exact ⟨rfl, fun h => h.resolve_left List.not_mem_nil, fun h => h.resolve_left List.not_mem_nil⟩
  | cons k rest ih =>
    intro s
    obtain ⟨service, number, load⟩ := ih (s.appendTask o r k)
    have step : (s.appendTask o r k).service = s.service
        ∧ (k = .evaluation ∨ s.evaluator.evaluation.number = r.number → (s.appendTask o r k).evaluator.evaluation.number = r.number)
        ∧ (k = .feedRestrain ∨ s.evaluator.latestLoad = r.load → (s.appendTask o r k).evaluator.latestLoad = r.load) := by
      by_cases evaluates : k = .evaluation
      · subst evaluates
        obtain ⟨e, numbered, formed⟩ := report_formEvaluation s r
        simp only [Part.report, Prod.mk.injEq] at formed
        obtain ⟨sameService, sameEvaluation, sameLoad⟩ := formed
        refine ⟨sameService, fun _ => ?_, fun h => ?_⟩
        · exact (congrArg (·.number) sameEvaluation).trans numbered
        · exact sameLoad.trans (h.resolve_left (by decide))
      · by_cases judges : k = .feedRestrain
        · subst judges
          have judged := report_judgeLoad s r
          simp only [Part.report, Prod.mk.injEq] at judged
          obtain ⟨sameService, sameEvaluation, sameLoad⟩ := judged
          refine ⟨sameService, fun h => ?_, fun _ => sameLoad⟩
          exact (congrArg (·.number) sameEvaluation).trans (h.resolve_left (by decide))
        · have same := report_appendTask s o r evaluates judges
          simp only [Part.report, Prod.mk.injEq] at same
          obtain ⟨sameService, sameEvaluation, sameLoad⟩ := same
          refine ⟨sameService, fun h => ?_, fun h => ?_⟩
          · exact (congrArg (·.number) sameEvaluation).trans (h.resolve_left evaluates)
          · exact sameLoad.trans (h.resolve_left judges)
    obtain ⟨service', number', load'⟩ := step
    refine ⟨service.trans service', fun h => number ?_, fun h => load ?_⟩
    · rcases h with mem | before
      · rcases List.mem_cons.1 mem with here | later
        · exact .inr (number' (.inl here.symm))
        · exact .inl later
      · exact .inr (number' (.inr before))
    · rcases h with mem | before
      · rcases List.mem_cons.1 mem with here | later
        · exact .inr (load' (.inl here.symm))
        · exact .inl later
      · exact .inr (load' (.inr before))

end Sys2Proof.Machine
end

section
/-! PROOFS. WINDOW_RESTART: answered, then the close (R11, R12, R173), and the order in which the readers of a record run (R22). -/

namespace Sys2Proof.Machine

/-! ### The readers' order -/

/-- The readers as arranged: those before the Evaluation, the Evaluation, and those after it. -/
theorem arrange_readers (o : Order) : ∃ early late : List Task,
    arrange o.tasks appendTasks = early ++ .evaluation :: late ∧ .evaluation ∉ early
      ∧ appendSchedule o = early.filter (fun k => !Task.needsEvaluation k) ++ .evaluation ::
          (early.filter (fun k => Task.needsEvaluation k) ++ late) := by
  have mem : Task.evaluation ∈ arrange o.tasks appendTasks := (mem_arrange _ _ _).2 (by decide)
  have once : (arrange o.tasks appendTasks).Nodup := arrange_nodup _ _ (by decide)
  obtain ⟨early, late, split⟩ := List.append_of_mem mem
  rw [split, List.nodup_append] at once
  obtain ⟨_, _, apart⟩ := once
  have new : Task.evaluation ∉ early := fun m => apart _ m _ List.mem_cons_self rfl
  have others : ∀ k ∈ early, decide (k ≠ Task.evaluation) = true := fun k hk => decide_eq_true fun e => new (e ▸ hk)
  refine ⟨early, late, split, new, ?_⟩
  have taken : (arrange o.tasks appendTasks).takeWhile (· ≠ .evaluation) = early := by
    rw [split, List.takeWhile_append_of_pos others]
    simp
  have dropped : (arrange o.tasks appendTasks).dropWhile (· ≠ .evaluation) = .evaluation :: late := by
    rw [split, List.dropWhile_append_of_pos others]
    simp
  unfold appendSchedule
  dsimp only
  rw [taken, dropped]
  simp

theorem appendSchedule_perm (o : Order) : (appendSchedule o).Perm appendTasks := by
  obtain ⟨early, late, split, _, schedule⟩ := arrange_readers o
  have arranged : (arrange o.tasks appendTasks).Perm appendTasks :=
    (List.perm_ext_iff_of_nodup (arrange_nodup _ _ (by decide)) (by decide)).2 fun k => mem_arrange _ _ k
  refine List.Perm.trans ?_ arranged
  rw [schedule, split]
  have parts : (early.filter (fun k => !Task.needsEvaluation k) ++ early.filter (fun k => Task.needsEvaluation k)).Perm early := by
    have := List.filter_append_perm (fun k => !Task.needsEvaluation k) early
    simpa using this
  have moved : (early.filter (fun k => !Task.needsEvaluation k) ++ .evaluation ::
      (early.filter (fun k => Task.needsEvaluation k) ++ late)).Perm (.evaluation :: (early ++ late)) := by
    refine List.perm_middle.trans ?_
    rw [← List.append_assoc]
    exact (parts.append_right late).cons _
  exact moved.trans List.perm_middle.symm

/-- Every reader runs. -/
theorem mem_appendSchedule (o : Order) {k : Task} (reader : k ∈ appendTasks) : k ∈ appendSchedule o :=
  (appendSchedule_perm o).mem_iff.2 reader

theorem report_react (s : Part) (o : Order) (l : Latched) (r : WindowRecord) (number : r.number = s.window.number) :
    let t := (s.recorded o l r).react o r
    t.service = s.service ∧ t.evaluator.evaluation.number = s.window.number ∧ t.evaluator.latestLoad = r.load := by
  obtain ⟨service, evaluation, load⟩ := report_readers o r (appendSchedule o) (s.recorded o l r)
  have before : (s.recorded o l r).service = s.service := congrArg (·.1) (report_recorded s o l r)
  exact ⟨service.trans before, (evaluation (.inl (mem_appendSchedule o (by decide)))).trans number,
    load (.inl (mem_appendSchedule o (by decide)))⟩

/-! ### A discarded close -/

/-- The state a discarded close starts the next window from. -/
def Part.unrecorded (s : Part) (o : Order) : Part :=
  let t := s.applyParameters o s.window.number
  if t.reduction ≠ s.reduction ∧ t.reduction ≠ t.evaluator.sentReduction then t.sendRestrain else t

theorem unrecorded_of_announced {s : Part} {o : Order} (changed : (s.applyParameters o s.window.number).reduction ≠ s.reduction)
    (unsent : (s.applyParameters o s.window.number).reduction ≠ (s.applyParameters o s.window.number).evaluator.sentReduction) :
    s.unrecorded o = (s.applyParameters o s.window.number).sendRestrain := if_pos ⟨changed, unsent⟩

theorem unrecorded_of_silent {s : Part} {o : Order} (same : (s.applyParameters o s.window.number).reduction = s.reduction
      ∨ (s.applyParameters o s.window.number).reduction = (s.applyParameters o s.window.number).evaluator.sentReduction) :
    s.unrecorded o = s.applyParameters o s.window.number :=
  if_neg fun ⟨changed, unsent⟩ => same.elim changed unsent

theorem closeDiscarded_eq (s : Part) (o : Order) : s.closeDiscarded o = (s.unrecorded o).startWindow s.window.number := by
  have number : (s.unrecorded o).window.number = s.window.number := by
    unfold Part.unrecorded
    dsimp only
    split
    · exact applyParameters_number s o _
    · exact applyParameters_number s o _
  show (s.unrecorded o).startWindow (s.unrecorded o).window.number = _
  rw [number]

theorem unrecorded_quiet (s : Part) (o : Order) : Quiet (s.applyParameters o s.window.number) (s.unrecorded o) := by
  unfold Part.unrecorded
  dsimp only
  split
  · exact Quiet.sendRestrain .refl
  · exact .refl

theorem ground_unrecorded (s : Part) (o : Order) : (s.unrecorded o).ground = s.ground :=
  (unrecorded_quiet s o).ground.trans (ground_applyParameters s o _)

theorem report_unrecorded (s : Part) (o : Order) : (s.unrecorded o).report = s.report := by
  refine Eq.trans ?_ (report_applyParameters s o s.window.number)
  unfold Part.unrecorded
  dsimp only
  split
  · exact report_sendRestrain _
  · rfl

theorem queue_unrecorded (s : Part) (o : Order) {f : Frame} (mem : f ∈ s.bus.queue) (notice : f.body.periodic = false) :
    f ∈ (s.unrecorded o).bus.queue :=
  (unrecorded_quiet s o).queue.1 f (queue_applyParameters s o _ mem notice) notice

theorem hits_clearAccumulators (s : Part) (i : LossInput) : (s.clearAccumulators.capture.loss.get i).hits = 0 := by
  cases i <;> rfl

/-! ### WINDOW_RESTART -/

theorem exec_windowRestart_of_on {p : Part} (q : List Instr) (dt : Nat) {h : FrameHeader} {source : Byte} (tag : Byte) (o : Order)
    (allowed : source = cabAddress ∨ source = serviceAddress) (receives : p.receives h source 2) (runs : p.shutdown = none) :
    exec (.windowRestart dt h tag o) ⟨p, q⟩ =
      .next ⟨((p.later dt).answered source 0x05 tag .accepted 0xFF 0).closeWindow .partialClose o, q⟩ := by
  obtain ⟨on, silent, destination, rfl, self, long⟩ := receives
  refine congrArg (fun t => Host.Outcome.next (State.mk t q)) ((Part.onEvent_of_on on dt _).trans ?_)
  have hears : (p.later dt).hearsFrame h := ⟨silent, destination, self⟩
  have permitted : serves h 1 true = true := by
    unfold serves
    rcases allowed with cab | service
    · simp [cab]
    · simp [service]
  unfold Part.onService
  dsimp only
  rw [permitted, Part.judgeRequest_handed hears long]
  have running : (p.later dt).shutdown.isSome = false := by
    show p.shutdown.isSome = false
    rw [runs]
    rfl
  have reads : byteAt h.length (some 1) tag 0 = tag := if_pos long
  have asked : serviceLayout.asked h tag 0xFF = ⟨h.source, kindService, tag, 0xFF⟩ := by
    show Asked.mk h.source kindService (byteAt h.length (some 1) tag 0) 0xFF = _
    rw [reads]
  have code : kindLow kindService = 0x05 := by decide
  have replied : (p.later dt).reply ⟨h.source, kindService, tag, 0xFF⟩ .accepted 0 =
      (p.later dt).answered h.source 0x05 tag .accepted 0xFF 0 := by
    unfold Part.reply
    dsimp only
    rw [code]
    rfl
  rw [running, asked, replied]
  rfl

end Sys2Proof.Machine

open Sys2Proof Sys2Proof.Machine

/-- Settles O25: the close after the REPLY, with a record or discarded. -/
theorem aWindowRestartClosesTheWindow : Obligations.AWindowRestartClosesTheWindow := by
  intro p q dt h source tag o allowed receives runs s elapsed
  refine ⟨_, exec_windowRestart_of_on q dt tag o allowed receives runs, ?_⟩
  let cleared : Part := (s.answered source 0x05 tag .accepted 0xFF 0).clearAccumulators
  let l := s.latched .partialClose
  let r := s.recordOf l
  have on : p.power = .on := receives.1
  have notice : (p.replyFrame source 0x05 tag .accepted 0xFF 0).body.periodic = false := rfl
  have replied (room : p.bus.queue.length < 24) : p.replyFrame source 0x05 tag .accepted 0xFF 0 ∈ cleared.bus.queue := by
    have pushed : cleared.bus = { p.bus with queue := p.bus.queue ++ [p.replyFrame source 0x05 tag .accepted 0xFF 0] } := if_pos room
    rw [pushed]
    exact List.mem_append_right _ (List.mem_singleton.2 rfl)
  have closes : (s.answered source 0x05 tag .accepted 0xFF 0).closeWindow .partialClose o =
      if 100 ≤ elapsed then cleared.closeWithRecord o l else cleared.closeDiscarded o := rfl
  rw [closes]
  by_cases long : 100 ≤ elapsed
  · rw [if_pos long, closeWithRecord_eq, show cleared.recordOf l = r from rfl]
    have ground := ground_react cleared o l r
    obtain ⟨startedAt, _, engaged⟩ := window_react cleared o l r
    obtain ⟨service, _, _⟩ := report_react cleared o l r rfl
    have queue := fun f => queue_react cleared o l r (f := f)
    generalize is : (cleared.recorded o l r).react o r = t at *
    have capture : t.capture = cleared.capture := congrArg (·.capture) ground
    refine ⟨congrArg (·.now) ground, fun room => queue _ (replied room) notice, fun _ => ⟨congrArg (·.number) ground, ?last, rfl⟩,
      fun short => absurd long (Nat.not_le.2 short), startedAt, engaged, fun i => ?clear, congrArg (·.engaged) capture,
      (congrArg (·.power) ground).trans on,
      congrArg (·.lines) ground, (congrArg (·.shutdown) ground).trans runs, service, congrArg (·.memory) ground, fun _ => is.symm,
      fun short => absurd long (Nat.not_le.2 short), fun short => absurd long (Nat.not_le.2 short)⟩
    case last => exact (congrArg (·.history.getLast?) ground).trans (getLast?_appendRecord _ r)
    case clear =>
      rw [capture]
      exact hits_clearAccumulators _ i
  · rw [if_neg long, closeDiscarded_eq]
    have ground := ground_unrecorded cleared o
    have report := report_unrecorded cleared o
    have queue := fun f => queue_unrecorded cleared o (f := f)
    generalize is : cleared.unrecorded o = t at *
    have capture : t.capture = cleared.capture := congrArg (·.capture) ground
    refine ⟨congrArg (·.now) ground, fun room => queue _ (replied room) notice, fun enough => absurd enough long,
      fun _ => ⟨rfl, congrArg (·.history) ground, congrArg (·.2.1) report⟩, congrArg (·.now) ground, congrArg (·.engaged) capture,
      fun i => ?clear, congrArg (·.engaged) capture, (congrArg (·.power) ground).trans on,
      congrArg (·.lines) ground, (congrArg (·.shutdown) ground).trans runs, congrArg (·.1) report, congrArg (·.memory) ground,
      fun enough => absurd enough long, fun _ changed unsent => ?announced, fun _ same => ?silent⟩
    case clear =>
      rw [show (t.startWindow cleared.window.number).capture = t.capture from rfl, capture]
      exact hits_clearAccumulators _ i
    case announced =>
      rw [← is]
      exact congrArg (fun u : Part => u.startWindow p.window.number) (unrecorded_of_announced (s := cleared) (o := o) changed unsent)
    case silent =>
      rw [← is]
      exact congrArg (fun u : Part => u.startWindow p.window.number) (unrecorded_of_silent (s := cleared) (o := o) same)

end

section
/-! PROOFS. The FULL close (R10, R12, R13, R21), the readers one by one (R22, R178), and the marks a window starts with (R16, R17). -/

namespace Sys2Proof.Machine

/-! ### The FULL close -/

theorem exec_windowTimerExpiry_of_on {p : Part} (on : p.power = .on) (q : List Instr) (o : Order) (some : 1 ≤ p.window.length) :
    let s := p.atTime (p.window.startedAt + p.window.length * 100000)
    let l := s.latched .full
    let r := s.recordOf l
    exec (.windowTimerExpiry o) ⟨p, q⟩ = .next ⟨(s.clearAccumulators.recorded o l r).react o r, q⟩ := by
  intro s l r
  have deadline : p.windowDeadline = p.window.startedAt + p.window.length * 100000 := by
    unfold Part.windowDeadline ms
    omega
  refine congrArg (fun t => Host.Outcome.next (State.mk t q)) ((Part.onExpiry_of_on on rfl _).trans ?_)
  rw [deadline]
  have long : shortestWindow ≤ (s.latched .full).elapsed := by
    show 100 ≤ p.window.length * 100
    omega
  exact (if_pos long).trans (closeWithRecord_eq _ o l)

/-- The accumulators cleared and the timing state kept (R12). -/
theorem capture_clearAccumulators (s : Part) : let t := s.clearAccumulators.capture
    (∀ i, (t.loss.get i).hits = 0 ∧ (t.loss.get i).doubleHits = 0 ∧ (t.loss.get i).lastHit = (s.capture.loss.get i).lastHit)
      ∧ (∀ v, (t.speed.get v).count = 0 ∧ (t.speed.get v).lastEdge = (s.capture.speed.get v).lastEdge)
      ∧ (∀ i, (t.pwm.get i).sumTotal = 0 ∧ (t.pwm.get i).opened = (s.capture.pwm.get i).opened)
      ∧ t.tail.activeMs = 0 ∧ t.engaged = s.capture.engaged := by
  refine ⟨fun i => ?_, fun v => ?_, fun i => ?_, rfl, rfl⟩
  · cases i <;> exact ⟨rfl, rfl, rfl⟩
  · cases v <;> exact ⟨rfl, rfl⟩
  · cases i <;> exact ⟨rfl, rfl⟩

/-! ### The marks of a window that starts -/

theorem bearingNow_iff (s : Part) (c : Channel) : s.bearingNow c = true ↔
    c ≠ .louver ∧ ((s.motionOf c).phase = .driving ∨ (s.motionOf c).phase = .coasting)
      ∧ ((∃ mv, (s.motionOf c).move = some mv ∧ mv.bearing = true)
        ∨ ((s.motionOf c).move = none ∧ (s.motionOf c).coastShifts = true)) := by
  unfold Part.bearingNow
  dsimp only
  cases moves : (s.motionOf c).move with
  | none => simp [and_assoc]
  | some mv => simp [and_assoc]

theorem relief_marks_iff (r : Relief) : r.marks = true ↔ r = .suspect ∨ r.blocks = true := by
  cases r <;> simp [Relief.marks, Relief.blocks]

theorem freshMarks_iff (s : Part) :
    (s.freshMarks.shifted = true ↔ ∃ c, c ≠ .louver ∧ ((s.motionOf c).phase = .driving ∨ (s.motionOf c).phase = .coasting)
        ∧ ((∃ mv, (s.motionOf c).move = some mv ∧ mv.bearing = true)
          ∨ ((s.motionOf c).move = none ∧ (s.motionOf c).coastShifts = true)))
      ∧ s.freshMarks.notHarvesting = !s.harvesting
      ∧ (s.freshMarks.relief = true ↔ s.override.relief = .suspect ∨ s.override.relief.blocks = true) := by
  refine ⟨?_, rfl, relief_marks_iff _⟩
  unfold Part.freshMarks
  rw [List.any_eq_true]
  exact ⟨fun ⟨c, _, bears⟩ => ⟨c, (bearingNow_iff s c).1 bears⟩, fun ⟨c, bears⟩ => ⟨c, Channel.mem_all c, (bearingNow_iff s c).2 bears⟩⟩

/-! ### The runs of the loss and speed inputs (R19, R20) -/

/-- An event raised where a condition holds. -/
def Part.raiseIf (s : Part) (b : Bool) (e : Event) (d8 : Nat) : Part := if b then s.raise e none d8 0 else s

/-- Events of one kind raised for the members of a list that meet a condition. -/
def Part.raiseEach {α : Type} (s : Part) (e : Event) (meets : α → Bool) (code : α → Nat) (l : List α) : Part :=
  l.foldl (fun t x => t.raiseIf (meets x) e (code x)) s

theorem raiseIf_window (s : Part) (b : Bool) (e : Event) (d8 : Nat) : (s.raiseIf b e d8).window = s.window := by
  unfold Part.raiseIf
  split
  · simp
  · rfl

theorem raiseIf_quiet (s : Part) (b : Bool) (e : Event) (d8 : Nat) : Quiet s (s.raiseIf b e d8) := by
  unfold Part.raiseIf
  split
  · exact Quiet.raise .refl _ _ _ _
  · exact .refl

theorem raiseIf_grows (s : Part) (b : Bool) (e : Event) (d8 : Nat) :
    (s.raiseIf b e d8).bus.queue.length ≤ s.bus.queue.length + 1 := by
  unfold Part.raiseIf Part.raise Part.raiseIn
  dsimp only
  split
  · split
    · exact (Bus.push_queue _ _).2.2
    · exact (Bus.push_queue _ _).2.2
  · exact Nat.le_succ _

section

variable {α : Type} (e : Event) (meets : α → Bool) (code : α → Nat)

theorem raiseEach_window (l : List α) : ∀ s : Part, (s.raiseEach e meets code l).window = s.window := by
  induction l with
  | nil => exact fun _ => rfl
  | cons x rest ih => exact fun s => (ih _).trans (raiseIf_window s _ e _)

theorem raiseEach_quiet (l : List α) (s : Part) : Quiet s (s.raiseEach e meets code l) :=
  Quiet.foldl .refl _ _ fun t _ ht => ht.trans (raiseIf_quiet t _ e _)

theorem raiseEach_none {l : List α} (none : ∀ x ∈ l, meets x = false) (s : Part) : s.raiseEach e meets code l = s := by
  induction l generalizing s with
  | nil => rfl
  | cons x rest ih =>
    have first : s.raiseIf (meets x) e (code x) = s := by simp [Part.raiseIf, none x List.mem_cons_self]
    exact (ih (fun y hy => none y (List.mem_cons_of_mem _ hy)) _).trans first

theorem raiseEach_grows (l : List α) : ∀ s : Part,
    (s.raiseEach e meets code l).bus.queue.length ≤ s.bus.queue.length + l.length := by
  induction l with
  | nil => exact fun _ => Nat.le_refl _
  | cons x rest ih =>
    intro s
    have step := raiseIf_grows s (meets x) e (code x)
    have rest' := ih (s.raiseIf (meets x) e (code x))
    rw [List.length_cons]
    exact rest'.trans (by omega)

/-- Each of them is notified where the queue has room for all. -/
theorem raiseEach_notified {l : List α} {x : α} (mem : x ∈ l) (meet : meets x = true) : ∀ {s : Part},
    s.bus.queue.length + l.length ≤ 24 → (s.raiseEach e meets code l).notified e none (code x) 0 s.window.number := by
  induction l with
  | nil => exact absurd mem List.not_mem_nil
  | cons y rest ih =>
    intro s room
    rw [List.length_cons] at room
    have grown := raiseIf_grows s (meets y) e (code y)
    show ((s.raiseIf (meets y) e (code y)).raiseEach e meets code rest).notified e none (code x) 0 s.window.number
    rcases List.mem_cons.1 mem with rfl | later
    · refine (raiseEach_quiet e meets code rest _).notified ?_
      rw [show s.raiseIf (meets x) e (code x) = s.raise e none (code x) 0 from if_pos meet]
      exact raiseIn_notified s s.window.number e none (code x) 0 (by omega)
    · rw [← raiseIf_window s (meets y) e (code y)]
      exact ih later (by omega)

end

/-! #### The runs of a record -/

section

variable (p : Part) (l : Latched)

/-- A loss input's number in LOSS_SENSOR_SILENT (R19). -/
def lossCode : LossInput → Nat
  | .left => 0
  | .right => 1
  | .walker => 2

/-- A speed input's number in SPEED_SENSOR (R20). -/
def speedCode : SpeedChannel → Nat
  | .drum => 0
  | .fan => 1

/-- A loss input falls silent with the record. -/
def Part.silenced (i : LossInput) : Bool := ((p.nextSilentRuns l).get i).silent && !(p.window.silentRun.get i).silent

/-- A speed input's fault run reaches its end with the record. -/
def Part.faultReached (v : SpeedChannel) : Bool := p.stoppedEngaged l v && p.window.faultRun.get v = 1

/-- LOSS_SENSOR_SILENT raised. -/
def Part.raiseSilent : Part := p.raiseEach .lossSensorSilent (fun x => p.silenced l x.1) (fun x => x.2) LossInput.all.zipIdx

theorem raiseRuns_eq : p.raiseRuns l =
    (p.raiseSilent l).raiseEach .speedSensor (fun x => p.faultReached l x.1) (fun x => x.2) SpeedChannel.all.zipIdx := by
  have window : (p.raiseSilent l).window = p.window := raiseEach_window _ _ _ _ p
  have later : ∀ v, (p.raiseSilent l).faultReached l v = p.faultReached l v := by
    intro v
    unfold Part.faultReached Part.stoppedEngaged
    rw [window]
  have raised : p.raiseRuns l = (p.raiseSilent l).raiseEach .speedSensor
      (fun x : SpeedChannel × Nat => (p.raiseSilent l).faultReached l x.1) (fun x => x.2) SpeedChannel.all.zipIdx := rfl
  rw [raised]
  simp only [later]

theorem window_raiseRuns : (p.raiseRuns l).window = p.window := by
  rw [raiseRuns_eq, raiseEach_window]
  exact raiseEach_window _ _ _ _ p

theorem silentRun_advanced (r : WindowRecord) (i : LossInput) : (((p.raiseRuns l).advanceRuns l r).window.silentRun.get i) =
    (p.window.silentRun.get i).update (l.loss.get i).hits l.marks.notHarvesting (l.othersHit i) := by
  unfold Part.advanceRuns Part.nextSilentRuns
  dsimp only
  rw [window_raiseRuns]
  cases i <;> rfl

theorem faultRun_advanced (r : WindowRecord) (v : SpeedChannel) : (((p.raiseRuns l).advanceRuns l r).window.faultRun.get v) =
    faultRunUpdate (p.window.faultRun.get v) (p.stoppedEngaged l v) := by
  unfold Part.advanceRuns Part.stoppedEngaged
  dsimp only
  rw [window_raiseRuns]
  cases v <;> rfl

theorem silenced_notified {i : LossInput} (silenced : p.silenced l i = true) (few : p.bus.queue.length < 20) :
    (p.raiseRuns l).notified .lossSensorSilent none (lossCode i) 0 p.window.number := by
  rw [raiseRuns_eq]
  refine (raiseEach_quiet _ _ _ _ _).notified ?_
  have room : p.bus.queue.length + LossInput.all.zipIdx.length ≤ 24 := by
    show p.bus.queue.length + 3 ≤ 24
    omega
  cases i with
  | left => exact raiseEach_notified _ (fun x : LossInput × Nat => p.silenced l x.1) (fun x => x.2) (x := (.left, 0)) (by decide) silenced room
  | right => exact raiseEach_notified _ (fun x : LossInput × Nat => p.silenced l x.1) (fun x => x.2) (x := (.right, 1)) (by decide) silenced room
  | walker => exact raiseEach_notified _ (fun x : LossInput × Nat => p.silenced l x.1) (fun x => x.2) (x := (.walker, 2)) (by decide) silenced room

theorem faultReached_notified {v : SpeedChannel} (reached : p.faultReached l v = true) (few : p.bus.queue.length < 20) :
    (p.raiseRuns l).notified .speedSensor none (speedCode v) 0 p.window.number := by
  rw [raiseRuns_eq]
  have grown : (p.raiseSilent l).bus.queue.length ≤ p.bus.queue.length + 3 := raiseEach_grows _ _ _ LossInput.all.zipIdx p
  have room : (p.raiseSilent l).bus.queue.length + SpeedChannel.all.zipIdx.length ≤ 24 := by
    show _ + 2 ≤ 24
    omega
  have number : (p.raiseSilent l).window.number = p.window.number := congrArg (·.number) (raiseEach_window _ _ _ _ p)
  rw [← number]
  cases v with
  | drum =>
    exact raiseEach_notified _ (fun x : SpeedChannel × Nat => p.faultReached l x.1) (fun x => x.2) (x := (.drum, 0)) (by decide)
      reached room
  | fan =>
    exact raiseEach_notified _ (fun x : SpeedChannel × Nat => p.faultReached l x.1) (fun x => x.2) (x := (.fan, 1)) (by decide)
      reached room

theorem raiseRuns_of_none (silent : ∀ i, p.silenced l i = false) (fault : ∀ v, p.faultReached l v = false) : p.raiseRuns l = p := by
  rw [raiseRuns_eq, raiseEach_none _ _ _ fun x _ => fault x.1]
  exact raiseEach_none _ _ _ (fun x _ => silent x.1) p

theorem stoppedEngaged_iff (v : SpeedChannel) :
    p.stoppedEngaged l v = true ↔ p.window.engaged = true ∧ (l.speed.get v).count = 0 := by
  simp [Part.stoppedEngaged]

end

theorem SilentRun.update_of_hit (r : SilentRun) {hits : Nat} (hit : 1 ≤ hits) (notHarvesting others : Bool) :
    r.update hits notHarvesting others = ⟨0, false⟩ := if_pos hit

theorem SilentRun.update_of_idle (r : SilentRun) {hits : Nat} (silent : hits = 0) {notHarvesting others : Bool}
    (idle : notHarvesting = true ∨ others = false) : r.update hits notHarvesting others = r := by
  unfold SilentRun.update
  rw [if_neg (by omega), if_pos (by simpa using idle)]

theorem SilentRun.update_of_alone (r : SilentRun) {hits : Nat} (silent : hits = 0) {notHarvesting others : Bool}
    (harvesting : notHarvesting = false) (hit : others = true) :
    r.update hits notHarvesting others = ⟨min 4 (r.count + 1), r.silent || 3 ≤ r.count⟩ := by
  unfold SilentRun.update
  rw [if_neg (by omega), if_neg (by simp [harvesting, hit])]
  have full : (min 4 (r.count + 1) = 4) ↔ 3 ≤ r.count := by omega
  simp only [full]

theorem othersHit_iff (l : Latched) (i : LossInput) : l.othersHit i = true ↔ ∃ j, j ≠ i ∧ 1 ≤ (l.loss.get j).hits := by
  have all : ∀ j : LossInput, j ∈ LossInput.all := by
    intro j
    cases j <;> decide
  simp [Latched.othersHit, all]

end Sys2Proof.Machine
end

section
/-! PROOFS. The Setting Book's part of a parameter application, channel by channel: setpoints reclamped, a LOAD's modes, holds and
preset SETs, and the channels that recover (R59, R94, R114, R165). -/

namespace Sys2Proof.Machine

/-! ### Entries that are written and motions that are not -/

theorem entryOf_drives {s t : Part} (h : Drives s t) (c : Channel) : t.entryOf c = s.entryOf c := by
  obtain ⟨_, _, _, _, rfl⟩ := h
  rfl

theorem book_reliefOutcome (s : Part) (k : MoveKind) (o : OutcomeCode) : (s.reliefOutcome k o).book = s.book := by
  unfold Part.reliefOutcome
  extract_lets code
  split <;> simp +zetaDelta

theorem entryOf_endMove (s : Part) (c : Channel) (o : OutcomeCode) : ∃ last, (s.endMove c o).entryOf c = { s.entryOf c with last := last } := by
  unfold Part.endMove
  split
  · exact ⟨_, rfl⟩
  · rw [entryOf_of_book (book_reliefOutcome _ _ _), entryOf_recordOutcome, entryOf_stopJogTimerOf]
    exact ⟨_, rfl⟩

/-- A hand-over of a move that is no JOG writes of its channel's entry the last outcome alone. -/
theorem entryOf_hand (s : Part) (c : Channel) {mv : Move} (set : mv.kind ≠ .jog) :
    ∃ last, (s.hand c mv).entryOf c = { s.entryOf c with last := last } := by
  have waits (t : Part) (book : t.book = s.book) : ∃ last, (t.enterWaiting c).entryOf c = { s.entryOf c with last := last } := by
    unfold Part.enterWaiting
    rw [entryOf_drives (((Drives.refl t).modMotion c _).askSlot c), entryOf_of_book book]
    exact ⟨_, rfl⟩
  unfold Part.hand
  split
  · rw [entryOf_recordOutcome]
    exact ⟨_, rfl⟩
  · split
    · rw [entryOf_drives (((Drives.refl s).modMotion c _).markShifted c mv)]
      exact ⟨_, rfl⟩
    · extract_lets t
      split
      · split
        · exact entryOf_endMove _ c _
        · exact waits t rfl
      · exact waits t rfl

theorem entryOf_handSet (s : Part) (c : Channel) (owner : Owner) {kind : MoveKind} (set : kind ≠ .jog) (sch : Scheduling) (target : Int)
    (tag : Option Byte) : ∃ last, (s.handSet c owner kind sch target tag).entryOf c = { s.entryOf c with last := last } := by
  unfold Part.handSet
  extract_lets mv
  split <;> exact entryOf_hand s c set

/-- A setpoint written: nothing else of the entry, no motion. -/
theorem putSetpoint_book (s : Part) (c : Channel) (v : Int) :
    (s.putSetpoint c v).book = (s.modBook c fun e => { e with setpoint := v }).book ∧ (s.putSetpoint c v).motion = s.motion := by
  unfold Part.putSetpoint
  extract_lets old t
  have raised : (t.drumRaised old).stopIdleWatch.book = t.book ∧ (t.drumRaised old).stopIdleWatch.motion = t.motion := by
    unfold Part.drumRaised
    split <;> simp
  split
  · exact ⟨rfl, rfl⟩
  · exact raised
  all_goals exact ⟨rfl, rfl⟩

theorem entryOf_putSetpoint (s : Part) (c : Channel) (v : Int) : (s.putSetpoint c v).entryOf c = { s.entryOf c with setpoint := v } := by
  rw [entryOf_of_book (putSetpoint_book s c v).1, entryOf_modBook_self]

theorem motionOf_putSetpoint (s : Part) (c d : Channel) (v : Int) : (s.putSetpoint c v).motionOf d = s.motionOf d :=
  motionOf_of_motion (putSetpoint_book s c v).2 d

theorem entryOf_commit (s : Part) (c : Channel) (v : Int) (r : Requester) (origin : Origin) :
    (s.commit c v r origin).entryOf c = { s.entryOf c with setpoint := s.clampToEnvelope c v, origin := origin } := by
  have seen (t : Part) : (t.seeCommitment c r).book = t.book := by
    unfold Part.seeCommitment
    split
    · rfl
    all_goals split <;> rfl
  unfold Part.commit
  rw [entryOf_of_book (seen _), entryOf_putSetpoint, entryOf_modBook_self]

/-! ### A setpoint reclamped (R59) -/

theorem clampToEnvelope_of_store {s t : Part} (h : t.store = s.store) (c : Channel) (v : Int) :
    t.clampToEnvelope c v = s.clampToEnvelope c v := by
  unfold Part.clampToEnvelope Part.envelope Part.params
  rw [h]

/-- A channel's setpoint after its reclamation, where its list commits nothing. -/
theorem reclamp_entry {s : Part} {c : Channel} (fit : s.listFits AnyOwner False c) (loaded : Bool) :
    (s.reclamp loaded c).listFits AnyOwner False c
      ∧ ((s.reclamp loaded c).entryOf c).setpoint = s.clampToEnvelope c (s.entryOf c).setpoint
      ∧ ((s.reclamp loaded c).entryOf c).origin = (s.entryOf c).origin
      ∧ ((s.reclamp loaded c).entryOf c).mode = (s.entryOf c).mode ∧ ((s.reclamp loaded c).entryOf c).hold = (s.entryOf c).hold := by
  unfold Part.reclamp
  extract_lets old new t
  have ht : t.entryOf c = { s.entryOf c with setpoint := new } := entryOf_putSetpoint s c new
  have fitT : t.listFits AnyOwner False c := by
    rw [Part.listFits, ht]
    exact fit
  split
  case isTrue same => exact ⟨fit, same.symm, rfl, rfl, rfl⟩
  case isFalse =>
    split
    · have posted : Local AnyOwner False c t (t.post c .restore none).1 := (Local.refl t).post fitT .restore none trivial (.inr rfl)
      obtain ⟨setpoint, origin⟩ := posted.setpoint id
      refine ⟨posted.lists fitT, setpoint.trans ?_, origin.trans ?_, posted.mode.trans ?_, posted.hold.trans ?_⟩ <;> rw [ht]
    · rw [ht]
      exact ⟨fitT, rfl, rfl, rfl, rfl⟩

/-- A reclamation that posts nothing, for a LOAD or on a FAULTED channel: of the channel the setpoint alone is written. -/
theorem reclamp_unposted {s : Part} {c : Channel} {loaded : Bool} (unposted : loaded = true ∨ s.isFaulted c = true) :
    (s.reclamp loaded c).entryOf c = { s.entryOf c with setpoint := s.clampToEnvelope c (s.entryOf c).setpoint }
      ∧ (s.reclamp loaded c).motionOf c = s.motionOf c := by
  unfold Part.reclamp
  extract_lets old new t
  have ht : t.entryOf c = { s.entryOf c with setpoint := new } := entryOf_putSetpoint s c new
  have mt : t.motionOf c = s.motionOf c := motionOf_putSetpoint s c c new
  split
  case isTrue same => exact ⟨by rw [show s.clampToEnvelope c (s.entryOf c).setpoint = (s.entryOf c).setpoint from same], rfl⟩
  case isFalse =>
    split
    case isTrue posts =>
      have faulted : t.isFaulted c = true := by
        rcases unposted with load | faulted
        · simp [load] at posts
        · unfold Part.isFaulted
          rw [mt]
          exact faulted
      have refused : (t.post c .restore none).1 = t := by
        unfold Part.post Part.postEntry
        simp [faulted]
      rw [refused]
      exact ⟨ht, mt⟩
    case isFalse => exact ⟨ht, mt⟩

/-! ### A preset SET (R64, R165) -/

theorem postPreset_of_faulted {s : Part} {c : Channel} (faulted : s.isFaulted c = true) (v : Int) : s.postPreset c v = s := by
  unfold Part.postPreset Part.postEntry
  simp [faulted]

theorem freeFor_of_standsFree {s : Part} {c : Channel} (free : s.standsFree c) (k : RequestKind) : s.freeFor c k = true := by
  obtain ⟨idle, still, calm, _⟩ := free
  unfold Part.freeFor Part.blocked
  by_cases concave : c = .concave
  · simp [idle, still, calm concave]
  · simp [idle, still, concave]

/-- The entry of a preset SET. -/
def Part.presetEntry (s : Part) (c : Channel) (v : Int) : Entry :=
  ⟨.operator, .set (some (s.clampToEnvelope c v)), s.window.number, none, true⟩

/-- A preset SET listed alone. -/
def Part.presetListed (s : Part) (c : Channel) (v : Int) : Part := s.modBook c fun b => { b with requests := [s.presetEntry c v] }

/-- A preset SET on a free channel is taken at once. -/
theorem postPreset_takes {s : Part} {c : Channel} (free : s.standsFree c) (runs : s.shutdown = none) (v : Int) :
    s.postPreset c v = (s.presetListed c v).takeHead c (s.presetEntry c v) [] := by
  obtain ⟨idle, still, calm, empty⟩ := free
  have freeSet := freeFor_of_standsFree (s := s) ⟨idle, still, calm, empty⟩ (s.presetEntry c v).kind
  have freeListed : (s.presetListed c v).freeFor c (s.presetEntry c v).kind = true := freeSet
  have ready : (s.shutdown.isSome || s.isFaulted c) = false := by
    unfold Part.isFaulted
    simp [runs, idle]
  have list : s.listEntry c (s.presetEntry c v) = s.presetListed c v := by
    unfold Part.listEntry
    simp only [empty]
    rfl
  have placed : s.postPreset c v = (s.presetListed c v).take c := by
    unfold Part.postPreset Part.postEntry Part.place
    rw [ready]
    simp only [still, freeFor_of_standsFree (s := s) ⟨idle, still, calm, empty⟩]
    exact congrArg (fun t : Part => t.take c) list
  have requests : ((s.presetListed c v).entryOf c).requests = [s.presetEntry c v] := by
    unfold Part.presetListed
    rw [entryOf_modBook_self]
  have goes : ((s.presetListed c v).shutdown.isNone && (s.presetListed c v).freeFor c (s.presetEntry c v).kind) = true := by
    rw [freeListed, show (s.presetListed c v).shutdown = none from runs]
    rfl
  rw [placed]
  unfold Part.take
  rw [requests, List.length_singleton]
  unfold Part.takeUpTo
  rw [requests]
  exact if_pos goes

/-- Its target is committed, and nothing is left listed. -/
theorem postPreset_entry {s : Part} {c : Channel} (free : s.standsFree c) (runs : s.shutdown = none)
    (ordered : s.store.activePreset.envelopesOrdered)
    (referenced : ∀ x : PosChannel, c = x.channel → (s.motionOf c).referenced = true) (v : Int) :
    ((s.postPreset c v).entryOf c).setpoint = s.clampToEnvelope c v ∧ ((s.postPreset c v).entryOf c).origin = .preset
      ∧ ((s.postPreset c v).entryOf c).requests = [] := by
  rw [postPreset_takes free runs]
  let listed : Part := s.presetListed c v
  let e : Entry := s.presetEntry c v
  show (((listed.takeHead c e []).entryOf c).setpoint = _) ∧ ((listed.takeHead c e []).entryOf c).origin = _
    ∧ ((listed.takeHead c e []).entryOf c).requests = _
  let bare : Part := (listed.modBook c fun b => { b with requests := [e] }).modBook c fun b => { b with requests := [] }
  let committed : Part := bare.commit c (s.clampToEnvelope c v) .operator .preset
  have entry : committed.entryOf c =
      { s.entryOf c with setpoint := s.clampToEnvelope c v, origin := .preset, requests := [] } := by
    have twice : bare.clampToEnvelope c (s.clampToEnvelope c v) = s.clampToEnvelope c v := clamp_of_range (clamp_range (ordered c) v)
    rw [entryOf_commit, twice]
    simp [bare, listed, Part.presetListed, entryOf_modBook_self]
  have outcome (t : Part) (same : ∃ last, t.entryOf c = { committed.entryOf c with last := last }) :
      (t.entryOf c).setpoint = s.clampToEnvelope c v ∧ (t.entryOf c).origin = .preset ∧ (t.entryOf c).requests = [] := by
    obtain ⟨last, same⟩ := same
    rw [same, entry]
    exact ⟨rfl, rfl, rfl⟩
  have takes : (bare.takeEntry c e).entryOf c = (committed.handSet c (.request .operator) .set (setScheduling c .operator)
      (committed.driveTarget c) none).entryOf c := by
    unfold Part.takeEntry
    cases c <;> rfl
  have taken : ∃ last, (bare.takeEntry c e).entryOf c = { committed.entryOf c with last := last } := by
    rw [takes]
    exact entryOf_handSet committed c _ (fun jog => MoveKind.noConfusion jog) _ _ _
  have deferred : ∃ last, (bare.deferEntry c e).entryOf c = { committed.entryOf c with last := last } :=
    ⟨_, entryOf_recordOutcome committed c .deferred (.request .operator) none⟩
  cases kind : c.kind with
  | positional x =>
    have refers : (listed.motionOf c).referenced = true := referenced x (channel_of_kind_positional kind)
    have head : listed.takeHead c e [] = bare.takeEntry c e := by
      unfold Part.takeHead
      simp only [kind]
      rw [if_pos refers]
      rfl
    rw [head]
    exact outcome _ taken
  | speed x =>
    have head : listed.takeHead c e [] = if listed.capture.engaged then bare.takeEntry c e else bare.deferEntry c e := by
      unfold Part.takeHead
      simp only [kind]
      rfl
    rw [head]
    split
    · exact outcome _ taken
    · exact outcome _ deferred

end Sys2Proof.Machine
end

section
/-! PROOFS. The Setting Book's part of a parameter application as a whole (R165). -/

namespace Sys2Proof.Machine

theorem Aside.store {c : Channel} {s t : Part} (h : Aside c s t) : t.store = s.store := congrArg (·.store) h.pinned

theorem Aside.reclamp {s : Part} {c d : Channel} (ne : d ≠ c) (loaded : Bool) : Aside c s (s.reclamp loaded d) :=
  ((Local.refl (P := AnyOwner) (W := True) s).reclamp (listFits_any s d) loaded trivial trivial).aside ne

theorem Aside.postPreset {s : Part} {c d : Channel} (ne : d ≠ c) (v : Int) : Aside c s (s.postPreset d v) :=
  ((Local.refl (P := AnyOwner) (W := True) s).postPreset (listFits_any s d) v trivial trivial).aside ne

/-- A channel that neither waits nor is worked on keeps its motion. -/
theorem Aside.motion_eq {c : Channel} {s t : Part} (h : Aside c s t) (idle : (s.motionOf c).phase ≠ .waiting) :
    t.motionOf c = s.motionOf c := h.motion.untouched idle

/-! ### The steps of the application -/

/-- Every setpoint reclamped. -/
def Part.reclamped (s : Part) (o : Order) (loaded : Bool) : Part :=
  (arrange o.channels Channel.all).foldl (fun s c => s.reclamp loaded c) s

/-- A LOAD's modes, holds, pitch offset and louver_trim, before its preset SETs. -/
def Part.loaded (s : Part) (slot : Nat) : Part :=
  let s : Part := ({ s with book := .build fun c => { s.entryOf c with mode := s.params.initialMode.get c } } : Part).removeHolds .operator
  let s : Part := if (s.entryOf .fan).mode = .manual then s.setFanOffset 0 else s
  { s with louverTrim := 0, store := { s.store with activeSlot := some slot, loadMark := none } }

/-- A LOAD's preset SETs posted. -/
def Part.posted (s : Part) : Part := Channel.all.foldl (fun s c => s.postPreset c (s.params.initialSetpoint.get c)) s

theorem bookApplied_none (s : Part) (o : Order) : s.bookApplied o none = ((s.reclamped o false).updateFanTarget).recoverChannels := rfl

theorem bookApplied_some (s : Part) (o : Order) (slot : Nat) :
    s.bookApplied o (some slot) = ((((s.reclamped o true).updateFanTarget).loaded slot).posted).recoverChannels := rfl

theorem reclamped_channel (s : Part) (o : Order) (loaded : Bool) (c : Channel) :
    ∃ u, Aside c s u ∧ Aside c (u.reclamp loaded c) (s.reclamped o loaded) :=
  Aside.foldl_arrange (f := fun s c => s.reclamp loaded c) (fun _ _ ne => Aside.reclamp ne loaded) o s

theorem posted_channel (s : Part) (c : Channel) :
    ∃ u, Aside c s u ∧ Aside c (u.postPreset c (u.params.initialSetpoint.get c)) s.posted :=
  Aside.foldl (f := fun s c => s.postPreset c (s.params.initialSetpoint.get c)) (fun _ _ ne => Aside.postPreset ne _) (by decide)
    (Channel.mem_all c) s

/-- What a LOAD writes before its posts: of each entry the mode and the hold, which is no OPERATOR hold; no motion. -/
theorem loaded_writes (s : Part) (slot : Nat) :
    (∀ c, ∃ hold : Option Hold,
        (s.loaded slot).entryOf c = { s.entryOf c with mode := s.params.initialMode.get c, hold := hold }
          ∧ ∀ k, hold = some k → k.holder = .service)
      ∧ (s.loaded slot).motion = s.motion ∧ (s.loaded slot).override = s.override ∧ (s.loaded slot).shutdown = s.shutdown
      ∧ (s.loaded slot).louverTrim = 0 ∧ (s.loaded slot).store = { s.store with activeSlot := some slot, loadMark := none } := by
  unfold Part.loaded
  extract_lets t u st v
  obtain ⟨book, motion, override, shutdown, store⟩ :
      u.book = t.book ∧ u.motion = s.motion ∧ u.override = s.override ∧ u.shutdown = s.shutdown ∧ u.store = s.store := by
    by_cases manual : (t.entryOf .fan).mode = .manual
    · rw [show u = t.setFanOffset 0 from if_pos manual]
      exact ⟨rfl, rfl, rfl, rfl, rfl⟩
    · rw [show u = t from if_neg manual]
      exact ⟨rfl, rfl, rfl, rfl, rfl⟩
  refine ⟨fun c => ?_, motion, override, shutdown, rfl, by simp [v, st, store]⟩
  obtain ⟨hold, entry, service⟩ := entryOf_removeHolds
    { s with book := .build fun c => { s.entryOf c with mode := s.params.initialMode.get c } } .operator c
  refine ⟨hold, ?_, fun k held => ?_⟩
  · have built : (Part.entryOf { s with book := .build fun c => { s.entryOf c with mode := s.params.initialMode.get c } } c) =
        { s.entryOf c with mode := s.params.initialMode.get c } := PerChannel.get_build _ c
    rw [built] at entry
    exact (entryOf_of_book book c).trans entry
  · have other := service k held
    cases holder : k.holder with
    | operator => exact absurd holder other
    | service => rfl

theorem entryOf_recoverChannels (s : Part) (c : Channel) : s.recoverChannels.entryOf c = s.entryOf c := by
  unfold Part.recoverChannels
  split <;> rfl

theorem store_recoverChannels (s : Part) : s.recoverChannels.store = s.store := by
  unfold Part.recoverChannels
  split <;> rfl

/-! ### The store (R165) -/

theorem store_reclamped (s : Part) (o : Order) (loaded : Bool) : (s.reclamped o loaded).store = s.store := by
  obtain ⟨u, before, after⟩ := reclamped_channel s o loaded .drum
  have here : (u.reclamp loaded .drum).store = u.store := congrArg (·.store)
    ((Local.refl (P := AnyOwner) (W := True) u).reclamp (listFits_any u _) loaded trivial trivial).pinned
  rw [after.store, here, before.store]

theorem store_posted (s : Part) : s.posted.store = s.store := by
  obtain ⟨u, before, after⟩ := posted_channel s .drum
  have here : (u.postPreset .drum (u.params.initialSetpoint.get .drum)).store = u.store := congrArg (·.store)
    ((Local.refl (P := AnyOwner) (W := True) u).postPreset (listFits_any u _) _ trivial trivial).pinned
  rw [after.store, here, before.store]

/-- The Setting Book's part of an application writes of the store the load mark and the active slot. -/
theorem store_bookApplied (s : Part) (o : Order) (mark : Option Nat) (now : s.store.loadMark = mark) :
    (s.bookApplied o mark).store = { s.store with loadMark := none, activeSlot := mark.or s.store.activeSlot } := by
  cases mark with
  | none =>
    rw [bookApplied_none, store_recoverChannels]
    calc _ = { s.store with loadMark := s.store.loadMark, activeSlot := s.store.activeSlot } := store_reclamped s o false
      _ = _ := by rw [now, Option.none_or]
  | some slot =>
    obtain ⟨_, _, _, _, _, store⟩ := loaded_writes ((s.reclamped o true).updateFanTarget) slot
    rw [bookApplied_some, store_recoverChannels, store_posted, store]
    have same : (s.reclamped o true).updateFanTarget.store = s.store := store_reclamped s o true
    rw [same]
    rfl

/-! ### Without a load mark (R59) -/

/-- Every setpoint follows its envelope, where nothing listed commits. -/
theorem bookApplied_reclamps {s : Part} {c : Channel} (fit : s.listFits AnyOwner False c) (o : Order) :
    let t := s.bookApplied o none
    t.listFits AnyOwner False c ∧ (t.entryOf c).setpoint = s.clampToEnvelope c (s.entryOf c).setpoint
      ∧ (t.entryOf c).origin = (s.entryOf c).origin ∧ (t.entryOf c).mode = (s.entryOf c).mode
      ∧ (t.entryOf c).hold = (s.entryOf c).hold := by
  obtain ⟨u, before, after⟩ := reclamped_channel s o false c
  have entry : (s.bookApplied o none).entryOf c = (u.reclamp false c).entryOf c := by
    rw [bookApplied_none, entryOf_recoverChannels]
    exact after.entry
  have reclamped := reclamp_entry (before.listFits fit) false
  rw [before.entry, clampToEnvelope_of_store before.store] at reclamped
  dsimp only
  rw [Part.listFits, entry]
  exact reclamped

/-! ### A LOAD (R94, R165) -/

/-- The channel as a LOAD's posts find it, where it is free. -/
theorem loaded_standsFree {s : Part} {c : Channel} (free : s.standsFree c) (o : Order) (slot : Nat) :
    ((s.reclamped o true).updateFanTarget.loaded slot).standsFree c
      ∧ (((s.reclamped o true).updateFanTarget.loaded slot).motionOf c) = s.motionOf c := by
  obtain ⟨idle, still, calm, empty⟩ := free
  obtain ⟨u, before, after⟩ := reclamped_channel s o true c
  obtain ⟨entries, motion, override, _⟩ := loaded_writes ((s.reclamped o true).updateFanTarget) slot
  obtain ⟨hold, entry, _⟩ := entries c
  obtain ⟨entryU, motionU⟩ := reclamp_unposted (s := u) (c := c) (loaded := true) (.inl rfl)
  have atU : u.motionOf c = s.motionOf c := before.motion_eq (by rw [idle]; decide)
  have same : ((s.reclamped o true).updateFanTarget.loaded slot).motionOf c = s.motionOf c := by
    rw [motionOf_of_motion motion]
    refine (after.motion_eq ?_).trans (motionU.trans atU)
    rw [motionU, atU, idle]
    decide
  have relief : c = .concave → ((s.reclamped o true).updateFanTarget.loaded slot).override.relief.blocks = false := by
    intro concave
    rw [override]
    refine after.relief ?_
    have here : Local AnyOwner True c u (u.reclamp true c) := (Local.refl u).reclamp (listFits_any u c) true trivial trivial
    exact here.relief (before.relief (calm concave))
  have list : (((s.reclamped o true).updateFanTarget.loaded slot).entryOf c).requests = [] := by
    rw [entry]
    show ((s.reclamped o true).entryOf c).requests = []
    rw [after.entry, entryU, before.entry]
    exact empty
  exact ⟨⟨by rw [same, idle], by rw [same, still], relief, list⟩, same⟩

theorem params_loaded (s : Part) (o : Order) (slot : Nat) : ((s.reclamped o true).updateFanTarget.loaded slot).params = s.params := by
  obtain ⟨_, _, _, _, _, store⟩ := loaded_writes ((s.reclamped o true).updateFanTarget) slot
  unfold Part.params
  rw [store]
  exact congrArg (·.activePreset) (store_reclamped s o true)

/-- What every step of a fold keeps, the fold keeps. -/
theorem foldl_keeps {α : Type} {L : Part → Prop} {f : Part → α → Part} (step : ∀ s x, L s → L (f s x)) (l : List α) :
    ∀ {s : Part}, L s → L (l.foldl f s) := by
  induction l with
  | nil => exact fun h => h
  | cons x rest ih => exact fun h => ih (step _ x h)

/-- A LOAD's modes and holds on every channel, and louver_trim. -/
theorem bookApplied_loads (s : Part) (o : Order) (slot : Nat) (c : Channel) : let t := s.bookApplied o (some slot)
    t.louverTrim = 0 ∧ (t.entryOf c).mode = s.params.initialMode.get c ∧ ∀ k, (t.entryOf c).hold = some k → k.holder = .service := by
  have params : (s.reclamped o true).updateFanTarget.params = s.params := congrArg (·.activePreset) (store_reclamped s o true)
  obtain ⟨entries, _, _, _, trim, _⟩ := loaded_writes ((s.reclamped o true).updateFanTarget) slot
  obtain ⟨hold, entry, service⟩ := entries c
  rw [params] at entry
  rw [bookApplied_some]
  generalize (s.reclamped o true).updateFanTarget.loaded slot = w at entry trim
  obtain ⟨u, before, after⟩ := posted_channel w c
  have here : Local AnyOwner True c u (u.postPreset c (u.params.initialSetpoint.get c)) :=
    (Local.refl u).postPreset (listFits_any u c) _ trivial trivial
  have trimmed : w.posted.louverTrim = 0 := by
    refine foldl_keeps (L := fun t : Part => t.louverTrim = 0) (fun t d zero => ?_) Channel.all trim
    have step : Local AnyOwner True d t (t.postPreset d (t.params.initialSetpoint.get d)) :=
      (Local.refl t).postPreset (listFits_any t d) _ trivial trivial
    exact step.trim.elim (fun same => same.trans zero) id
  refine ⟨?_, ?_, fun k held => ?_⟩
  · unfold Part.recoverChannels
    split <;> exact trimmed
  · rw [entryOf_recoverChannels, after.entry, here.mode, before.entry, entry]
  · rw [entryOf_recoverChannels, after.entry, here.hold, before.entry, entry] at held
    exact service k held

/-- A LOAD's preset SET on a free channel. -/
theorem bookApplied_presets {s : Part} {c : Channel} (free : s.standsFree c) (runs : s.shutdown = none)
    (ordered : s.store.activePreset.envelopesOrdered)
    (referenced : ∀ x : PosChannel, c = x.channel → (s.motionOf c).referenced = true) (o : Order) (slot : Nat) :
    let t := s.bookApplied o (some slot)
    (t.entryOf c).setpoint = s.clampToEnvelope c (s.params.initialSetpoint.get c) ∧ (t.entryOf c).origin = .preset
      ∧ (t.entryOf c).requests = [] := by
  obtain ⟨freeW, motionW⟩ := loaded_standsFree free o slot
  have paramsW := params_loaded s o slot
  have runsW : ((s.reclamped o true).updateFanTarget.loaded slot).shutdown = none := by
    obtain ⟨_, _, _, shutdown, _⟩ := loaded_writes ((s.reclamped o true).updateFanTarget) slot
    rw [shutdown]
    have quiet : Quiet s (s.reclamped o true) := Quiet.foldl .refl _ _ fun _ d hd => hd.reclamp true d
    exact (congrArg (·.shutdown) quiet.ground).trans runs
  rw [bookApplied_some]
  generalize (s.reclamped o true).updateFanTarget.loaded slot = w at freeW motionW paramsW runsW
  obtain ⟨u, before, after⟩ := posted_channel w c
  obtain ⟨idle, still, calm, empty⟩ := freeW
  have motionU : u.motionOf c = w.motionOf c := before.motion_eq (by rw [idle]; decide)
  have paramsU : u.params = s.params := (congrArg (·.activePreset) before.store).trans paramsW
  have freeU : u.standsFree c :=
    ⟨by rw [motionU, idle], by rw [motionU, still], fun concave => before.relief (calm concave), by rw [before.entry, empty]⟩
  have orderedU : u.store.activePreset.envelopesOrdered := by
    show u.params.envelopesOrdered
    rw [paramsU]
    exact ordered
  have runsU : u.shutdown = none := (congrArg (·.shutdown) before.pinned).trans runsW
  have posted := postPreset_entry freeU runsU orderedU (fun x at' => by rw [motionU, motionW]; exact referenced x at')
    (u.params.initialSetpoint.get c)
  have clamped (v : Int) : u.clampToEnvelope c v = s.clampToEnvelope c v := by
    unfold Part.clampToEnvelope Part.envelope
    rw [paramsU]
  dsimp only
  rw [entryOf_recoverChannels, after.entry, paramsU]
  rw [clamped, paramsU] at posted
  exact posted

/-- Plug Relief never comes to block CONCAVE. -/
theorem bookApplied_relief {s : Part} (calm : s.override.relief.blocks = false) (o : Order) (mark : Option Nat) :
    (s.bookApplied o mark).override.relief.blocks = false := by
  have reclaimed (loaded : Bool) : (s.reclamped o loaded).override.relief.blocks = false :=
    foldl_keeps (L := fun t : Part => t.override.relief.blocks = false) (fun t d calm' =>
      ((Local.refl (P := AnyOwner) (W := True) t).reclamp (listFits_any t d) loaded trivial trivial).relief calm') _ calm
  have recovered (t : Part) : t.recoverChannels.override = t.override := by
    unfold Part.recoverChannels
    split <;> rfl
  cases mark with
  | none =>
    rw [bookApplied_none, recovered]
    exact reclaimed false
  | some slot =>
    obtain ⟨_, _, override, _⟩ := loaded_writes ((s.reclamped o true).updateFanTarget) slot
    rw [bookApplied_some, recovered]
    refine foldl_keeps (L := fun t : Part => t.override.relief.blocks = false) (fun t d calm' =>
      ((Local.refl (P := AnyOwner) (W := True) t).postPreset (listFits_any t d) _ trivial trivial).relief calm') _ ?_
    rw [override]
    exact reclaimed true

/-! ### The channels that recover (R114) -/

theorem isFaulted_of_phase {s : Part} {c : Channel} {cause : FaultCause} (faulted : (s.motionOf c).phase = .faulted cause) :
    s.isFaulted c = true := by
  unfold Part.isFaulted
  rw [faulted]

theorem motionOf_recoverChannels {s : Part} (valid : s.store.activeCal.valid = true) (c : Channel) :
    s.recoverChannels.motionOf c = (s.motionOf c).recover := by
  unfold Part.recoverChannels
  rw [if_pos valid, Part.motionOf, PerChannel.get_build]

/-- A channel FAULTED for want of a calibration recovers under a valid one; nothing is listed for it meanwhile. -/
theorem bookApplied_recovers {s : Part} {c : Channel} (valid : s.store.activeCal.valid = true)
    (faulted : (s.motionOf c).phase = .faulted .noCalibration) (empty : (s.entryOf c).requests = []) (o : Order) (mark : Option Nat) :
    let t := s.bookApplied o mark
    (t.motionOf c).phase = .idle ∧ (t.motionOf c).referenced = false ∧ (t.motionOf c).position = 0
      ∧ (t.entryOf c).requests = [] := by
  have resting {m : Motion} (same : m = s.motionOf c) : m.phase ≠ .waiting := by
    rw [same, faulted]
    decide
  have reclaims (loaded : Bool) : (s.reclamped o loaded).motionOf c = s.motionOf c ∧ ((s.reclamped o loaded).entryOf c).requests = [] := by
    obtain ⟨u, before, after⟩ := reclamped_channel s o loaded c
    have atU : u.motionOf c = s.motionOf c := before.motion_eq (resting rfl)
    obtain ⟨entryU, motionU⟩ := reclamp_unposted (loaded := loaded) (.inr (isFaulted_of_phase (atU ▸ faulted)))
    refine ⟨(after.motion_eq (resting (motionU.trans atU))).trans (motionU.trans atU), ?_⟩
    rw [after.entry, entryU, before.entry]
    exact empty
  have recovers (v : Part) (motion : v.motionOf c = s.motionOf c) (list : (v.entryOf c).requests = [])
      (still : v.store.activeCal = s.store.activeCal) : (v.recoverChannels.motionOf c).phase = .idle
        ∧ (v.recoverChannels.motionOf c).referenced = false ∧ (v.recoverChannels.motionOf c).position = 0
        ∧ (v.recoverChannels.entryOf c).requests = [] := by
    rw [motionOf_recoverChannels (by rw [still]; exact valid), entryOf_recoverChannels, motion]
    unfold Motion.recover
    rw [if_pos faulted]
    exact ⟨rfl, rfl, rfl, list⟩
  cases mark with
  | none =>
    obtain ⟨motion, list⟩ := reclaims false
    exact recovers ((s.reclamped o false).updateFanTarget) motion list (congrArg (·.activeCal) (store_reclamped s o false))
  | some slot =>
    obtain ⟨motion, list⟩ := reclaims true
    obtain ⟨entries, motionW, _, _, _, storeW⟩ := loaded_writes ((s.reclamped o true).updateFanTarget) slot
    obtain ⟨hold, entry, _⟩ := entries c
    have atW : ((s.reclamped o true).updateFanTarget.loaded slot).motionOf c = s.motionOf c :=
      (motionOf_of_motion motionW c).trans motion
    have listW : (((s.reclamped o true).updateFanTarget.loaded slot).entryOf c).requests = [] := by
      rw [entry]
      exact list
    have calW : ((s.reclamped o true).updateFanTarget.loaded slot).store.activeCal = s.store.activeCal := by
      rw [storeW]
      exact congrArg (·.activeCal) (store_reclamped s o true)
    rw [bookApplied_some]
    generalize (s.reclamped o true).updateFanTarget.loaded slot = w at atW listW calW
    obtain ⟨u, before, after⟩ := posted_channel w c
    have atU : u.motionOf c = s.motionOf c := (before.motion_eq (resting atW)).trans atW
    rw [postPreset_of_faulted (isFaulted_of_phase (atU ▸ faulted))] at after
    refine recovers w.posted ((after.motion_eq (resting atU)).trans atU) ?_ ?_
    · rw [after.entry, before.entry, listW]
    · rw [← calW]
      exact congrArg (·.activeCal) (after.store.trans before.store)

end Sys2Proof.Machine
end

section
/-! PROOFS. A parameter application as a whole: its tasks, the Setting Book's among them, in the command's order (R14, R165). -/

namespace Sys2Proof.Machine

/-! ### The tasks -/

/-- What is in force before an application. -/
def Part.inForce (s : Part) (n : Nat) : Applied :=
  { preset := s.presetDiffers, calibration := s.calDiffers, mark := s.store.loadMark, nextNumber := n
    minHarvestSpeed := s.params.minHarvestSpeed, arbiterMode := s.params.arbiterMode, rank := s.params.rank
    reliefEnable := s.params.relief.enable }

/-- Some of the tasks run in turn. -/
def Part.applyAll (s : Part) (o : Order) (a : Applied) (l : List Task) : Part := l.foldl (fun s k => s.applyTask o a k) s

theorem applyParameters_eq (s : Part) (o : Order) (n : Nat) : s.applyParameters o n =
    if s.presetDiffers || s.calDiffers then s.copySets.applyAll o (s.inForce n) (arrange o.tasks applyTasks) else s := rfl

/-- The tasks before and after one of them. -/
theorem arrange_applyTasks (o : Order) {k : Task} (mem : k ∈ applyTasks) : ∃ before after : List Task,
    arrange o.tasks applyTasks = before ++ k :: after ∧ (∀ x ∈ before, x ≠ k) ∧ ∀ x ∈ after, x ≠ k := by
  obtain ⟨before, after, split⟩ := List.append_of_mem ((mem_arrange o.tasks applyTasks k).2 mem)
  have once := arrange_nodup o.tasks applyTasks (by decide)
  rw [split, List.nodup_append] at once
  obtain ⟨_, onceAfter, apart⟩ := once
  exact ⟨before, after, split, fun x hx e => apart x hx k List.mem_cons_self e,
    fun x hx e => (List.nodup_cons.1 onceAfter).1 (e ▸ hx)⟩

theorem applyAll_append (s : Part) (o : Order) (a : Applied) (before after : List Task) (k : Task) :
    s.applyAll o a (before ++ k :: after) = ((s.applyAll o a before).applyTask o a k).applyAll o a after := by
  unfold Part.applyAll
  rw [List.foldl_append, List.foldl_cons]

theorem applyAll_quiet (s : Part) (o : Order) (a : Applied) (l : List Task) : Quiet s (s.applyAll o a l) :=
  Quiet.foldl .refl _ _ fun _ k hk => hk.applyTask o a k

/-- What every task of a list keeps. -/
theorem applyAll_keeps {L : Part → Prop} {o : Order} {a : Applied} {l : List Task}
    (step : ∀ s : Part, ∀ k ∈ l, L s → L (s.applyTask o a k)) : ∀ {s : Part}, L s → L (s.applyAll o a l) := by
  induction l with
  | nil => exact fun h => h
  | cons k rest ih =>
    intro s h
    exact ih (fun t x hx => step t x (List.mem_cons_of_mem _ hx)) (step s k List.mem_cons_self h)

/-! ### The tasks beside the Setting Book's -/

/-- Beside the Setting Book's, one task alone writes a motion, an entry or Plug Relief's state: that of the Override Unit. -/
theorem applyTask_side (s : Part) (o : Order) (a : Applied) {k : Task} (side : k ≠ .settingBook) :
    s.applyTask o a k = s.reliefApplied ∨ ((s.applyTask o a k).book = s.book ∧ (s.applyTask o a k).motion = s.motion
      ∧ (s.applyTask o a k).store = s.store ∧ (s.applyTask o a k).override = s.override
      ∧ (s.louverTrim = 0 → (s.applyTask o a k).louverTrim = 0)) := by
  unfold Part.applyTask
  split
  · exact absurd rfl side
  · refine .inr ?_
    split
    · unfold Part.judgeHarvesting
      dsimp only
      split
      · exact ⟨rfl, rfl, rfl, rfl, id⟩
      · exact ⟨rfl, rfl, rfl, rfl, id⟩
    · exact ⟨rfl, rfl, rfl, rfl, id⟩
  · split
    · exact .inl rfl
    · exact .inr ⟨rfl, rfl, rfl, rfl, id⟩
  · refine .inr ?_
    split
    · exact ⟨rfl, rfl, rfl, rfl, id⟩
    · exact ⟨rfl, rfl, rfl, rfl, id⟩
  · refine .inr ⟨rfl, rfl, rfl, rfl, fun zero => ?_⟩
    unfold Part.limitLouverTrim
    dsimp only
    rw [zero]
    exact clamp_of_range (by omega)
  · exact .inr (by simp)
  all_goals exact .inr ⟨rfl, rfl, rfl, rfl, id⟩

/-- The Override Unit's task touches nothing of CONCAVE where relief does not block it and nothing is listed for it. -/
theorem reliefApplied_calm {s : Part} (calm : s.override.relief.blocks = false) (empty : (s.entryOf .concave).requests = []) :
    s.reliefApplied.entryOf .concave = s.entryOf .concave ∧ s.reliefApplied.motionOf .concave = s.motionOf .concave := by
  have untaken (t : Part) (book : t.entryOf .concave = s.entryOf .concave) (motion : t.motion = s.motion) :
      (t.take .concave).entryOf .concave = s.entryOf .concave ∧ (t.take .concave).motionOf .concave = s.motionOf .concave := by
    rw [take_of_nil (by rw [book, empty])]
    exact ⟨book, motionOf_of_motion motion _⟩
  have disarmed := untaken s.disarm (entryOf_of_book (book_disarm s).1 _) (book_disarm s).2
  unfold Part.reliefApplied
  split
  · exact untaken _ (entryOf_judgeRelief s _) (motion_judgeRelief s)
  · unfold Part.disableRelief
    dsimp only
    split
    case h_1 opening => rw [opening] at calm; cases calm
    case h_2 openHeld => rw [openHeld] at calm; cases calm
    case h_3 returning => rw [returning] at calm; cases calm
    case h_7 => exact untaken s rfl rfl
    all_goals exact disarmed

theorem reliefApplied_local (s : Part) : Local AnyOwner True .concave s s.reliefApplied :=
  (Local.refl s).reliefApplied (listFits_any s _) trivial

section

variable {s : Part} (o : Order) (a : Applied) {k : Task} (side : k ≠ .settingBook)
include side

theorem side_store : (s.applyTask o a k).store = s.store := by
  rcases applyTask_side s o a side with relief | ⟨_, _, store, _⟩
  · rw [relief]
    exact congrArg (·.store) (reliefApplied_local s).pinned
  · exact store

theorem side_trim (zero : s.louverTrim = 0) : (s.applyTask o a k).louverTrim = 0 := by
  rcases applyTask_side s o a side with relief | ⟨_, _, _, _, trim⟩
  · rw [relief]
    exact (reliefApplied_local s).trim.elim (fun same => same.trans zero) id
  · exact trim zero

theorem side_relief (calm : s.override.relief.blocks = false) : (s.applyTask o a k).override.relief.blocks = false := by
  rcases applyTask_side s o a side with relief | ⟨_, _, _, override, _⟩
  · rw [relief]
    exact (reliefApplied_local s).relief calm
  · rw [override]
    exact calm

/-- The Override Unit's task on CONCAVE, seen from any channel whose list commits nothing. -/
theorem side_silent {c : Channel} (fit : s.listFits AnyOwner False c) : (s.applyTask o a k).listFits AnyOwner False c
    ∧ ((s.applyTask o a k).entryOf c).setpoint = (s.entryOf c).setpoint
    ∧ ((s.applyTask o a k).entryOf c).origin = (s.entryOf c).origin ∧ ((s.applyTask o a k).entryOf c).mode = (s.entryOf c).mode
    ∧ ((s.applyTask o a k).entryOf c).hold = (s.entryOf c).hold := by
  have unchanged (t : Part) (entry : t.entryOf c = s.entryOf c) : t.listFits AnyOwner False c
      ∧ (t.entryOf c).setpoint = (s.entryOf c).setpoint ∧ (t.entryOf c).origin = (s.entryOf c).origin
      ∧ (t.entryOf c).mode = (s.entryOf c).mode ∧ (t.entryOf c).hold = (s.entryOf c).hold := by
    rw [Part.listFits, entry]
    exact ⟨fit, rfl, rfl, rfl, rfl⟩
  rcases applyTask_side s o a side with relief | ⟨book, _⟩
  · rw [relief]
    by_cases concave : c = .concave
    · subst concave
      have work : Local AnyOwner False .concave s s.reliefApplied := (Local.refl s).reliefApplied fit trivial
      obtain ⟨setpoint, origin⟩ := work.setpoint id
      exact ⟨work.lists fit, setpoint, origin, work.mode, work.hold⟩
    · exact unchanged _ ((reliefApplied_local s).entries c concave)
  · exact unchanged _ (entryOf_of_book book c)

theorem side_mode (c : Channel) : ((s.applyTask o a k).entryOf c).mode = (s.entryOf c).mode
    ∧ ((s.applyTask o a k).entryOf c).hold = (s.entryOf c).hold := by
  rcases applyTask_side s o a side with relief | ⟨book, _⟩
  · rw [relief]
    by_cases concave : c = .concave
    · subst concave
      exact ⟨(reliefApplied_local s).mode, (reliefApplied_local s).hold⟩
    · rw [(reliefApplied_local s).entries c concave]
      exact ⟨rfl, rfl⟩
  · rw [entryOf_of_book book]
    exact ⟨rfl, rfl⟩

/-- A channel that relief does not block, with nothing listed, keeps its entry, and its motion but for a grant. -/
theorem side_calm {c : Channel} (calm : c = .concave → s.override.relief.blocks = false) (empty : (s.entryOf c).requests = []) :
    (s.applyTask o a k).entryOf c = s.entryOf c ∧ (s.motionOf c).Follows ((s.applyTask o a k).motionOf c)
      ∧ (c = .concave → (s.applyTask o a k).override.relief.blocks = false) := by
  refine ⟨?_, ?_, fun concave => side_relief o a side (calm concave)⟩
  all_goals
    rcases applyTask_side s o a side with relief | ⟨book, motion, _⟩
  · rw [relief]
    by_cases concave : c = .concave
    · subst concave
      exact (reliefApplied_calm (calm rfl) empty).1
    · exact (reliefApplied_local s).entries c concave
  · exact entryOf_of_book book c
  · rw [relief]
    by_cases concave : c = .concave
    · subst concave
      exact .of_eq (reliefApplied_calm (calm rfl) empty).2
    · exact (reliefApplied_local s).motions c concave
  · exact .of_eq (motionOf_of_motion motion c)

end

/-! ### Several such tasks in turn -/

section

variable {s : Part} (o : Order) (a : Applied) {l : List Task} (side : ∀ x ∈ l, x ≠ .settingBook)
include side

theorem sides_store : (s.applyAll o a l).store = s.store :=
  applyAll_keeps (L := fun t : Part => t.store = s.store) (fun _ k hk same => (side_store o a (side k hk)).trans same) rfl

theorem sides_trim (zero : s.louverTrim = 0) : (s.applyAll o a l).louverTrim = 0 :=
  applyAll_keeps (L := fun t : Part => t.louverTrim = 0) (fun _ k hk => side_trim o a (side k hk)) zero

theorem sides_mode (c : Channel) : ((s.applyAll o a l).entryOf c).mode = (s.entryOf c).mode
    ∧ ((s.applyAll o a l).entryOf c).hold = (s.entryOf c).hold :=
  applyAll_keeps (L := fun t : Part => (t.entryOf c).mode = (s.entryOf c).mode ∧ (t.entryOf c).hold = (s.entryOf c).hold)
    (fun _ k hk ⟨mode, hold⟩ => ⟨(side_mode o a (side k hk) c).1.trans mode, (side_mode o a (side k hk) c).2.trans hold⟩) ⟨rfl, rfl⟩

theorem sides_silent {c : Channel} (fit : s.listFits AnyOwner False c) : (s.applyAll o a l).listFits AnyOwner False c
    ∧ ((s.applyAll o a l).entryOf c).setpoint = (s.entryOf c).setpoint
    ∧ ((s.applyAll o a l).entryOf c).origin = (s.entryOf c).origin ∧ ((s.applyAll o a l).entryOf c).mode = (s.entryOf c).mode
    ∧ ((s.applyAll o a l).entryOf c).hold = (s.entryOf c).hold := by
  refine applyAll_keeps (L := fun t : Part => t.listFits AnyOwner False c ∧ (t.entryOf c).setpoint = (s.entryOf c).setpoint
    ∧ (t.entryOf c).origin = (s.entryOf c).origin ∧ (t.entryOf c).mode = (s.entryOf c).mode
    ∧ (t.entryOf c).hold = (s.entryOf c).hold) (fun t k hk h => ?_) ⟨fit, rfl, rfl, rfl, rfl⟩
  obtain ⟨fit', setpoint, origin, mode, hold⟩ := h
  obtain ⟨fit'', setpoint', origin', mode', hold'⟩ := side_silent o a (side k hk) fit'
  exact ⟨fit'', setpoint'.trans setpoint, origin'.trans origin, mode'.trans mode, hold'.trans hold⟩

theorem sides_calm {c : Channel} (calm : c = .concave → s.override.relief.blocks = false) (empty : (s.entryOf c).requests = []) :
    (s.applyAll o a l).entryOf c = s.entryOf c ∧ (s.motionOf c).Follows ((s.applyAll o a l).motionOf c)
      ∧ (c = .concave → (s.applyAll o a l).override.relief.blocks = false) := by
  refine applyAll_keeps (L := fun t : Part => t.entryOf c = s.entryOf c ∧ (s.motionOf c).Follows (t.motionOf c)
    ∧ (c = .concave → t.override.relief.blocks = false)) (fun t k hk h => ?_) ⟨rfl, .refl _, calm⟩
  obtain ⟨entry, follows, relief⟩ := h
  obtain ⟨entry', follows', relief'⟩ := side_calm o a (side k hk) relief (by rw [entry, empty])
  exact ⟨entry'.trans entry, follows.trans follows', relief'⟩

end

/-! ### The application -/

/-- The state before and after the Setting Book's task. -/
theorem applyParameters_split (p : Part) (o : Order) (n : Nat) (differs : (p.presetDiffers || p.calDiffers) = true) :
    ∃ before after : List Task, (∀ x ∈ before, x ≠ .settingBook) ∧ (∀ x ∈ after, x ≠ .settingBook)
      ∧ p.applyParameters o n =
        ((p.copySets.applyAll o (p.inForce n) before).bookApplied o p.store.loadMark).applyAll o (p.inForce n) after := by
  obtain ⟨before, after, split, sideBefore, sideAfter⟩ := arrange_applyTasks o (k := .settingBook) (by decide)
  refine ⟨before, after, sideBefore, sideAfter, ?_⟩
  rw [applyParameters_eq, if_pos differs, split, applyAll_append]
  rfl

section

variable {p : Part} (o : Order) (n : Nat) (differs : (p.presetDiffers || p.calDiffers) = true)
include differs

theorem applyParameters_store : (p.applyParameters o n).store =
    { p.copySets.store with loadMark := none, activeSlot := p.store.loadMark.or p.store.activeSlot } := by
  obtain ⟨before, after, sideBefore, sideAfter, split⟩ := applyParameters_split p o n differs
  have first : (p.copySets.applyAll o (p.inForce n) before).store = p.copySets.store := sides_store o _ sideBefore
  have mark : (p.copySets.applyAll o (p.inForce n) before).store.loadMark = p.store.loadMark := congrArg (·.loadMark) first
  rw [split, sides_store o _ sideAfter, store_bookApplied _ o _ mark, first]
  rfl

/-- PARAMS_APPLIED finds room, or the queue is full and stays so (R176). -/
theorem applyParameters_notifies :
    (p.applyParameters o n).notified .paramsApplied none (ofFlag p.presetDiffers + 2 * ofFlag p.calDiffers).toNat
      (p.store.loadMark.getD 0xFFFF) n ∨ 24 ≤ (p.applyParameters o n).bus.queue.length := by
  obtain ⟨before, after, split, _⟩ := arrange_applyTasks o (k := .paramsApplied) (by decide)
  rw [applyParameters_eq, if_pos differs, split, applyAll_append]
  generalize p.copySets.applyAll o (p.inForce n) before = u
  have quiet := applyAll_quiet (u.applyTask o (p.inForce n) .paramsApplied) o (p.inForce n) after
  by_cases room : u.bus.queue.length < 24
  · exact .inl (quiet.notified (raiseIn_notified u n .paramsApplied none _ _ room))
  · have step : Quiet u (u.applyTask o (p.inForce n) .paramsApplied) := Quiet.applyTask .refl o _ _
    exact .inr ((Nat.not_lt.1 room).trans (step.queue.2.trans quiet.queue.2))

theorem applyParameters_reclamps (unmarked : p.store.loadMark = none) {c : Channel} (empty : (p.entryOf c).requests = []) :
    let t := p.applyParameters o n
    (t.entryOf c).setpoint = p.copySets.clampToEnvelope c (p.entryOf c).setpoint ∧ (t.entryOf c).origin = (p.entryOf c).origin
      ∧ (t.entryOf c).mode = (p.entryOf c).mode ∧ (t.entryOf c).hold = (p.entryOf c).hold := by
  obtain ⟨before, after, sideBefore, sideAfter, split⟩ := applyParameters_split p o n differs
  have fit : p.copySets.listFits AnyOwner False c := by
    intro e mem
    have none : (p.copySets.entryOf c).requests = [] := empty
    rw [none] at mem
    exact absurd mem List.not_mem_nil
  obtain ⟨fit1, setpoint1, origin1, mode1, hold1⟩ := sides_silent o (p.inForce n) sideBefore fit
  obtain ⟨fit2, setpoint2, origin2, mode2, hold2⟩ := bookApplied_reclamps fit1 o
  obtain ⟨_, setpoint3, origin3, mode3, hold3⟩ := sides_silent o (p.inForce n) sideAfter fit2
  dsimp only
  rw [split, unmarked]
  refine ⟨?_, origin3.trans (origin2.trans origin1), mode3.trans (mode2.trans mode1), hold3.trans (hold2.trans hold1)⟩
  rw [setpoint3, setpoint2, setpoint1, clampToEnvelope_of_store (sides_store o _ sideBefore)]
  rfl

theorem applyParameters_loads {slot : Nat} (marked : p.store.loadMark = some slot) (c : Channel) :
    let t := p.applyParameters o n
    t.louverTrim = 0 ∧ (t.entryOf c).mode = p.copySets.params.initialMode.get c
      ∧ ∀ k, (t.entryOf c).hold = some k → k.holder = .service := by
  obtain ⟨before, after, sideBefore, sideAfter, split⟩ := applyParameters_split p o n differs
  have params : (p.copySets.applyAll o (p.inForce n) before).params = p.copySets.params :=
    congrArg (·.activePreset) (sides_store o _ sideBefore)
  obtain ⟨trim, mode, hold⟩ := bookApplied_loads (p.copySets.applyAll o (p.inForce n) before) o slot c
  dsimp only
  rw [split, marked]
  obtain ⟨mode', hold'⟩ := sides_mode (s := (p.copySets.applyAll o (p.inForce n) before).bookApplied o (some slot)) o (p.inForce n)
    sideAfter c
  refine ⟨sides_trim o _ sideAfter trim, by rw [mode', mode, params], fun k held => hold k ?_⟩
  rw [← hold']
  exact held

theorem applyParameters_presets {slot : Nat} (marked : p.store.loadMark = some slot) {c : Channel} (free : p.standsFree c)
    (runs : p.shutdown = none) (ordered : p.copySets.params.envelopesOrdered)
    (referenced : ∀ x : PosChannel, c = x.channel → (p.motionOf c).referenced = true) :
    let t := p.applyParameters o n
    (t.entryOf c).setpoint = p.copySets.clampToEnvelope c (p.copySets.params.initialSetpoint.get c) ∧ (t.entryOf c).origin = .preset
      ∧ (t.entryOf c).requests = [] := by
  obtain ⟨before, after, sideBefore, sideAfter, split⟩ := applyParameters_split p o n differs
  obtain ⟨idle, still, calm, empty⟩ := free
  obtain ⟨entry, follows, relief⟩ := sides_calm (s := p.copySets) o (p.inForce n) sideBefore calm empty
  have store := sides_store (s := p.copySets) o (p.inForce n) sideBefore
  have quiet := applyAll_quiet p.copySets o (p.inForce n) before
  dsimp only
  rw [split, marked]
  generalize p.copySets.applyAll o (p.inForce n) before = u at entry follows relief store quiet
  have motion : u.motionOf c = p.motionOf c :=
    follows.untouched (by rw [show (p.copySets.motionOf c).phase = .idle from idle]; decide)
  have params : u.params = p.copySets.params := congrArg (·.activePreset) store
  have freeU : u.standsFree c := ⟨by rw [motion, idle], by rw [motion, still], relief, by rw [entry]; exact empty⟩
  have runsU : u.shutdown = none := (congrArg (·.shutdown) quiet.ground).trans runs
  have orderedU : u.store.activePreset.envelopesOrdered := by
    show u.params.envelopesOrdered
    rw [params]
    exact ordered
  obtain ⟨setpoint, origin, list⟩ := bookApplied_presets freeU runsU orderedU
    (fun x at' => by rw [motion]; exact referenced x at') o slot
  have calmV : c = .concave → (u.bookApplied o (some slot)).override.relief.blocks = false :=
    fun concave => bookApplied_relief (relief concave) o _
  obtain ⟨entry', _, _⟩ := sides_calm o (p.inForce n) sideAfter calmV list
  rw [entry']
  refine ⟨?_, origin, list⟩
  rw [setpoint, params, clampToEnvelope_of_store store]

theorem applyParameters_recovers {c : Channel} (valid : p.store.pendingCal.valid = true)
    (faulted : (p.motionOf c).phase = .faulted .noCalibration) (empty : (p.entryOf c).requests = [])
    (calm : c = .concave → p.override.relief.blocks = false) : let t := p.applyParameters o n
    (t.motionOf c).phase = .idle ∧ (t.motionOf c).referenced = false ∧ (t.motionOf c).position = 0 := by
  obtain ⟨before, after, sideBefore, sideAfter, split⟩ := applyParameters_split p o n differs
  obtain ⟨entry, follows, relief⟩ := sides_calm (s := p.copySets) o (p.inForce n) sideBefore calm empty
  have store := sides_store (s := p.copySets) o (p.inForce n) sideBefore
  dsimp only
  rw [split]
  generalize p.copySets.applyAll o (p.inForce n) before = u at entry follows relief store
  have motion : u.motionOf c = p.motionOf c :=
    follows.untouched (by rw [show (p.copySets.motionOf c).phase = _ from faulted]; decide)
  obtain ⟨idle, unreferenced, zero, list⟩ := bookApplied_recovers (s := u) (c := c) (by rw [store]; exact valid)
    (by rw [motion, faulted]) (by rw [entry]; exact empty) o p.store.loadMark
  have calmV : c = .concave → (u.bookApplied o p.store.loadMark).override.relief.blocks = false :=
    fun concave => bookApplied_relief (relief concave) o _
  obtain ⟨_, follows', _⟩ := sides_calm o (p.inForce n) sideAfter calmV list
  rw [follows'.untouched (by rw [idle]; decide)]
  exact ⟨idle, unreferenced, zero⟩

end

end Sys2Proof.Machine
end

section
/-! PROOFS. The FULL close, settled (R10 to R22, R59, R94, R114, R165). -/

namespace Sys2Proof.Machine

theorem presetDiffers_iff (p : Part) :
    p.presetDiffers = true ↔ ¬(p.store.pendingPreset = p.store.activePreset ∧ p.store.loadMark = none) := by
  unfold Part.presetDiffers
  rw [Bool.or_eq_true, decide_eq_true_iff, Option.isSome_iff_ne_none]
  tauto

theorem calDiffers_iff (p : Part) : p.calDiffers = true ↔ p.store.pendingCal ≠ p.store.activeCal := decide_eq_true_iff

/-- Where no pending set differs and none carries a load mark, an application changes nothing (R165). -/
theorem applyParameters_same {p : Part} (preset : p.store.pendingPreset = p.store.activePreset ∧ p.store.loadMark = none)
    (cal : p.store.pendingCal = p.store.activeCal) (o : Order) (n : Nat) : p.applyParameters o n = p := by
  have noPreset : p.presetDiffers = false := Bool.eq_false_iff.2 fun h => (presetDiffers_iff p).1 h preset
  have noCal : p.calDiffers = false := Bool.eq_false_iff.2 fun h => (calDiffers_iff p).1 h cal
  rw [applyParameters_eq, noPreset, noCal]
  exact if_neg (by decide)

theorem differs_of_not_same {p : Part} (differ : ¬((p.store.pendingPreset = p.store.activePreset ∧ p.store.loadMark = none)
    ∧ p.store.pendingCal = p.store.activeCal)) : (p.presetDiffers || p.calDiffers) = true := by
  rw [Bool.or_eq_true, presetDiffers_iff, calDiffers_iff]
  tauto

/-- The detail of PARAMS_APPLIED: 1 for the preset set, 2 for the calibration, 3 for both. -/
theorem appliedDetail_eq (preset cal : Bool) {d8 : Nat} (one : d8 = 1 ∨ d8 = 3 ↔ preset = true) (two : d8 = 2 ∨ d8 = 3 ↔ cal = true)
    (some : (preset || cal) = true) : (ofFlag preset + 2 * ofFlag cal).toNat = d8 := by
  cases preset <;> cases cal <;> simp [ofFlag] at * <;> omega

/-! ### The runs of a record, as the obligation names them (R18 to R20) -/

section

variable (p : Part) (l : Latched)

theorem silenced_iff (r : WindowRecord) (i : LossInput) : p.silenced l i = true ↔
    (p.window.silentRun.get i).silent = false ∧ (((p.raiseRuns l).advanceRuns l r).window.silentRun.get i).silent = true := by
  have next : (p.nextSilentRuns l).get i = ((p.raiseRuns l).advanceRuns l r).window.silentRun.get i := by
    rw [silentRun_advanced]
    cases i <;> rfl
  unfold Part.silenced
  rw [next, Bool.and_eq_true, Bool.not_eq_true', and_comm]

theorem faultReached_iff (v : SpeedChannel) : p.faultReached l v = true ↔
    (p.window.engaged = true ∧ (l.speed.get v).count = 0) ∧ p.window.faultRun.get v = 1 := by
  unfold Part.faultReached
  rw [Bool.and_eq_true, stoppedEngaged_iff, decide_eq_true_iff]

theorem LossInput.mem_all (i : LossInput) : i ∈ LossInput.all := by cases i <;> decide

theorem SpeedChannel.mem_all (v : SpeedChannel) : v ∈ SpeedChannel.all := by cases v <;> decide

/-- The tags of a record: the latched marks, and what its inputs and their runs show. -/
theorem tagsOf_iff (r : WindowRecord) : let t := (p.raiseRuns l).advanceRuns l r
    ((p.tagsOf l).short = true ↔ l.cause = .partialClose)
      ∧ ((p.tagsOf l).saturated = true ↔ ∃ i, (l.loss.get i).saturated = true)
      ∧ ((p.tagsOf l).sensorSilent = true ↔ ∃ i, (t.window.silentRun.get i).silent = true)
      ∧ ((p.tagsOf l).speedFault = true ↔ ∃ v, p.window.engaged = true ∧ (l.speed.get v).count = 0) := by
  have next (i : LossInput) : ((p.raiseRuns l).advanceRuns l r).window.silentRun.get i = (p.nextSilentRuns l).get i := by
    rw [silentRun_advanced]
    cases i <;> rfl
  refine ⟨by simp [Part.tagsOf], ?_, ?_, ?_⟩
  · simp [Part.tagsOf, LossInput.mem_all]
  · simp [Part.tagsOf, LossInput.mem_all, next]
  · simp [Part.tagsOf, SpeedChannel.mem_all, stoppedEngaged_iff]

end

/-! ### The frames that the readers queue (R178) -/

theorem send_bookFrames (u : Part) (l : List Channel) : ∀ b : Bus,
    l.foldl (fun s c => s.send (s.bookFrame c)) { u with bus := b } =
      { u with bus := l.foldl (fun b c => b.push ⟨u.cal.nodeAddress, u.bookFrame c⟩) b } := by
  induction l with
  | nil => exact fun _ => rfl
  | cons c rest ih => exact fun b => ih (b.push ⟨u.cal.nodeAddress, u.bookFrame c⟩)

theorem send_frames (u : Part) (l : List FrameBody) : ∀ b : Bus,
    l.foldl (fun s f => s.send f) { u with bus := b } =
      { u with bus := l.foldl (fun b f => b.push ⟨u.cal.nodeAddress, f⟩) b } := by
  induction l with
  | nil => exact fun _ => rfl
  | cons f rest ih => exact fun b => ih (b.push ⟨u.cal.nodeAddress, f⟩)

/-- A frame body as queued. -/
def Part.framed (u : Part) (body : FrameBody) : Frame := ⟨u.store.activeCal.figures.nodeAddress, body⟩

theorem sendBook_eq (u : Part) : u.sendBook =
    let frame := fun c => u.framed (u.bookFrame c)
    let bus := ((u.bus.push (frame .drum)).push (frame .concave)).push (frame .upperSieve)
    { u with bus := ((bus.push (frame .lowerSieve)).push (frame .fan)).push (frame .louver) } := by
  refine (send_bookFrames u Channel.all u.bus).trans ?_
  simp only [Channel.all, List.foldl_cons, List.foldl_nil, Part.framed, Part.cal]

theorem sendReport_eq (u : Part) (o : Order) (r : WindowRecord) : u.appendTask o r .windowReport =
    let e := u.evaluator.evaluation
    let one := u.framed (.windowReport1 (r.number % 65536) r.sl r.lossIndex.walker r.imb u.window.number)
    let two := u.framed (.windowReport2 r.rpm.drum r.rpm.fan r.tailPm r.load u.window.number)
    let three := u.framed (.windowReport3 r.roll r.pitch e.symptoms e.grainAvailable e.side r.tags (r.number % 256) u.window.number)
    { u with bus := ((u.bus.push one).push two).push three } := by
  refine (send_frames u (u.reportFrames r) u.bus).trans ?_
  simp only [Part.reportFrames, List.foldl_cons, List.foldl_nil, Part.framed, Part.cal]

end Sys2Proof.Machine

open Sys2Proof Sys2Proof.Machine

/-- Settles O24: the close, its readers one by one, its runs, and its parameter application. -/
theorem aFullCloseAppendsItsRecord : Obligations.AFullCloseAppendsItsRecord := by
  refine ⟨?close, ?readers, ?runs, ?application⟩
  case close =>
    intro p q o on some s l r n begun t
    have ground := ground_react s.clearAccumulators o l r
    obtain ⟨startedAt, length, engaged⟩ := window_react s.clearAccumulators o l r
    obtain ⟨service, number, load⟩ := report_react s.clearAccumulators o l r rfl
    obtain ⟨loss, speed, pwm, tail, separator⟩ := capture_clearAccumulators s
    have taken : exec (.windowTimerExpiry o) ⟨p, q⟩ = .next ⟨t, q⟩ := exec_windowTimerExpiry_of_on on q o some
    have capture : t.capture = s.clearAccumulators.capture := congrArg (·.capture) ground
    refine ⟨taken, congrArg (·.now) ground, rfl, rfl, rfl, congrArg (·.history) ground, congrArg (·.number) ground, startedAt, length,
      engaged, ?_, ?_, ?_, ?_, ?_, number, load, (congrArg (·.power) ground).trans on, congrArg (·.lines) ground,
      congrArg (·.phold) ground, congrArg (·.shutdown) ground, service, congrArg (·.memory) ground, congrArg (·.pageStates) ground⟩
    all_goals rw [capture]
    · exact loss
    · exact speed
    · exact pwm
    · exact tail
    · exact separator
  case readers =>
    intro p o r n reaction
    refine ⟨?_, appendSchedule_perm o, ?_, freshMarks_iff p⟩
    · have each : (fun (s : Part) k => s.appendTask o r k) = reaction := by
        funext u k
        cases k with
        | bookStatus => exact sendBook_eq u
        | windowReport => exact sendReport_eq u o r
        | _ => rfl
      unfold Part.react
      rw [each]
    · obtain ⟨early, late, _, _, schedule⟩ := arrange_readers o
      refine ⟨_, _, schedule, ?_, ?_, ?_⟩ <;> simp [Task.needsEvaluation]
  case runs =>
    intro p l r t stopped reached silenced
    obtain ⟨short, saturated, silent, fault⟩ := tagsOf_iff p l r
    refine ⟨fun i => ?silentRun, fun v => ?faultRun, fun none none' => ?quiet, rfl, rfl, rfl, short, saturated, silent, fault, rfl⟩
    case silentRun =>
      intro run next
      have updated : next = run.update (l.loss.get i).hits l.marks.notHarvesting (l.othersHit i) := silentRun_advanced p l r i
      refine ⟨fun hit => updated.trans (run.update_of_hit hit _ _), fun none idle => updated.trans (run.update_of_idle none ?_),
        fun none harvesting others => updated.trans (run.update_of_alone none harvesting ((othersHit_iff l i).2 others)),
        fun falls few => ?_⟩
      · refine idle.imp_right fun alone => Bool.eq_false_iff.2 fun others => ?_
        obtain ⟨j, ne, hit⟩ := (othersHit_iff l i).1 others
        rw [alone j ne] at hit
        exact absurd hit (by decide)
      · have notified := silenced_notified p l ((silenced_iff p l r i).2 falls) few
        cases i <;> exact notified
    case faultRun =>
      have updated : t.window.faultRun.get v = faultRunUpdate (p.window.faultRun.get v) (p.stoppedEngaged l v) :=
        faultRun_advanced p l r v
      refine ⟨fun stops => updated.trans (if_pos ((stoppedEngaged_iff p l v).2 stops)),
        fun turns => updated.trans (if_neg fun stops => turns ((stoppedEngaged_iff p l v).1 stops)),
        fun ends few => ?_⟩
      have notified := faultReached_notified p l ((faultReached_iff p l v).2 ends) few
      cases v <;> exact notified
    case quiet =>
      have raised : p.raiseRuns l = p := raiseRuns_of_none p l
        (fun i => Bool.eq_false_iff.2 fun falls => none i ((silenced_iff p l r i).1 falls))
        (fun v => Bool.eq_false_iff.2 fun ends => none' v ((faultReached_iff p l v).1 ends))
      show (p.raiseRuns l).bus = p.bus
      rw [raised]
  case application =>
    intro p o n k preset within same t
    refine ⟨fun preset cal => applyParameters_same preset cal o n, fun differ => ?_⟩
    have differs := differs_of_not_same differ
    refine ⟨applyParameters_store o n differs, fun d8 one two => ?_, fun unmarked empty c => ?_, fun slot marked => ?_,
      fun c valid faulted still empty calm => applyParameters_recovers o n differs valid faulted empty calm⟩
    · have detail := appliedDetail_eq p.presetDiffers p.calDiffers (one.trans (presetDiffers_iff p).symm)
        (two.trans (calDiffers_iff p).symm) differs
      rw [← detail]
      exact applyParameters_notifies o n differs
    · exact applyParameters_reclamps o n differs unmarked (empty c)
    · refine ⟨(applyParameters_loads o n differs marked .drum).1, fun c => ?_⟩
      obtain ⟨_, mode, hold⟩ := applyParameters_loads o n differs marked c
      exact ⟨mode, hold, fun free runs ordered referenced =>
        applyParameters_presets o n differs marked free runs ordered referenced⟩

end

section
/-! PROOFS. The figures of a record that compare or gather others: sieve loss, side imbalance, load index (R24, R25, R32, R46). -/

namespace Sys2Proof.Machine

/-! ### Rounding (00_scope 6.4) -/

theorem roundHalfUp_two (n : Nat) : roundHalfUp n 2 = (n + 1) / 2 := by
  unfold roundHalfUp
  omega

theorem roundHalfUp_mul_self (k : Nat) {den : Nat} (pos : 0 < den) : roundHalfUp (den * k) den = k := by
  unfold roundHalfUp
  rw [show 2 * (den * k) + den = den + 2 * den * k by ring, Nat.add_mul_div_left _ _ (by omega),
    Nat.div_eq_of_lt (by omega), Nat.zero_add]

theorem roundHalfUp_mono {a b : Nat} (le : a ≤ b) (den : Nat) : roundHalfUp a den ≤ roundHalfUp b den :=
  Nat.div_le_div_right (by omega)

theorem roundHalfUp_le {num den k : Nat} (le : num ≤ den * k) : roundHalfUp num den ≤ k := by
  rcases Nat.eq_zero_or_pos den with rfl | pos
  · simp [roundHalfUp]
  · exact (roundHalfUp_mono le den).trans (roundHalfUp_mul_self k pos).le

/-! ### The sieve loss (R24) -/

theorem lossIndex_le (hits gain e : Nat) : lossIndex hits gain e ≤ 65535 := Nat.min_le_left _ _

theorem sieveLoss_eq (a b : Nat) : sieveLoss a b = (a + b + 1) / 2 := roundHalfUp_two _

/-! ### The side imbalance (R25) -/

theorem sideImbalance_silent {a b : Nat} (silent : a + b = 0) : sideImbalance a b = 0 := if_pos silent

/-- The sign of the difference, and the magnitude of the rounded quotient. -/
theorem sideImbalance_eq {a b : Nat} (some : a + b ≠ 0) :
    sideImbalance a b = ((a : Int) - b).sign * (roundHalfUp (((a : Int) - b).natAbs * 1000) (a + b) : Nat) := by
  unfold sideImbalance roundSigned
  rw [if_neg some, Int.sign_mul, Int.natAbs_mul, show Int.sign 1000 = 1 from rfl, Int.mul_one]
  rfl

theorem sideImbalance_self (a : Nat) : sideImbalance a a = 0 := by
  by_cases silent : a + a = 0
  · exact sideImbalance_silent silent
  · simp [sideImbalance_eq silent]

theorem sideImbalance_left {a : Nat} (pos : 0 < a) : sideImbalance a 0 = 1000 := by
  have whole := roundHalfUp_mul_self 1000 pos
  rw [sideImbalance_eq (by omega)]
  simp [Int.sign_eq_one_of_pos (Int.natCast_pos.2 pos), whole]

theorem sideImbalance_right {b : Nat} (pos : 0 < b) : sideImbalance 0 b = -1000 := by
  have whole := roundHalfUp_mul_self 1000 pos
  rw [sideImbalance_eq (by omega)]
  simp [Int.sign_eq_one_of_pos (Int.natCast_pos.2 pos), whole]

/-- Its magnitude is at most 1000, for a difference is at most the sum; its sign is the difference's, or it is 0. -/
theorem sideImbalance_cases (a b : Nat) : ∃ n : Nat, n ≤ 1000
    ∧ ((b < a ∧ sideImbalance a b = n) ∨ (a < b ∧ sideImbalance a b = -n) ∨ (a = b ∧ sideImbalance a b = 0)) := by
  have le : roundHalfUp (((a : Int) - b).natAbs * 1000) (a + b) ≤ 1000 := roundHalfUp_le (Nat.mul_le_mul_right 1000 (by omega))
  refine ⟨_, le, ?_⟩
  rcases Nat.lt_trichotomy a b with right | rfl | left
  · rw [sideImbalance_eq (by omega), Int.sign_eq_neg_one_of_neg (by omega), Int.neg_one_mul]
    exact .inr (.inl ⟨right, rfl⟩)
  · exact .inr (.inr ⟨rfl, sideImbalance_self a⟩)
  · rw [sideImbalance_eq (by omega), Int.sign_eq_one_of_pos (by omega), Int.one_mul]
    exact .inl ⟨left, rfl⟩

theorem Tags.clean_of_sensorSilent {t : Tags} (silent : t.sensorSilent = true) : t.clean = false := by
  simp [Tags.clean, silent]

/-! ### The load index (R27, R30 to R32, R46) -/

theorem droopPm_le (rpm : Nat) (setpoint : Int) : droopPm rpm setpoint ≤ 1000 := by
  unfold droopPm
  split
  · exact roundHalfUp_le (Nat.mul_le_mul_right 1000 (by omega))
  · omega

theorem droopPm_of_stopped {setpoint : Int} (asked : 0 < setpoint) : droopPm 0 setpoint = 1000 := by
  unfold droopPm
  rw [if_pos (by simpa using asked)]
  simpa using roundHalfUp_mul_self 1000 (den := setpoint.toNat) (by omega)

theorem tailPm_le (activeMs e : Nat) : tailPm activeMs e ≤ 1000 := Nat.min_le_left _ _

theorem feederPm_le (d : Option Nat) (rest span : Nat) : feederPm d rest span ≤ 1000 := by
  cases d with
  | none => exact Nat.zero_le _
  | some n => exact Nat.min_le_left _ _

/-- The judgement of a record leaves the state that R46 to R49 give, whether a notice is due or not. -/
theorem judgeLoad_restrain (s : Part) (r : WindowRecord) : (s.judgeLoad r).evaluator.restrain = s.restrainAfter r := by
  unfold Part.judgeLoad
  extract_lets before next evaluator judged announced
  show Evaluator.restrain (Part.evaluator (if judged.noticeDue before then judged.sendRestrain else judged)) = next
  split <;> rfl

theorem restrainAfter_of_notHarvesting {s : Part} {r : WindowRecord} (idle : r.tags.notHarvesting = true)
    (closed : s.override.relief.opens = false) : s.restrainAfter r = .opened := by
  unfold Part.restrainAfter
  simp [idle, closed]

end Sys2Proof.Machine

open Sys2Proof Sys2Proof.Machine

/-- Settles O20: the loss indices of the two sides decide the sieve loss, by half of their sum rounded upward. -/
theorem sieveLossIsTheRoundedMean : Obligations.SieveLossIsTheRoundedMean := by
  refine ⟨fun p l => ?_, fun a b odd => ?_, rfl⟩
  · intro r
    have left : r.lossIndex.left ≤ 65535 := lossIndex_le _ _ _
    have right : r.lossIndex.right ≤ 65535 := lossIndex_le _ _ _
    have mean : r.sl = (r.lossIndex.left + r.lossIndex.right + 1) / 2 := sieveLoss_eq _ _
    refine ⟨rfl, left, right, by omega, by omega, fun m elapsed sameLeft sameRight => ?_⟩
    show sieveLoss (lossIndex m.loss.left.hits _ m.elapsed) (lossIndex m.loss.right.hits _ m.elapsed) = _
    rw [elapsed, sameLeft, sameRight]
    rfl
  · rw [roundHalfUp_two]
    omega

/-- Settles O21: the difference of the two sides over their sum, and the tag of a silent side. -/
theorem sideImbalanceComparesTheSieveRearIndices : Obligations.SideImbalanceComparesTheSieveRearIndices := by
  intro p l r a b
  have imb : r.imb = sideImbalance a b := rfl
  obtain ⟨n, le, cases⟩ := sideImbalance_cases a b
  rw [imb]
  refine ⟨sideImbalance_silent, sideImbalance_eq, by omega, ?rightAlone, ?leftAlone, ?equal, by omega, by omega, ?clamped, ?silent⟩
  case rightAlone =>
    intro pos zero
    rw [zero]
    exact sideImbalance_right pos
  case leftAlone =>
    intro pos zero
    rw [zero]
    exact sideImbalance_left pos
  case equal => exact fun same => same ▸ sideImbalance_self a
  case clamped =>
    intro left right
    have mean : r.sl = (a + b + 1) / 2 := sieveLoss_eq _ _
    exact ⟨by omega, by omega⟩
  case silent =>
    intro silent
    have tagged : r.tags.sensorSilent = true := by
      refine List.any_eq_true.2 ?_
      rcases silent with left | right
      · exact ⟨.left, LossInput.mem_all _, left⟩
      · exact ⟨.right, LossInput.mem_all _, right⟩
    exact ⟨tagged, Tags.clean_of_sensorSilent tagged⟩

/-- Settles O22: each of the three figures is at most 1000, and the judgement of a record keeps its LOAD. -/
theorem loadIsTheLargestOfThreeFigures : Obligations.LoadIsTheLargestOfThreeFigures := by
  refine ⟨fun p l => ?_, fun p r => ?_⟩
  · intro r
    have load : r.load = max r.droopPm (max r.tailPm r.feederPm) := rfl
    have droop : r.droopPm = droopPm r.rpm.drum (p.book.get .drum).setpoint := rfl
    have droopLe : r.droopPm ≤ 1000 := droopPm_le _ _
    have tailLe : r.tailPm ≤ 1000 := tailPm_le _ _
    have feederLe : r.feederPm ≤ 1000 := feederPm_le _ _ _
    refine ⟨load, by omega, fun stopped asked => ?_⟩
    have full : r.droopPm = 1000 := by
      rw [droop, stopped]
      exact droopPm_of_stopped asked
    omega
  · exact ⟨by simp [Part.reportFrames], congrArg (·.2.2) (report_judgeLoad p r),
      fun idle closed => (judgeLoad_restrain p r).trans (restrainAfter_of_notHarvesting idle closed)⟩

end

section
/-! PROOFS. The records that an Evaluation averages (R34, R35). -/

namespace Sys2Proof.Machine

/-- The candidates are the records newer than the newest spoiled one. -/
theorem evaluationCandidates_append {older newer : List WindowRecord} (sound : ∀ r ∈ newer, r.tags.spoiled = false)
    (spoiled : ∀ r, older.getLast? = some r → r.tags.spoiled = true) : evaluationCandidates (older ++ newer) = newer.reverse := by
  have stops : older.reverse.takeWhile (fun r => !r.tags.spoiled) = [] := by
    cases records : older.reverse with
    | nil => rfl
    | cons r rest =>
      have last : older.getLast? = some r := by rw [← List.head?_reverse, records]; rfl
      simp [spoiled r last]
  unfold evaluationCandidates
  rw [List.reverse_append, List.takeWhile_append_of_pos (by simpa using sound), stops, List.append_nil]

theorem chosenRecords_append {older newer : List WindowRecord} (sound : ∀ r ∈ newer, r.tags.spoiled = false)
    (spoiled : ∀ r, older.getLast? = some r → r.tags.spoiled = true) (depth : Nat) :
    let clean := newer.filter fun r => r.tags.clean
    chosenRecords (older ++ newer) depth =
      if depth ≤ clean.length then some (clean.drop (clean.length - depth)).reverse else none := by
  intro clean
  have newest : ((evaluationCandidates (older ++ newer)).filter fun r => r.tags.clean).take depth =
      (clean.drop (clean.length - depth)).reverse := by
    rw [evaluationCandidates_append sound spoiled, List.filter_reverse, List.take_reverse]
  unfold chosenRecords
  rw [newest]
  refine if_congr ?_ rfl rfl
  simp only [List.length_reverse, List.length_drop]
  omega

/-- The order of the records does not matter to their averages. -/
theorem averagesOf_reverse (records : List WindowRecord) (depth : Nat) :
    averagesOf records.reverse depth = averagesOf records depth := by
  simp [averagesOf, sumOf, List.map_reverse, List.sum_reverse]

end Sys2Proof.Machine
end

section
/-! PROOFS. A request that finds its channel free is taken at once (R69, R72), and a move aimed at a target away from its position
is driven or waits (R103, R131, R132). -/

namespace Sys2Proof.Machine

/-! ### The entry of a free channel -/

theorem modBook_modBook (s : Part) (c : Channel) (f g : BookEntry → BookEntry) :
    (s.modBook c f).modBook c g = s.modBook c (g ∘ f) := by
  unfold Part.modBook
  simp only [PerChannel.get_set_self, Function.comp_apply]
  cases c <;> rfl

theorem modBook_of_same {s : Part} {c : Channel} {f : BookEntry → BookEntry} (same : f (s.entryOf c) = s.entryOf c) :
    s.modBook c f = s := by
  have book : s.book.set c (f (s.book.get c)) = s.book := by
    refine PerChannel.ext_get fun d => ?_
    rw [PerChannel.get_set]
    split
    case isTrue at' => exact at' ▸ same
    case isFalse => rfl
  unfold Part.modBook
  rw [book]

/-- An entry listed alone for a channel. -/
def Part.listedAlone (s : Part) (c : Channel) (e : Entry) : Part := s.modBook c fun b => { b with requests := [e] }

section

variable {s : Part} {c : Channel} {e : Entry}

/-- An entry listed for a free channel is dealt with at once. -/
theorem postEntry_takes (free : s.standsFree c) (runs : s.shutdown = none) :
    s.postEntry c e = ((s.listedAlone c e).takeHead c e [], .taken) := by
  have freeNow := freeFor_of_standsFree free e.kind
  obtain ⟨idle, still, -, empty⟩ := free
  have ready : (s.shutdown.isSome || s.isFaulted c) = false := by
    unfold Part.isFaulted
    simp [runs, idle]
  have list : s.listEntry c e = s.listedAlone c e := by
    unfold Part.listEntry
    simp only [empty]
    rfl
  have requests : ((s.listedAlone c e).entryOf c).requests = [e] := by
    unfold Part.listedAlone
    rw [entryOf_modBook_self]
  have goes : ((s.listedAlone c e).shutdown.isNone && (s.listedAlone c e).freeFor c e.kind) = true := by
    rw [show (s.listedAlone c e).freeFor c e.kind = true from freeNow, show (s.listedAlone c e).shutdown = none from runs]
    rfl
  have takes : (s.listedAlone c e).take c = (s.listedAlone c e).takeHead c e [] := by
    unfold Part.take
    rw [requests, List.length_singleton]
    unfold Part.takeUpTo
    rw [requests]
    exact if_pos goes
  unfold Part.postEntry Part.place
  rw [ready]
  simp only [still, freeNow, list, takes]
  rfl

/-- A SET that is not stale, on a channel it can move, leaves a list that was empty as it was. -/
theorem postEntry_set {target : Option Int} (free : s.standsFree c) (runs : s.shutdown = none) (set : e.kind = .set target)
    (fresh : e.stale s.window.number = false) (engaged : s.capture.engaged = true)
    (referenced : ∀ x : PosChannel, c = x.channel → (s.motionOf c).referenced = true) :
    s.postEntry c e = (s.takeEntry c e, .taken) := by
  have emptied : ((s.listedAlone c e).listedAlone c e).modBook c (fun b => { b with requests := [] }) = s := by
    obtain ⟨-, -, -, empty⟩ := free
    unfold Part.listedAlone
    rw [modBook_modBook, modBook_modBook]
    refine modBook_of_same ?_
    show ({ s.entryOf c with requests := [] } : BookEntry) = s.entryOf c
    rw [← empty]
  rw [postEntry_takes free runs]
  refine congrArg (·, Placing.taken) ?_
  unfold Part.takeHead
  extract_lets dropHead alone taken
  rw [show taken = s from emptied]
  refine (if_neg fun stale => Bool.noConfusion (fresh.symm.trans stale)).trans ?_
  cases kind : c.kind with
  | positional x =>
    have refers : (s.motionOf c).referenced = true := referenced x (channel_of_kind_positional kind)
    exact if_pos refers
  | speed x =>
    simp only [set]
    exact if_pos engaged

end

/-! ### A setpoint committed -/

/-- A commitment moves nothing, queues nothing and leaves the Evaluator. -/
theorem commit_keeps (s : Part) (c : Channel) (v : Int) (r : Requester) (origin : Origin) : let t := s.commit c v r origin
    t.motion = s.motion ∧ t.slots = s.slots ∧ t.bus = s.bus ∧ t.evaluator = s.evaluator := by
  have raised (u : Part) (old : Int) : let t := u.drumRaised old
      t.motion = u.motion ∧ t.slots = u.slots ∧ t.bus = u.bus ∧ t.evaluator = u.evaluator := by
    unfold Part.drumRaised
    split <;> simp
  have put (u : Part) (v : Int) : let t := u.putSetpoint c v
      t.motion = u.motion ∧ t.slots = u.slots ∧ t.bus = u.bus ∧ t.evaluator = u.evaluator := by
    unfold Part.putSetpoint
    split
    · exact ⟨rfl, rfl, rfl, rfl⟩
    · simp [raised]
    all_goals exact ⟨rfl, rfl, rfl, rfl⟩
  have seen (u : Part) : let t := u.seeCommitment c r
      t.motion = u.motion ∧ t.slots = u.slots ∧ t.bus = u.bus ∧ t.evaluator = u.evaluator := by
    unfold Part.seeCommitment
    split
    · exact ⟨rfl, rfl, rfl, rfl⟩
    all_goals split <;> exact ⟨rfl, rfl, rfl, rfl⟩
  unfold Part.commit
  simp [seen, put]

/-! ### A move with a target enters WAITING -/

/-- The grant of a move with a target: its direction and its counts, the rest as it was (R109). -/
theorem atGrant_of_target {m : Move} {t : Int} (jog : m.kind ≠ .jog) (home : m.kind ≠ .home) (aimed : m.target = some t) (s : Part)
    (c : Channel) (position : Int) : s.atGrant c position m = { m with
      stintCount := 0
      direction := if position < t then some .up else if t < position then some .down else m.direction
      remaining := min m.base (distance t position) } := by
  unfold Part.atGrant
  simp only [aimed]

/-- A move as the arbiter leaves it, however far it has come: identity and scheduling mode are those it was formed with. -/
def Move.sameAs (m m' : Move) : Prop := m'.identity = m.identity ∧ m'.scheduling = m.scheduling

section

variable {s : Part} {x : PosChannel} {mv : Move} {t : Int}

/-- A slot granted to a move whose target lies away from the position turns its drive on. -/
theorem grant_drives (moves : (s.motionOf x.channel).move = some mv) (jog : mv.kind ≠ .jog) (home : mv.kind ≠ .home)
    (aimed : mv.target = some t) (base : mv.base ≠ 0) (away : t ≠ (s.motionOf x.channel).position) :
    ((s.grant x.channel).motionOf x.channel).phase = .driving
      ∧ ∃ mv', ((s.grant x.channel).motionOf x.channel).move = some mv' ∧ mv.sameAs mv' := by
  let u : Part := (s.holdSlot x.channel).markShifted x.channel mv
  have motion : u.motionOf x.channel = s.motionOf x.channel := motionOf_markShifted _ _ _ _
  have granted : s.grant x.channel = u.drivePositional x.channel x mv := by
    unfold Part.grant
    rw [moves]
    cases x <;> rfl
  have goes : (u.atGrant x.channel (u.motionOf x.channel).position mv).remaining ≠ 0 := by
    rw [atGrant_of_target jog home aimed, motion]
    show min mv.base (distance t _) ≠ 0
    unfold distance
    omega
  have driven : u.drivePositional x.channel x mv = u.modMotion x.channel fun m => { m with
      phase := .driving
      move := some { u.atGrant x.channel (u.motionOf x.channel).position mv with granted := true }
      drivingSince := u.now
      stallAt := some (u.now + ms (u.cal.pos.get x).stallTime) } := if_neg goes
  rw [granted, driven, motionOf_modMotion_self]
  refine ⟨rfl, _, rfl, atGrant_identity u _ _ mv, ?_⟩
  rw [atGrant_of_target jog home aimed]

/-- A move whose target lies away from the position, at its entry to WAITING: driven where a slot is free, else waiting. -/
theorem enterWaiting_serves (moves : (s.motionOf x.channel).move = some mv) (jog : mv.kind ≠ .jog) (home : mv.kind ≠ .home)
    (aimed : mv.target = some t) (base : mv.base ≠ 0) (away : t ≠ (s.motionOf x.channel).position) :
    (s.enterWaiting x.channel).drivesOrWaits x.channel s.slots.length
      ∧ ∃ mv', ((s.enterWaiting x.channel).motionOf x.channel).move = some mv' ∧ mv.sameAs mv' := by
  let w : Part := s.modMotion x.channel fun m => { m with phase := .waiting, coastEndsAt := none }
  have motion : w.motionOf x.channel = { s.motionOf x.channel with phase := .waiting, coastEndsAt := none } :=
    motionOf_modMotion_self _ _ _
  have asks : s.enterWaiting x.channel = if s.slots.length < 2 then (w.grant x.channel).regrant else w := rfl
  rw [asks]
  split
  case isTrue room =>
    obtain ⟨driving, same⟩ := grant_drives (s := w) (by rw [motion]; exact moves) jog home aimed base (by rw [motion]; exact away)
    have kept : (w.grant x.channel).regrant.motionOf x.channel = (w.grant x.channel).motionOf x.channel :=
      (regrant_follows _ _).untouched (by rw [driving]; decide)
    unfold Part.drivesOrWaits
    rw [kept]
    exact ⟨⟨fun _ => driving, fun full => absurd room (by omega)⟩, same⟩
  case isFalse full =>
    unfold Part.drivesOrWaits
    rw [motion]
    exact ⟨⟨fun room => absurd room full, fun _ => rfl⟩, mv, moves, rfl, rfl⟩

end

end Sys2Proof.Machine
end

section
/-! PROOFS. The Trim Engine (R84, R86 to R88): when it acts, which entry it takes, and what the SET that it posts makes of a free
channel. -/

namespace Sys2Proof.Machine

/-! ### The entry that qualifies (R86, R87) -/

theorem Channel.positional_iff (c : Channel) : Channel.positional c = true ↔ ∃ x : PosChannel, c = x.channel := by
  cases c
  case drum | fan => exact ⟨Bool.noConfusion, fun ⟨x, h⟩ => by cases x <;> exact Channel.noConfusion h⟩
  case concave => exact ⟨fun _ => ⟨.concave, rfl⟩, fun _ => rfl⟩
  case upperSieve => exact ⟨fun _ => ⟨.upperSieve, rfl⟩, fun _ => rfl⟩
  case lowerSieve => exact ⟨fun _ => ⟨.lowerSieve, rfl⟩, fun _ => rfl⟩
  case louver => exact ⟨fun _ => ⟨.louver, rfl⟩, fun _ => rfl⟩

theorem entryQualifies_iff (s : Part) (e : TrimEntry) : s.entryQualifies e = true ↔
    e.enabled = true ∧ s.evaluator.evaluation.symptoms.get e.required = true
      ∧ (∀ x, e.excluded = some x → s.evaluator.evaluation.symptoms.get x = false)
      ∧ (s.entryOf e.channel).mode = .auto ∧ (s.entryOf e.channel).hold = none
      ∧ (s.motionOf e.channel).phase = .idle ∧ s.blocked e.channel = false
      ∧ (∀ x : PosChannel, e.channel = x.channel → (s.motionOf e.channel).referenced = true)
      ∧ s.trimTarget e ≠ (s.entryOf e.channel).setpoint := by
  have refers : (Channel.positional e.channel = false ∨ (s.motionOf e.channel).referenced = true) ↔
      ∀ x : PosChannel, e.channel = x.channel → (s.motionOf e.channel).referenced = true := by
    rw [← Bool.not_eq_true, Channel.positional_iff, ← imp_iff_not_or, forall_exists_index]
  unfold Part.entryQualifies Part.isAutomatic
  cases e.excluded <;> simp [refers, and_assoc]

theorem mayTrim_iff (s : Part) : s.mayTrim = true ↔ s.evaluator.evaluation.averages.isSome = true ∧ s.harvesting = true
    ∧ s.override.relief = .armed ∧ s.shutdown = none ∧ s.settle = 0 := by
  simp [Part.mayTrim, and_assoc]

/-- The first member that a test holds for, with its index. -/
theorem find?_zipIdx_of_first {α : Type} {q : α → Bool} {before after : List α} {a : α} (none : ∀ x ∈ before, q x = false)
    (meets : q a = true) : (before ++ a :: after).zipIdx.find? (fun x => q x.1) = some (a, before.length) := by
  have skip : before.zipIdx.find? (fun x => q x.1) = Option.none :=
    List.find?_eq_none.2 fun x mem => by simp [none x.1 (List.fst_mem_of_mem_zipIdx mem)]
  rw [List.zipIdx_append, List.find?_append, skip]
  simp [meets]

/-! ### The SET that the Trim Engine posts (R85, R88) -/

/-- The SET of a TRIM taken on a free channel: its target committed and handed over. -/
def Part.trimmed (s : Part) (c : Channel) (v : Int) : Part :=
  let t := s.commit c v (.automatic .trim) .trim
  t.handSet c (.request (.automatic .trim)) .set (setScheduling c (.automatic .trim)) (t.driveTarget c) none

section

variable {s : Part} {c : Channel} {v : Int}

theorem post_trim_takes (free : s.standsFree c) (runs : s.shutdown = none) (engaged : s.capture.engaged = true)
    (referenced : ∀ x : PosChannel, c = x.channel → (s.motionOf c).referenced = true) (within : s.clampToEnvelope c v = v) :
    s.post c .trim (some v) = (s.trimmed c v, .taken) := by
  have fresh : Entry.stale ⟨.automatic .trim, .set (some v), s.window.number, none, false⟩ s.window.number = false := by
    simp [Entry.stale, windowsAbove]
  unfold Part.post
  rw [Option.map_some, within, postEntry_set free runs rfl fresh engaged referenced]
  refine congrArg (·, Placing.taken) ?_
  cases c <;> rfl

variable (s c v)

theorem trimmed_local : Local AnyOwner True c s (s.trimmed c v) :=
  ((Local.refl s).commit v _ _ trivial).handSet trivial (by decide) _ _ _

theorem trimmed_entry : ((s.trimmed c v).entryOf c).setpoint = s.clampToEnvelope c v ∧ ((s.trimmed c v).entryOf c).origin = .trim
    ∧ ((s.trimmed c v).entryOf c).requests = (s.entryOf c).requests := by
  unfold Part.trimmed
  extract_lets t
  obtain ⟨last, entry⟩ := entryOf_handSet t c (.request (.automatic .trim)) (kind := .set) (by decide)
    (setScheduling c (.automatic .trim)) (t.driveTarget c) none
  rw [entry, entryOf_commit]
  exact ⟨rfl, rfl, rfl⟩

end

/-! ### What a SET handed over leaves -/

/-- At most one frame is queued, the MOVE_DONE of a move that ends at its hand-over, and the Evaluator stands. -/
def Spares (s t : Part) : Prop := t.evaluator = s.evaluator ∧ t.bus.queue.length ≤ s.bus.queue.length + 1

theorem Spares.of_drives {s t u : Part} (drives : Drives t u) (evaluator : t.evaluator = s.evaluator) (bus : t.bus = s.bus) :
    Spares s u := by
  obtain ⟨_, _, _, _, rfl⟩ := drives
  exact ⟨evaluator, by show t.bus.queue.length ≤ _; rw [bus]; exact Nat.le_succ _⟩

theorem raise_queue_length (s : Part) (e : Event) (c : Option Channel) (d8 d16 : Nat) :
    (s.raise e c d8 d16).bus.queue.length ≤ s.bus.queue.length + 1 := by
  unfold Part.raise Part.raiseIn
  dsimp only
  split <;> exact (Bus.push_queue s.bus _).2.2

theorem Spares.recordOutcome {s t : Part} (evaluator : t.evaluator = s.evaluator) (bus : t.bus = s.bus) (c : Channel)
    (o : OutcomeCode) (owner : Owner) (tag : Option Byte) : Spares s (t.recordOutcome c o owner tag) := by
  unfold Part.recordOutcome
  refine ⟨by simp [evaluator], (raise_queue_length _ _ _ _ _).trans ?_⟩
  rw [show (t.modBook c _).bus = t.bus from rfl, bus]

/-- The end of a SET is no concern of Plug Relief, nor of a jog timer. -/
theorem endMove_of_set {s : Part} {c : Channel} {mv : Move} (moves : (s.motionOf c).move = some mv) (set : mv.kind = .set)
    (o : OutcomeCode) : s.endMove c o =
      (s.modMotion c fun m => { m with phase := .idle, move := none, coastEndsAt := none }).recordOutcome c o mv.owner mv.tag := by
  have calm (t : Part) : t.reliefOutcome .set o = t := by
    unfold Part.reliefOutcome
    extract_lets code
    split <;> simp_all
  have untimed (t : Part) : t.stopJogTimerOf c mv = t := if_neg (by rw [set]; decide)
  unfold Part.endMove
  rw [moves]
  simp only [set, calm, untimed]

theorem spares_completeMove {s t : Part} (evaluator : t.evaluator = s.evaluator) (bus : t.bus = s.bus) {c : Channel} {mv : Move}
    (moves : (t.motionOf c).move = some mv) (set : mv.kind = .set) (o : OutcomeCode) : Spares s (t.completeMove c o) := by
  let u : Part := t.modMotion c fun m => { m with stallCount := 0 }
  have same : (u.motionOf c).move = some mv := by
    rw [motionOf_modMotion_self]
    exact moves
  show Spares s (u.endMove c o)
  rw [endMove_of_set same set]
  exact .recordOutcome (by rw [← evaluator]; rfl) (by rw [← bus]; rfl) c o mv.owner mv.tag

theorem spares_hand (s : Part) (c : Channel) {mv : Move} (set : mv.kind = .set) : Spares s (s.hand c mv) := by
  have waits (t : Part) (evaluator : t.evaluator = s.evaluator) (bus : t.bus = s.bus) : Spares s (t.enterWaiting c) :=
    .of_drives (((Drives.refl t).modMotion c _).askSlot c) evaluator bus
  unfold Part.hand
  split
  · exact .recordOutcome rfl rfl c _ _ _
  · split
    · exact .of_drives (((Drives.refl s).modMotion c _).markShifted c mv) rfl rfl
    · extract_lets t
      split
      · split
        · rw [if_neg (by rw [set]; decide)]
          exact spares_completeMove rfl rfl (by rw [motionOf_modMotion_self]) set .complete
        · exact waits t rfl rfl
      · exact waits t rfl rfl

theorem spares_handSet (s : Part) (c : Channel) (owner : Owner) (sch : Scheduling) (target : Int) (tag : Option Byte) :
    Spares s (s.handSet c owner .set sch target tag) := by
  unfold Part.handSet
  extract_lets mv
  split <;> exact spares_hand s c rfl

/-- A SET away from its position, handed over on a positional channel at rest: in flight, driven where a slot is free. -/
theorem handSet_serves {s : Part} {x : PosChannel} {owner : Owner} (sch : Scheduling) {target : Int} (tag : Option Byte)
    (engaged : s.capture.engaged = true) (idle : (s.motionOf x.channel).phase = .idle)
    (away : s.countsOf x target ≠ (s.motionOf x.channel).position) : let t := s.handSet x.channel owner .set sch target tag
    t.drivesOrWaits x.channel s.slots.length
      ∧ ∃ mv, (t.motionOf x.channel).move = some mv ∧ mv.kind = .set ∧ mv.scheduling = sch ∧ mv.owner = owner
        ∧ mv.target = some (s.countsOf x target) ∧ mv.tag = tag := by
  let mv : Move := (Move.blank owner .set sch tag).aim (s.motionOf x.channel).position (s.countsOf x target)
  let u : Part := s.modMotion x.channel fun m => { m with move := some mv }
  have motion : u.motionOf x.channel = { s.motionOf x.channel with move := some mv } := motionOf_modMotion_self _ _ _
  have base : mv.base ≠ 0 := by
    show distance _ _ ≠ 0
    unfold distance
    omega
  have handed : s.handSet x.channel owner .set sch target tag = u.enterWaiting x.channel := by
    have hands : s.handSet x.channel owner .set sch target tag = s.hand x.channel mv := by cases x <;> rfl
    rw [hands]
    unfold Part.hand
    rw [if_neg (by simp [engaged]), if_neg (by simp [idle])]
    cases x <;> exact if_neg base
  obtain ⟨serves, mv', moves, identity, scheduling⟩ := enterWaiting_serves (s := u) (x := x) (mv := mv) (by rw [motion])
    MoveKind.noConfusion MoveKind.noConfusion rfl base (by rw [motion]; exact away)
  simp only [Move.identity, Prod.mk.injEq] at identity
  obtain ⟨same, kind, aimed, tagged⟩ := identity
  dsimp only
  rw [handed]
  exact ⟨serves, mv', moves, kind, scheduling, same, aimed, tagged⟩

theorem spares_trimmed (s : Part) (c : Channel) (v : Int) : Spares s (s.trimmed c v) := by
  obtain ⟨-, -, bus, evaluator⟩ := commit_keeps s c v (.automatic .trim) .trim
  obtain ⟨evaluator', queue⟩ := spares_handSet (s.commit c v (.automatic .trim) .trim) c (.request (.automatic .trim))
    (setScheduling c (.automatic .trim)) ((s.commit c v (.automatic .trim) .trim).driveTarget c) none
  exact ⟨evaluator'.trans evaluator, by rw [← bus]; exact queue⟩

/-- On a positional channel at rest a TRIM moves stepwise, where its target is away from the position. -/
theorem trimmed_serves {s : Part} {c : Channel} {x : PosChannel} {v : Int} (at' : c = x.channel) (engaged : s.capture.engaged = true)
    (idle : (s.motionOf c).phase = .idle) (within : s.clampToEnvelope c v = v)
    (away : s.countsOf x v ≠ (s.motionOf c).position) : let t := s.trimmed c v
    (∃ mv, (t.motionOf c).move = some mv ∧ mv.kind = .set ∧ mv.scheduling = .stepwise
      ∧ mv.owner = .request (.automatic .trim) ∧ mv.target = some (s.countsOf x v) ∧ mv.tag = none)
    ∧ t.drivesOrWaits c s.slots.length := by
  subst at'
  let t : Part := s.commit x.channel v (.automatic .trim) .trim
  obtain ⟨motion, slots, -, -⟩ := commit_keeps s x.channel v (.automatic .trim) .trim
  have pinned : t.pinned = s.pinned := ((Local.refl s).commit (P := AnyOwner) (W := True) v _ _ trivial).pinned
  have moved : t.motionOf x.channel = s.motionOf x.channel := motionOf_of_motion motion _
  have aims : t.driveTarget x.channel = v := by
    have setpoint : (t.entryOf x.channel).setpoint = v := by
      rw [entryOf_commit]
      exact within
    cases x <;> exact setpoint
  have counts : t.countsOf x v = s.countsOf x v := by
    unfold Part.countsOf Part.cal
    rw [show t.store = s.store from congrArg (·.store) pinned]
  have stepwise : setScheduling x.channel (.automatic .trim) = .stepwise := by cases x <;> rfl
  have serves := handSet_serves (s := t) (owner := .request (.automatic .trim)) .stepwise (target := v) none
    ((congrArg (·.capture.engaged) pinned).trans engaged) (by rw [moved]; exact idle) (by rw [counts, moved]; exact away)
  rw [counts, show t.slots = s.slots from slots] at serves
  have handed : s.trimmed x.channel v = t.handSet x.channel (.request (.automatic .trim)) .set .stepwise v none := by
    unfold Part.trimmed
    rw [stepwise]
    exact congrArg (fun w => t.handSet x.channel (.request (.automatic .trim)) .set .stepwise w none) aims
  rw [handed]
  exact serves.symm

/-! ### The Trim Engine at an Evaluation (R84, R86 to R88) -/

/-- The settle countdown counted down at an Evaluation (R84). -/
def Part.countedDown (s : Part) : Part := { s with settle := s.settle - 1 }

/-- The Trim Engine has taken an entry, the i-th of the Trim Table: its SET is taken, the countdown starts again, and TRIM_APPLIED
is raised (R88). -/
def Part.afterTrim (s : Part) (e : TrimEntry) (i : Nat) : Part :=
  { s.countedDown.trimmed e.channel (s.trimTarget e) with settle := s.params.settleCount }.raise .trimApplied (some e.channel) i
    (detail16 (s.trimTarget e))

section

variable {s : Part}

theorem trim_of_barred (barred : s.countedDown.mayTrim = false) : s.trim = s.countedDown :=
  if_neg (Bool.eq_false_iff.1 barred)

theorem trim_of_none (none : ∀ e ∈ s.params.trimTable, s.entryQualifies e = false) : s.trim = s.countedDown := by
  have scanned : s.countedDown.scanTable = Option.none :=
    List.find?_eq_none.2 fun x mem => Bool.eq_false_iff.1 (none x.1 (List.fst_mem_of_mem_zipIdx mem))
  unfold Part.trim
  rw [show ({ s with settle := s.settle - 1 } : Part) = s.countedDown from rfl]
  simp only [scanned, ite_self]

theorem trimTarget_within (ordered : s.store.activePreset.envelopesOrdered) (e : TrimEntry) :
    s.clampToEnvelope e.channel (s.trimTarget e) = s.trimTarget e := clamp_of_range (clamp_range (ordered e.channel) _)

/-- The first entry that qualifies is taken, where its channel stands free and can be moved. -/
theorem trim_of_first {before after : List TrimEntry} {e : TrimEntry} (acts : s.countedDown.mayTrim = true)
    (table : s.params.trimTable = before ++ e :: after) (none : ∀ x ∈ before, s.entryQualifies x = false)
    (qualifies : s.entryQualifies e = true) (free : s.standsFree e.channel) (engaged : s.capture.engaged = true)
    (ordered : s.store.activePreset.envelopesOrdered) : s.trim = s.afterTrim e before.length := by
  have within := trimTarget_within ordered e
  have scanned : s.countedDown.scanTable = some (e, before.length) := by
    show s.params.trimTable.zipIdx.find? (fun x => s.entryQualifies x.1) = _
    rw [table]
    exact find?_zipIdx_of_first none qualifies
  have target : s.countedDown.trimTarget e = s.trimTarget e := rfl
  have ⟨_, _, _, runs, _⟩ := (mayTrim_iff s.countedDown).1 acts
  have ⟨_, _, _, _, _, _, _, referenced, _⟩ := (entryQualifies_iff s e).1 qualifies
  have taken := post_trim_takes (s := s.countedDown) free runs engaged referenced within
  have setpoint := (trimmed_entry s.countedDown e.channel (s.trimTarget e)).1.trans within
  have params : (s.countedDown.trimmed e.channel (s.trimTarget e)).params = s.params :=
    congrArg (·.store.activePreset) (trimmed_local s.countedDown e.channel (s.trimTarget e)).pinned
  unfold Part.trim
  rw [show ({ s with settle := s.settle - 1 } : Part) = s.countedDown from rfl]
  simp only [acts, scanned, target, taken, setpoint, params, if_true]
  rfl

end

section

variable (s : Part) (e : TrimEntry) (i : Nat)

theorem afterTrim_settle : (s.afterTrim e i).settle = s.params.settleCount := by simp [Part.afterTrim]

theorem entryOf_afterTrim (c : Channel) :
    (s.afterTrim e i).entryOf c = (s.countedDown.trimmed e.channel (s.trimTarget e)).entryOf c :=
  entryOf_of_book (by simp [Part.afterTrim]) c

theorem motionOf_afterTrim (c : Channel) :
    (s.afterTrim e i).motionOf c = (s.countedDown.trimmed e.channel (s.trimTarget e)).motionOf c :=
  motionOf_of_motion (by simp [Part.afterTrim]) c

/-- Store, Sensor Capture, Evaluator and History stand as they did. -/
theorem afterTrim_leaves : let t := s.afterTrim e i
    t.store = s.store ∧ t.capture = s.capture ∧ t.evaluator = s.evaluator ∧ t.window.history = s.window.history := by
  have pinned : (s.countedDown.trimmed e.channel (s.trimTarget e)).pinned = s.pinned := (trimmed_local s.countedDown _ _).pinned
  have evaluator : (s.countedDown.trimmed e.channel (s.trimTarget e)).evaluator = s.evaluator := (spares_trimmed s.countedDown _ _).1
  have store := congrArg Pinned.store pinned
  have capture := congrArg Pinned.capture pinned
  have history := congrArg (·.window.history) pinned
  simp only [Part.pinned] at store capture history
  simp [Part.afterTrim, store, capture, evaluator, history]

/-- TRIM_APPLIED finds room beside the MOVE_DONE of a SET that ends at once. -/
theorem afterTrim_notified (room : s.bus.queue.length < 23) :
    (s.afterTrim e i).notified .trimApplied (some e.channel) i (detail16 (s.trimTarget e)) s.window.number := by
  have queue := (spares_trimmed s.countedDown e.channel (s.trimTarget e)).2
  have number : (s.countedDown.trimmed e.channel (s.trimTarget e)).window.number = s.window.number :=
    number_of_pinned (trimmed_local s.countedDown _ _).pinned
  rw [← number]
  exact raiseIn_notified _ _ _ _ _ _ (Nat.lt_of_le_of_lt queue (Nat.succ_lt_succ room))

end

end Sys2Proof.Machine

open Sys2Proof Sys2Proof.Machine

/-- Settles O26: the records chosen and their averages, and the Trim Engine with and without an entry that qualifies. -/
theorem anEvaluationAveragesTheNewestCleanRecords : Obligations.AnEvaluationAveragesTheNewestCleanRecords := by
  refine ⟨fun older newer depth sound spoiled => ?averages, fun p => ?trim⟩
  case averages =>
    intro clean used
    have chosen := chosenRecords_append sound spoiled depth
    unfold evaluate
    rw [chosen]
    refine ⟨fun few => by rw [if_neg (Nat.not_le.2 few)]; rfl, fun enough => ?_⟩
    rw [if_pos enough, Option.map_some, averagesOf_reverse]
    rfl
  case trim =>
    intro symptoms s acts target qualifies
    have qualifies_iff (e : TrimEntry) : p.entryQualifies e = true ↔ qualifies e := entryQualifies_iff p e
    have unqualified {e : TrimEntry} (fails : ¬qualifies e) : p.entryQualifies e = false :=
      Bool.eq_false_iff.2 fun h => fails ((qualifies_iff e).1 h)
    have acts_iff : p.countedDown.mayTrim = true ↔ acts := by
      refine (mayTrim_iff p.countedDown).trans ?_
      rw [show p.countedDown.settle = p.settle - 1 from rfl, Nat.sub_eq_zero_iff_le]
      rfl
    refine ⟨fun idle => trim_of_barred (Bool.eq_false_iff.2 fun h => idle (acts_iff.1 h)),
      fun none => trim_of_none fun e mem => unqualified (none e mem), ?_⟩
    intro before after e act table none meets free engaged ordered
    have ⟨idle, _, _, empty⟩ := free
    have within := trimTarget_within ordered e
    rw [trim_of_first (acts_iff.2 act) table (fun x mem => unqualified (none x mem)) ((qualifies_iff e).2 meets) free engaged ordered]
    obtain ⟨setpoint, origin, requests⟩ := trimmed_entry p.countedDown e.channel (target e)
    refine ⟨afterTrim_settle p e _, ?setpoint, ?origin, ?requests, ?others, afterTrim_notified p e _, ?moves, afterTrim_leaves p e _⟩
    case setpoint =>
      rw [entryOf_afterTrim]
      exact setpoint.trans within
    case origin =>
      rw [entryOf_afterTrim]
      exact origin
    case requests =>
      rw [entryOf_afterTrim]
      exact requests.trans empty
    case others =>
      intro c ne
      rw [entryOf_afterTrim]
      exact (trimmed_local p.countedDown e.channel (target e)).entries c ne
    case moves =>
      intro x at' away
      unfold Part.drivesOrWaits
      rw [motionOf_afterTrim]
      exact trimmed_serves (s := p.countedDown) at' engaged idle within away

end

section
/-! PROOFS. QUALITY_REPORT (R41, R171) and the Evaluation formed from a record: symptoms by hysteresis, the side, the age of the held
report (R37 to R44). -/

namespace Sys2Proof.Machine

/-! ### A status frame (R171) -/

/-- When a status frame that a part hears is handed to its owner. -/
theorem judgeStatus_of_heard {s : Part} {h : FrameHeader} (silent : s.bus.silentUntil = none)
    (self : h.source ≠ s.store.activeCal.figures.nodeAddress)
    (destination : h.destination = s.store.activeCal.figures.nodeAddress ∨ h.destination = broadcastAddress)
    (source : Byte) (n : Nat) (owner : Part → Part) :
    s.judgeStatus h source n owner = if h.source = source ∧ n ≤ h.length then owner s else s := by
  have hears : s.hears h = true := by
    simp [Part.hears, silent]
    exact self
  have addressed : (s.addressed h || h.destination = broadcastAddress) = true := by
    rw [Bool.or_eq_true]
    exact destination.imp decide_eq_true decide_eq_true
  unfold Part.judgeStatus
  simp [hears, addressed]

/-! ### Symptoms by hysteresis (R38, R43) -/

theorem ThresholdPair.judge_of_set {t : ThresholdPair} {figure : Nat} (high : t.setAt ≤ figure) (present : Bool) :
    t.judge figure present = true := if_pos high

theorem ThresholdPair.judge_of_clear {t : ThresholdPair} (ordered : t.clearAt < t.setAt) {figure : Nat} (low : figure ≤ t.clearAt)
    (present : Bool) : t.judge figure present = false :=
  (if_neg (by omega)).trans (if_pos low)

theorem ThresholdPair.judge_of_between {t : ThresholdPair} {figure : Nat} (above : t.clearAt < figure) (below : figure < t.setAt)
    (present : Bool) : t.judge figure present = present :=
  (if_neg (by omega)).trans (if_neg (by omega))

/-- What a symptom judged by a pair of thresholds becomes, in the three ranges of its figure. -/
theorem ThresholdPair.judge_ranges {t : ThresholdPair} (ordered : t.clearAt < t.setAt) {next present : Bool} {figure : Nat}
    (judged : next = t.judge figure present) :
    (t.setAt ≤ figure → next = true) ∧ (figure ≤ t.clearAt → next = false)
      ∧ (t.clearAt < figure → figure < t.setAt → next = present) := by
  subst judged
  exact ⟨fun h => judge_of_set h _, fun h => judge_of_clear ordered h _, fun h k => judge_of_between h k _⟩

/-- The symptoms of grain quality are the last two of R37; the others are judged by the averages. -/
theorem nextSymptoms_of_window (t : PerSymptom ThresholdPair) (averages : Option Averages) (report : Option QualityReport)
    (now : PerSymptom Bool) {k : Symptom} (dirty : k ≠ .grainDirty) (broken : k ≠ .grainBroken) :
    (nextSymptoms t averages report now).get k = windowSymptom (t.get k) averages k (now.get k) := by
  unfold nextSymptoms
  rw [PerSymptom.get_build]
  cases k
  case grainDirty => exact absurd rfl dirty
  case grainBroken => exact absurd rfl broken
  all_goals rfl

/-! ### The Evaluation formed from a record (R34, R42 to R44) -/

/-- The part with the Evaluation of a record, given the held report as it has aged. -/
def Part.evaluated (s : Part) (r : WindowRecord) (held : Option FreshReport) : Part :=
  let before := s.evaluator.evaluation
  let current := currentReport held s.params.qualityMaxAge
  let averages := evaluate s.window.history s.params.averagingDepth
  let symptoms := nextSymptoms s.params.thresholds averages current before.symptoms
  { s with evaluator := { s.evaluator with
      freshReport := held
      evaluation := ⟨r.number, averages, symptoms, current.isSome, nextSide averages symptoms.sideImbalance before.side⟩ } }

/-- Beside the Evaluation only QUALITY_STALE comes of a record: where grain quality was available and no report is current. -/
theorem formEvaluation_eq (s : Part) (r : WindowRecord) {held : Option FreshReport}
    (aged : olderReport s.evaluator.freshReport = held) : s.formEvaluation r =
      if s.evaluator.evaluation.grainAvailable = true ∧ currentReport held s.params.qualityMaxAge = none
      then (s.evaluated r held).raise .qualityStale none (reportAge held) (lastSamples s.evaluator.lastReport)
      else s.evaluated r held := by
  subst aged
  unfold Part.formEvaluation Part.evaluated
  simp only [Bool.and_eq_true, Option.isNone_iff_eq_none]

theorem lastSamples_eq (report : Option QualityReport) : lastSamples report = (report.map (·.samples)).getD 0 := by
  cases report <;> rfl

end Sys2Proof.Machine

open Sys2Proof Sys2Proof.Machine

/-- Settles O30: a status frame taken from the Grain Quality Node with its bytes, and ignored otherwise. -/
theorem aQualityReportIsHeld : Obligations.AQualityReportIsHeld := by
  intro p q dt h b f n on silent self destination report
  have step (t : Part) (judged : (p.later dt).judgeStatus h qualityAddress 6
      (fun s => s.takeReport b.toNat f.toNat n.toNat) = t) : exec (.qualityReport dt h b f n) ⟨p, q⟩ = .next ⟨t, q⟩ :=
    congrArg (fun t => Host.Outcome.next (State.mk t q)) ((Part.onEvent_of_on on dt _).trans judged)
  have heard := judgeStatus_of_heard (s := p.later dt) silent self destination qualityAddress 6
  refine ⟨fun source long => step _ ?_, fun ignored => step _ ?_⟩
  · rw [heard, if_pos ⟨source, long⟩]
    rfl
  · rw [heard, if_neg]
    exact fun taken => ignored.elim (fun other => other taken.1) (fun short => absurd taken.2 (Nat.not_le.2 short))

/-- Settles O27: each symptom against its thresholds, the side, and the Evaluation formed with and without a held report. -/
theorem symptomsFollowTheirThresholds : Obligations.SymptomsFollowTheirThresholds := by
  refine ⟨fun t averages report now ordered => ?judgements, fun p r => ?formed⟩
  case judgements =>
    intro judged
    refine ⟨fun a is => ?window, fun none k dirty broken => ?kept, fun g is => ?grain, fun none => ?unavailable,
      fun imbalanced side => ?side⟩
    case window =>
      subst is
      have by_figure (k : Symptom) (dirty : k ≠ .grainDirty) (broken : k ≠ .grainBroken) : judged k (a.figure k) :=
        ThresholdPair.judge_ranges (ordered k) (nextSymptoms_of_window t (some a) report now dirty broken)
      exact ⟨by_figure .sieveLoss nofun nofun, by_figure .walkerLoss nofun nofun, by_figure .tailingsHigh nofun nofun,
        by_figure .drumDroop nofun nofun, by_figure .sideImbalance nofun nofun⟩
    case kept =>
      rw [nextSymptoms_of_window t averages report now dirty broken, none]
      rfl
    case grain =>
      subst is
      exact ⟨ThresholdPair.judge_ranges (ordered .grainDirty) rfl, ThresholdPair.judge_ranges (ordered .grainBroken) rfl⟩
    case unavailable =>
      subst none
      exact ⟨rfl, rfl⟩
    case side =>
      refine ⟨?left, ?right, ?level, fun none => none ▸ rfl⟩
      case left =>
        rintro a rfl rfl positive
        exact if_pos positive
      case right =>
        rintro a rfl rfl negative
        exact (if_neg (by omega)).trans (if_pos negative)
      case level =>
        rintro a rfl (rfl | zero)
        · rfl
        · simp [nextSide, zero]
  case formed =>
    intro k before averages formed samples
    have stale : lastSamples p.evaluator.lastReport = samples := lastSamples_eq _
    refine ⟨fun f holds => ?held, fun none => ?unheld⟩
    case held =>
      intro age
      have aged : olderReport p.evaluator.freshReport = some ⟨f.report, age⟩ := by rw [holds]; rfl
      have current (young : age < k.qualityMaxAge) : currentReport (some ⟨f.report, age⟩) k.qualityMaxAge = some f.report :=
        if_pos young
      have overdue (old : k.qualityMaxAge ≤ age) : currentReport (some ⟨f.report, age⟩) k.qualityMaxAge = none :=
        if_neg (Nat.not_lt.2 old)
      have evaluated {report : Option QualityReport} (is : currentReport (some ⟨f.report, age⟩) k.qualityMaxAge = report) :
          p.evaluated r (some ⟨f.report, age⟩) = formed (some ⟨f.report, age⟩) report := by
        subst is
        rfl
      rw [formEvaluation_eq p r aged]
      refine ⟨fun young => ?_, fun old was => ?_, fun old not => ?_⟩
      · rw [if_neg fun both => Option.some_ne_none _ ((current young).symm.trans both.2), evaluated (current young)]
      · rw [if_pos ⟨was, overdue old⟩, evaluated (overdue old), stale]
        rfl
      · rw [if_neg fun both => Bool.false_ne_true (not.symm.trans both.1), evaluated (overdue old)]
    case unheld =>
      have aged : olderReport p.evaluator.freshReport = Option.none := by rw [none]; rfl
      rw [formEvaluation_eq p r aged, stale]
      exact if_congr (and_iff_left rfl) rfl rfl

end

section
/-! PROOFS. The Feed Restrain at an appended record, its RESTRAIN_NOTICE, and its forced state at the end of Plug Relief (R46 to R54). -/

namespace Sys2Proof.Machine

/-! ### The state after a record (R46 to R49) -/

theorem restrainAfter_of_opens {s : Part} (opens : s.override.relief.opens = true) (r : WindowRecord) :
    s.restrainAfter r = s.evaluator.restrain.whileOpen := if_pos opens

theorem restrainAfter_of_harvesting {s : Part} {r : WindowRecord} (closed : s.override.relief.opens = false)
    (harvesting : r.tags.notHarvesting = false) : s.restrainAfter r = s.evaluator.restrain.onLoad s.params.restrain r.load := by
  unfold Part.restrainAfter
  simp [closed, harvesting]

/-- A record at or above restrain_set, counted as the nth of its row: at confirm the feed is restrained (R46, R47). -/
theorem onLoad_of_high {x : Restrain} {n : Nat} (counts : (x = .opened ∧ n = 1) ∨ ∃ m, x = .pending m ∧ n = m + 1)
    {k : RestrainParams} {load : Nat} (high : k.setAt ≤ load) :
    x.onLoad k load = if k.confirm ≤ n then .restrained .load 0 else .pending n := by
  obtain ⟨rfl, rfl⟩ | ⟨m, rfl, rfl⟩ := counts <;> exact if_pos high

/-- A record below restrain_set leaves or makes the state OPEN where the feed is not restrained (R46, R47). -/
theorem onLoad_of_low {x : Restrain} (free : x = .opened ∨ ∃ m, x = .pending m) {k : RestrainParams} {load : Nat}
    (low : load < k.setAt) : x.onLoad k load = .opened := by
  obtain rfl | ⟨m, rfl⟩ := free <;> exact if_neg (Nat.not_le.2 low)

/-! ### The words of a RESTRAIN_NOTICE (R52 to R54) -/

/-- A Feed Restrain state without its counts. -/
def Restrain.face : Restrain → RestrainFace
  | .opened => .opened
  | .pending _ => .pending
  | .restrained cause _ => .restrained cause

/-- A restraint of either cause is in force. -/
def Restrain.restrains : Restrain → Bool
  | .restrained _ _ => true
  | .opened | .pending _ => false

/-- The code of a state and cause. -/
def RestrainFace.code : RestrainFace → Nat
  | .opened => 0
  | .pending => 1
  | .restrained .load => 2
  | .restrained .relief => 3

theorem RestrainFace.code_injective : Function.Injective RestrainFace.code := by
  rintro (_ | _ | _ | _) (_ | _ | _ | _) same <;> simp_all [RestrainFace.code]

theorem Restrain.restrains_iff (x : Restrain) : x.restrains = true ↔ 2 ≤ x.face.code := by
  rcases x with _ | _ | ⟨_ | _, _⟩ <;> simp [Restrain.restrains, Restrain.face, RestrainFace.code]

theorem restrainFace_eq (s : Part) : s.restrainFace = (s.evaluator.restrain.face, s.reduction) := by
  unfold Part.restrainFace Restrain.face
  cases s.evaluator.restrain <;> rfl

theorem reduction_eq (s : Part) : s.reduction =
    if s.override.relief.opens = true then 1000
    else if s.evaluator.restrain.restrains = true then s.params.restrain.reduction else 0 := by
  unfold Part.reduction
  cases s.evaluator.restrain <;> rfl

theorem noticeDue_iff (s : Part) (before : RestrainFace) : s.noticeDue before = true ↔
    s.evaluator.restrain.face ≠ before ∨ s.reduction ≠ s.evaluator.sentReduction ∨ s.evaluator.restrain.restrains = true
      ∨ s.evaluator.appended = false := by
  unfold Part.noticeDue
  rw [restrainFace_eq]
  cases s.evaluator.restrain <;> simp [Restrain.restrains, or_assoc]

/-- The RESTRAIN_NOTICE that tells of the Feed Restrain as it stands (R54). -/
def Part.restrainFrame (s : Part) : Frame :=
  ⟨s.store.activeCal.figures.nodeAddress,
    .restrainNotice s.evaluator.restrain s.reduction s.evaluator.latestLoad (s.window.number % 65536)⟩

theorem sendRestrain_eq (s : Part) : s.sendRestrain = { s with
    bus := s.bus.push s.restrainFrame
    evaluator := { s.evaluator with sentReduction := s.reduction } } := rfl

theorem announceRestrain_of_changed {s : Part} {before : RestrainFace × Nat}
    (changed : s.evaluator.restrain.face ≠ before.1 ∨ s.reduction ≠ before.2) : s.announceRestrain before = s.sendRestrain := by
  refine if_pos fun same => ?_
  rw [restrainFace_eq] at same
  exact changed.elim (fun h => h (congrArg (·.1) same)) (fun h => h (congrArg (·.2) same))

theorem announceRestrain_of_same {s : Part} {before : RestrainFace × Nat} (face : s.evaluator.restrain.face = before.1)
    (reduction : s.reduction = before.2) : s.announceRestrain before = s := by
  refine if_neg (not_not.2 ?_)
  rw [restrainFace_eq, face, reduction]

/-! ### The append (R53 case 1) -/

/-- The part with a record judged, before its notice. -/
def Part.restrainJudged (s : Part) (r : WindowRecord) : Part :=
  { s with evaluator := { s.evaluator with restrain := s.restrainAfter r, latestLoad := r.load } }

theorem judgeLoad_eq (s : Part) (r : WindowRecord) : s.judgeLoad r =
    let t := if (s.restrainJudged r).noticeDue s.evaluator.restrain.face = true then (s.restrainJudged r).sendRestrain
      else s.restrainJudged r
    { t with evaluator := { t.evaluator with appended := true } } := by
  rw [← show s.restrainFace.1 = s.evaluator.restrain.face from congrArg (·.1) (restrainFace_eq s)]
  rfl

theorem judgeLoad_of_due {s : Part} {r : WindowRecord} (due : (s.restrainJudged r).noticeDue s.evaluator.restrain.face = true) :
    s.judgeLoad r = { (s.restrainJudged r).sendRestrain with
      evaluator := { (s.restrainJudged r).sendRestrain.evaluator with appended := true } } := by
  rw [judgeLoad_eq, if_pos due]

theorem judgeLoad_of_not_due {s : Part} {r : WindowRecord}
    (silent : ¬(s.restrainJudged r).noticeDue s.evaluator.restrain.face = true) :
    s.judgeLoad r = { s.restrainJudged r with evaluator := { (s.restrainJudged r).evaluator with appended := true } } := by
  rw [judgeLoad_eq, if_neg silent]

/-! ### Plug Relief disarmed (R50, R53 case 2) -/

theorem disarm_of_closed {s : Part} (closed : s.override.relief.opens = false) : s.disarm = { s with override := Override.reset } :=
  if_neg (by simp [closed])

/-- The part with Plug Relief out of action and the Feed Restrain forced to LOAD, before the notice. -/
def Part.forcedToLoad (s : Part) : Part :=
  { s with override := Override.reset, evaluator := { s.evaluator with restrain := .restrained .load 0 } }

theorem reduction_forcedToLoad (s : Part) : s.forcedToLoad.reduction = s.params.restrain.reduction := reduction_eq _

theorem disarm_of_opens {s : Part} (opens : s.override.relief.opens = true) :
    s.disarm = s.forcedToLoad.announceRestrain (s.evaluator.restrain.face, 1000) := by
  have before : s.restrainFace = (s.evaluator.restrain.face, 1000) := by rw [restrainFace_eq, reduction_eq, if_pos opens]
  rw [← before]
  exact if_pos opens

end Sys2Proof.Machine

open Sys2Proof Sys2Proof.Machine

/-- Settles O28: a record that counts, and one that ends the row. -/
theorem aPendingRestraintCountsConsecutiveRecords : Obligations.APendingRestraintCountsConsecutiveRecords := by
  intro p r n pending closed harvesting k after
  have judged : after = (Restrain.pending n).onLoad k r.load := by
    rw [← pending]
    exact (judgeLoad_restrain p r).trans (restrainAfter_of_harvesting closed harvesting)
  have counted (high : k.setAt ≤ r.load) : after = if k.confirm ≤ n + 1 then .restrained .load 0 else .pending (n + 1) :=
    judged.trans (onLoad_of_high (.inr ⟨n, rfl, rfl⟩) high)
  have ended (low : r.load < k.setAt) : after = .opened := judged.trans (onLoad_of_low (.inr ⟨n, rfl⟩) low)
  refine ⟨fun high enough => (counted high).trans (if_pos enough), fun high few => (counted high).trans (if_neg (Nat.not_le.2 few)),
    ended, fun m same => ?_, fun r' low high few => ?_⟩
  · rw [judged, same]
    rfl
  · rw [ended low, onLoad_of_high (.inl ⟨rfl, rfl⟩) high, if_neg (Nat.not_le.2 few)]

/-- Settles O29: the state after a record in OPEN and RESTRAINED, the notice at the append, and the forced state at a disarm. -/
theorem theFeedRestrainHoldsAndOpens : Obligations.TheFeedRestrainHoldsAndOpens := by
  intro p r k after
  have judged : after = p.restrainAfter r := judgeLoad_restrain p r
  refine ⟨fun closed idle => judged.trans (restrainAfter_of_notHarvesting idle closed), fun closed harvesting => ?onLoad,
    fun opens cause held restrained => ?whileOpen, ?notices⟩
  case onLoad =>
    have loaded {x : Restrain} (is : p.evaluator.restrain = x) : after = x.onLoad k r.load := by
      rw [← is]
      exact judged.trans (restrainAfter_of_harvesting closed harvesting)
    refine ⟨fun opened => ?opened, fun cause held restrained => ?restrained⟩
    case opened =>
      have counted (high : k.setAt ≤ r.load) := (loaded opened).trans (onLoad_of_high (.inl ⟨rfl, rfl⟩) high)
      exact ⟨fun low => (loaded opened).trans (onLoad_of_low (.inl rfl) low), fun high one => (counted high).trans (if_pos one),
        fun high more => (counted high).trans (if_neg (Nat.not_le.2 more))⟩
    case restrained =>
      refine ⟨fun low long => (loaded restrained).trans (if_pos ⟨low, long⟩), fun stays => (loaded restrained).trans (if_neg ?_)⟩
      omega
  case whileOpen =>
    rw [judged, restrainAfter_of_opens opens, restrained]
    rfl
  case notices =>
    intro t face reported notice due
    have face_eq (x : Restrain) : face x = x.face.code := by rcases x with _ | _ | ⟨_ | _, _⟩ <;> rfl
    have reports (s : Part) (override : s.override = p.override) (store : s.store = p.store) :
        s.reduction = reported s.evaluator.restrain := by
      rw [reduction_eq, override, show s.params.restrain.reduction = k.reduction from congrArg (·.activePreset.restrain.reduction) store]
      simp only [reported, face_eq, Restrain.restrains_iff]
    have judgedReduction : (p.restrainJudged r).reduction = reported after := by
      rw [judged]
      exact reports (p.restrainJudged r) rfl rfl
    have due_iff : (p.restrainJudged r).noticeDue p.evaluator.restrain.face = true ↔ due := by
      rw [noticeDue_iff, judgedReduction, Restrain.restrains_iff, ← RestrainFace.code_injective.ne_iff, ← face_eq, ← face_eq,
        show (p.restrainJudged r).evaluator.restrain = after from judged.symm]
      rfl
    have sent (is : due) : t = { (p.restrainJudged r).sendRestrain with
        evaluator := { (p.restrainJudged r).sendRestrain.evaluator with appended := true } } := judgeLoad_of_due (due_iff.2 is)
    have unsent (is : ¬due) : t = { p.restrainJudged r with
        evaluator := { (p.restrainJudged r).evaluator with appended := true } } := judgeLoad_of_not_due (is ∘ due_iff.1)
    have frame : (p.restrainJudged r).restrainFrame = notice after (reported after) r.load := by
      unfold Part.restrainFrame
      rw [judgedReduction, judged]
      rfl
    refine ⟨reports p rfl rfl, ?reduction, ?appended, fun is => ?due, fun is => ?silent, fun closed => disarm_of_closed closed,
      fun opens => ?disarmed⟩
    case reduction =>
      by_cases is : due
      · exact (reports t (by rw [sent is]; rfl) (by rw [sent is]; rfl))
      · exact (reports t (by rw [unsent is]; rfl) (by rw [unsent is]; rfl))
    case appended =>
      by_cases is : due
      · rw [sent is]
      · rw [unsent is]
    case due =>
      rw [sent is, sendRestrain_eq, frame, judgedReduction]
      exact ⟨rfl, rfl⟩
    case silent =>
      rw [unsent is]
      exact ⟨rfl, rfl⟩
    case disarmed =>
      intro ended
      have forced : p.forcedToLoad.reduction = k.reduction := reduction_forcedToLoad p
      rw [disarm_of_opens opens]
      refine ⟨fun changed => ?announced, fun same full => announceRestrain_of_same ?face (forced.trans full)⟩
      case announced =>
        rw [announceRestrain_of_changed, sendRestrain_eq, Part.restrainFrame, forced]
        · rfl
        · refine changed.imp (fun other => ?_) forced.trans_ne
          rw [face_eq] at other
          exact fun same => other (congrArg RestrainFace.code same).symm
      case face =>
        rw [face_eq] at same
        exact RestrainFace.code_injective same.symm

end

section
/-! PROOFS. What the abort of a move leaves of the other channels, of Plug Relief and of the Feed Restrain (R104, R112, R113, R137,
R138, R145), and the shutdown entered channel by channel (R50, R53, R78, R167, R170). -/

namespace Sys2Proof.Machine

/-! ### Positions and standing fault causes -/

/-- Where a channel stands, and the fault cause that stands on it: what no grant and no drive-off writes. -/
def Motion.place (m : Motion) : Int × Option FaultCause := (m.position, m.standing)

theorem place_modMotion (s : Part) (c d : Channel) {f : Motion → Motion} (keeps : ∀ m, (f m).place = m.place) :
    ((s.modMotion c f).motionOf d).place = (s.motionOf d).place := by
  rw [motionOf_modMotion]
  split
  case isTrue same => rw [keeps, same]
  case isFalse => rfl

theorem place_driveOff (s : Part) (c d : Channel) (e : DriveEnd) :
    ((s.driveOff c e).motionOf d).place = (s.motionOf d).place := by
  rw [motionOf_driveOff]
  split
  case isTrue same => rw [same]; rfl
  case isFalse => rfl

theorem place_grant (s : Part) (c d : Channel) : ((s.grant c).motionOf d).place = (s.motionOf d).place := by
  unfold Part.grant
  split
  · rfl
  · rename_i mv moves
    extract_lets t
    have ht : (t.motionOf d).place = (s.motionOf d).place := congrArg Motion.place (motionOf_markShifted (s.holdSlot c) c d mv)
    rw [← ht]
    split
    · unfold Part.drivePositional
      extract_lets src driven u
      have hu : (u.motionOf d).place = (t.motionOf d).place := place_modMotion t c d fun _ => rfl
      split
      · rw [place_driveOff, hu]
      · exact hu
    · unfold Part.driveSpeed
      extract_lets driven late u
      have hu : (u.motionOf d).place = (t.motionOf d).place := place_modMotion t c d fun _ => rfl
      split
      · rw [place_driveOff, hu]
      · exact hu

theorem place_regrantUpTo (n : Nat) (d : Channel) : ∀ s : Part, ((Part.regrantUpTo n s).motionOf d).place = (s.motionOf d).place := by
  induction n with
  | zero => exact fun _ => rfl
  | succ n ih =>
    intro s
    unfold Part.regrantUpTo
    split
    · split
      · rw [ih, place_grant]
      · rfl
    · rfl

/-! ### Plug Relief and the Feed Restrain -/

/-- Plug Relief, the Evaluator, which holds the Feed Restrain, and the RELIEF mark. -/
def Part.plug (s : Part) : Override × Evaluator × Bool := (s.override, s.evaluator, s.window.marks.relief)

theorem plug_of_drives {s t : Part} (h : Drives s t) : t.plug = s.plug := by
  obtain ⟨_, _, _, _, rfl⟩ := h
  rfl

theorem plug_raise (s : Part) (e : Event) (c : Option Channel) (d8 d16 : Nat) : (s.raise e c d8 d16).plug = s.plug := by
  simp [Part.plug]

theorem plug_recordOutcome (s : Part) (c : Channel) (o : OutcomeCode) (owner : Owner) (tag : Option Byte) :
    (s.recordOutcome c o owner tag).plug = s.plug := plug_raise _ _ _ _ _

theorem plug_stopJogTimer (s : Part) (c : Channel) : (s.stopJogTimer c).plug = s.plug := by
  unfold Part.stopJogTimer
  split <;> rfl

theorem plug_stopJogTimerOf (s : Part) (c : Channel) (m : Move) : (s.stopJogTimerOf c m).plug = s.plug := by
  unfold Part.stopJogTimerOf
  split
  · exact plug_stopJogTimer s c
  · rfl

theorem plug_endEntry (s : Part) (c : Channel) (o : OutcomeCode) (e : Entry) : (s.endEntry c o e).plug = s.plug := by
  unfold Part.endEntry
  rw [plug_recordOutcome]
  split
  · exact plug_stopJogTimer s c
  · rfl

theorem plug_endEntries (c : Channel) (o : OutcomeCode) (l : List Entry) (s : Part) :
    (l.foldl (fun s e => s.endEntry c o e) s).plug = s.plug :=
  foldl_keeps (L := fun t => t.plug = s.plug) (fun t e same => (plug_endEntry t c o e).trans same) l rfl

theorem plug_discardEntries (s : Part) (c : Channel) (o : OutcomeCode) (gone : Entry → Bool) :
    (s.discardEntries c o gone).plug = s.plug := plug_endEntries c o _ _

/-! ### An abort, seen from outside its channel -/

/-- What an abort comes to: nothing; a fault under the standing cause of a HOME; or an outcome recorded after the arbiter's work. -/
theorem abort_cases (s : Part) (c : Channel) : s.abort c .aborted = s
    ∨ (∃ cause, (s.motionOf c).standing = some cause ∧ s.abort c .aborted = s.fault c cause (some .aborted))
    ∨ ∃ (mv : Move) (u : Part), Drives s u ∧ (∀ d, (u.motionOf d).place = (s.motionOf d).place)
        ∧ s.abort c .aborted = (u.stopJogTimerOf c mv).recordOutcome c .aborted mv.owner mv.tag := by
  unfold Part.abort
  split
  · exact .inl rfl
  case h_2 mv moves =>
    have atRest : (∃ cause, (s.motionOf c).standing = some cause
          ∧ s.comeToRest c (some .aborted) = s.fault c cause (some .aborted))
        ∨ ∃ (mv : Move) (u : Part), Drives s u ∧ (∀ d, (u.motionOf d).place = (s.motionOf d).place)
          ∧ s.comeToRest c (some .aborted) = (u.stopJogTimerOf c mv).recordOutcome c .aborted mv.owner mv.tag := by
      unfold Part.comeToRest
      split
      case h_1 cause stands => exact .inl ⟨cause, stands, rfl⟩
      case h_2 calm =>
        let rest : Part := s.modMotion c fun m => { m with phase := .idle, coastShifts := false }
        let freed : Part := rest.modMotion c fun m => { m with phase := .idle, move := none, coastEndsAt := none }
        refine .inr ⟨mv, freed, ((Drives.refl s).modMotion c _).modMotion c _, fun d => ?_, ?_⟩
        · have rested : (rest.motionOf d).place = (s.motionOf d).place := place_modMotion s c d fun _ => rfl
          have left : (freed.motionOf d).place = (rest.motionOf d).place := place_modMotion rest c d fun _ => rfl
          exact left.trans rested
        · have moves' : (rest.motionOf c).move = some mv := by
            rw [motionOf_modMotion_self]
            exact moves
          show rest.endMove c .aborted = _
          unfold Part.endMove
          rw [moves']
          rfl
    refine .inr ?_
    split
    · let off : Part := (s.driveOff c .workLeft).modMotion c fun m => { m with move := none, coastShifts := mv.bearing }
      refine .inr ⟨mv, off.regrant, (((Drives.refl s).driveOff c .workLeft).modMotion c _).regrant, fun d => ?_, rfl⟩
      have left : (off.motionOf d).place = ((s.driveOff c .workLeft).motionOf d).place := place_modMotion _ c d fun _ => rfl
      exact (place_regrantUpTo 6 d off).trans (left.trans (place_driveOff s c d .workLeft))
    · let coasting : Part := s.modMotion c fun m => { m with move := none, coastShifts := mv.bearing }
      exact .inr ⟨mv, coasting, (Drives.refl s).modMotion c _, fun d => place_modMotion s c d fun _ => rfl, rfl⟩
    all_goals exact atRest

/-- A fault up to its list discarded: Plug Relief is judged after it, on CONCAVE alone (R113, R145). -/
theorem fault_judges (s : Part) (c : Channel) (cause : FaultCause) (ending : Option OutcomeCode) : ∃ t : Part, t.plug = s.plug
    ∧ (∀ d, (t.motionOf d).position = (s.motionOf d).position)
    ∧ s.fault c cause ending = if c = .concave then t.judgeRelief else t := by
  unfold Part.fault
  extract_lets held t1 t2 t3 t4
  refine ⟨t4, ?_, fun d => ?_, rfl⟩
  · have h2 : t2.plug = s.plug := plug_raise t1 _ _ _ _
    have h3 : t3.plug = t2.plug := by
      show Part.plug (match (s.motionOf c).move, ending with
        | some mv, some o => (t2.stopJogTimerOf c mv).recordOutcome c o mv.owner mv.tag
        | _, _ => t2) = _
      split
      · rw [plug_recordOutcome, plug_stopJogTimerOf]
      · rfl
    rw [show t4 = t3.discardEntries c .faulted fun _ => true from rfl, plug_discardEntries, h3, h2]
  · have h1 : (t1.motionOf d).position = (s.motionOf d).position := by
      rw [motionOf_modMotion]
      split
      case isTrue same => rw [same]
      case isFalse => rfl
    have h3 : t3.motion = t2.motion := by
      show Part.motion (match (s.motionOf c).move, ending with
        | some mv, some o => (t2.stopJogTimerOf c mv).recordOutcome c o mv.owner mv.tag
        | _, _ => t2) = _
      split
      · rw [motion_recordOutcome, motion_stopJogTimerOf]
      · rfl
    rw [show t4 = t3.discardEntries c .faulted fun _ => true from rfl, motionOf_discardEntries, motionOf_of_motion h3,
      motionOf_of_motion (s := t1) (by simp [t2]), h1]

theorem abort_position (s : Part) (c d : Channel) : ((s.abort c .aborted).motionOf d).position = (s.motionOf d).position := by
  obtain same | ⟨cause, -, faulted⟩ | ⟨mv, u, -, places, recorded⟩ := abort_cases s c
  · rw [same]
  · obtain ⟨t, -, positions, judged⟩ := fault_judges s c cause (some .aborted)
    rw [faulted, judged]
    split
    · rw [motionOf_of_motion (motion_judgeRelief t), positions]
    · exact positions d
  · rw [recorded, motionOf_of_motion (motion_recordOutcome _ _ _ _ _), motionOf_of_motion (motion_stopJogTimerOf _ _ _)]
    exact congrArg (·.1) (places d)

/-- An abort on a channel without a standing fault cause: no fault, so Plug Relief and the Feed Restrain stand, and one frame at most
is queued. -/
theorem abort_calm {s : Part} {c : Channel} (calm : (s.motionOf c).standing = none) : (s.abort c .aborted).plug = s.plug
    ∧ (∀ d, ((s.abort c .aborted).motionOf d).standing = (s.motionOf d).standing) ∧ Sends 1 s (s.abort c .aborted) := by
  obtain same | ⟨cause, stands, -⟩ | ⟨mv, u, drives, places, recorded⟩ := abort_cases s c
  · rw [same]
    exact ⟨rfl, fun _ => rfl, (Sends.refl s).le (Nat.zero_le 1)⟩
  · exact absurd (calm.symm.trans stands) nofun
  · rw [recorded]
    refine ⟨?_, fun d => ?_, (((Sends.refl s).drives drives).stopJogTimerOf c mv).recordOutcome c _ _ _⟩
    · rw [plug_recordOutcome, plug_stopJogTimerOf, plug_of_drives drives]
    · rw [motionOf_of_motion (motion_recordOutcome _ _ _ _ _), motionOf_of_motion (motion_stopJogTimerOf _ _ _)]
      exact congrArg (·.2) (places d)

/-! ### Plug Relief leaves OPENING and OPEN_HELD (R50) -/

/-- Work during which Plug Relief stays open or closed and the Feed Restrain stands, or is closed with the Feed Restrain forced to
LOAD. -/
def Closes (s t : Part) : Prop :=
  (t.override.relief.opens = s.override.relief.opens ∧ t.evaluator.restrain = s.evaluator.restrain)
    ∨ (s.override.relief.opens = true ∧ t.override.relief.opens = false ∧ t.evaluator.restrain = .restrained .load 0)

theorem Closes.refl (s : Part) : Closes s s := .inl ⟨rfl, rfl⟩

theorem Closes.trans {s t u : Part} (h : Closes s t) (k : Closes t u) : Closes s u := by
  obtain ⟨relief, restrain⟩ | ⟨opens, closed, load⟩ := h
  · unfold Closes
    rw [← relief, ← restrain]
    exact k
  · obtain ⟨relief, restrain⟩ | ⟨opens', -, -⟩ := k
    · exact .inr ⟨opens, relief.trans closed, restrain.trans load⟩
    · exact absurd (closed.symm.trans opens') nofun

theorem Closes.of_plug {s t : Part} (same : t.plug = s.plug) : Closes s t :=
  .inl ⟨congrArg (·.1.relief.opens) same, congrArg (·.2.1.restrain) same⟩

theorem disarm_override (s : Part) : s.disarm.override = Override.reset := by
  cases opens : s.override.relief.opens with
  | false => rw [disarm_of_closed opens]
  | true =>
    rw [disarm_of_opens opens]
    unfold Part.announceRestrain
    split <;> rfl

theorem Closes.disarm (s : Part) : Closes s s.disarm := by
  cases opens : s.override.relief.opens with
  | false =>
    rw [disarm_of_closed opens]
    exact .inl ⟨opens.symm, rfl⟩
  | true =>
    refine .inr ⟨opens, by rw [disarm_override]; rfl, ?_⟩
    rw [disarm_of_opens opens]
    unfold Part.announceRestrain
    split <;> rfl

theorem Closes.judgeRelief (s : Part) : Closes s s.judgeRelief := by
  unfold Part.judgeRelief
  split
  · split
    · exact .refl s
    · exact .disarm s
  · split
    case isTrue disarmed => exact .inl ⟨by simp [disarmed, Relief.opens], by simp⟩
    case isFalse => exact .refl s

theorem Closes.abort (s : Part) (c : Channel) : Closes s (s.abort c .aborted) := by
  obtain same | ⟨cause, -, faulted⟩ | ⟨mv, u, drives, -, recorded⟩ := abort_cases s c
  · rw [same]
    exact .refl s
  · obtain ⟨t, plug, -, judged⟩ := fault_judges s c cause (some .aborted)
    rw [faulted, judged]
    split
    · exact (Closes.of_plug plug).trans (.judgeRelief t)
    · exact .of_plug plug
  · refine .of_plug ?_
    rw [recorded, plug_recordOutcome, plug_stopJogTimerOf, plug_of_drives drives]

end Sys2Proof.Machine
end

section
/-! PROOFS. A shutdown entered (R50, R53, R78, R167, R168, R170): every list emptied, then every move aborted, then Plug Relief
disarmed. -/

namespace Sys2Proof.Machine

/-! ### The steps channel by channel -/

/-- The list of a channel discarded whole. -/
def Part.dropEntries (s : Part) (c : Channel) : Part := s.discardEntries c .aborted fun _ => true

/-- The part in a shutdown just begun, before anything is discarded. -/
def Part.shutdownBegun (s : Part) (kind : ShutdownKind) : Part := { s with shutdown := some ⟨kind, some (s.now + deadlineTime)⟩ }

/-- The part in a shutdown just begun, its lists emptied. -/
def Part.listsDropped (s : Part) (kind : ShutdownKind) (o : Order) : Part :=
  (arrange o.channels Channel.all).foldl Part.dropEntries (s.shutdownBegun kind)

/-- The part in a shutdown just begun, its lists emptied and its moves aborted. -/
def Part.movesAborted (s : Part) (kind : ShutdownKind) (o : Order) : Part :=
  (arrange o.channels Channel.all).foldl (fun s c => s.abort c .aborted) (s.listsDropped kind o)

theorem abortMoves_all (s : Part) (o : Order) :
    s.abortMoves o (fun _ => true) = (arrange o.channels Channel.all).foldl (fun s c => s.abort c .aborted) s := by
  unfold Part.abortMoves
  congr
  funext s c
  cases moves : (s.motionOf c).move with
  | some mv => rfl
  | none =>
    unfold Part.abort
    rw [moves]

theorem enterShutdown_eq (s : Part) (kind : ShutdownKind) (o : Order) : s.enterShutdown kind o = (s.movesAborted kind o).disarm :=
  congrArg Part.disarm (abortMoves_all _ o)

/-- No owner: a channel on which nobody may own anything has no move in flight and nothing listed. -/
def Nobody (_ : Owner) : Prop := False

theorem listFits_nobody (s : Part) (c : Channel) : s.listFits Nobody False c ↔ (s.entryOf c).requests = [] :=
  ⟨fun fit => List.eq_nil_iff_forall_not_mem.2 fun e mem => (fit e mem).1, fun none e mem => by rw [none] at mem; exact nomatch mem⟩

theorem owned_nobody (s : Part) (c : Channel) : s.owned Nobody c ↔ (s.motionOf c).move = none :=
  ⟨fun owned => Option.eq_none_iff_forall_not_mem.2 fun mv moves => owned mv moves,
    fun none mv moves => Option.some_ne_none mv (moves.symm.trans none)⟩

theorem Local.dropEntries (s : Part) (c : Channel) : Local Nobody False c s (s.dropEntries c) := (Local.refl s).discardEntries _ _

theorem Local.aborted (s : Part) (c : Channel) : Local Nobody False c s (s.abort c .aborted) := (Local.refl s).abort _

section

variable (s : Part) (kind : ShutdownKind) (o : Order)

/-! ### What a shutdown entered leaves of a channel -/

theorem listsDropped_entry (c : Channel) : ((s.listsDropped kind o).entryOf c).requests = []
    ∧ ((s.listsDropped kind o).entryOf c).setpoint = (s.entryOf c).setpoint := by
  obtain ⟨u, before, after⟩ := Aside.foldl_arrange (c := c) (fun s d ne => (Local.dropEntries s d).aside ne) o (s.shutdownBegun kind)
  have emptied : ((u.dropEntries c).entryOf c).requests = [] := by
    unfold Part.dropEntries
    rw [discardEntries_requests]
    simp
  constructor
  · exact (congrArg (·.requests) after.entry).trans emptied
  · exact ((congrArg (·.setpoint) after.entry).trans ((Local.dropEntries u c).setpoint id).1).trans
      (congrArg (·.setpoint) before.entry)

theorem movesAborted_channel (c : Channel) : ((s.movesAborted kind o).motionOf c).move = none
    ∧ ((s.movesAborted kind o).entryOf c).requests = []
    ∧ ((s.movesAborted kind o).entryOf c).setpoint = (s.entryOf c).setpoint := by
  obtain ⟨u, before, after⟩ := Aside.foldl_arrange (c := c) (fun s d ne => (Local.aborted s d).aside ne) o (s.listsDropped kind o)
  obtain ⟨empty, setpoint⟩ := listsDropped_entry s kind o c
  have stays : u.listFits Nobody False c := before.listFits ((listFits_nobody _ c).2 empty)
  refine ⟨?move, ?requests, ?setpoint⟩
  case move => exact (owned_nobody _ c).1 (after.owned ((owned_nobody _ c).2 (abort_move u c .aborted)))
  case requests => exact (listFits_nobody _ c).1 (after.listFits ((Local.aborted u c).lists stays))
  case setpoint =>
    exact ((congrArg (·.setpoint) after.entry).trans ((Local.aborted u c).setpoint id).1).trans
      ((congrArg (·.setpoint) before.entry).trans setpoint)

theorem listsDropped_motion (c : Channel) : (s.listsDropped kind o).motionOf c = s.motionOf c :=
  foldl_keeps (L := fun t => t.motionOf c = s.motionOf c)
    (fun t d same => (motionOf_discardEntries t d c .aborted _).trans same) _ rfl

theorem movesAborted_position (c : Channel) : ((s.movesAborted kind o).motionOf c).position = (s.motionOf c).position :=
  foldl_keeps (L := fun t => (t.motionOf c).position = (s.motionOf c).position)
    (fun t d same => (abort_position t d c).trans same) _ (congrArg (·.position) (listsDropped_motion s kind o c))

theorem enterShutdown_channel (c : Channel) : let t := s.enterShutdown kind o
    (t.motionOf c).move = none ∧ (t.entryOf c).requests = []
      ∧ (t.entryOf c).setpoint = (s.entryOf c).setpoint ∧ (t.motionOf c).position = (s.motionOf c).position := by
  obtain ⟨book, motion⟩ := book_disarm (s.movesAborted kind o)
  obtain ⟨move, requests, setpoint⟩ := movesAborted_channel s kind o c
  intro t
  rw [show t = (s.movesAborted kind o).disarm from enterShutdown_eq s kind o, entryOf_of_book book, motionOf_of_motion motion]
  exact ⟨move, requests, setpoint, movesAborted_position s kind o c⟩

/-! ### What it leaves of the part -/

theorem enterShutdown_pinned :
    (s.enterShutdown kind o).pinned = { s.pinned with shutdown := some ⟨kind, some (s.now + deadlineTime)⟩ } := by
  have dropped : (s.listsDropped kind o).pinned = (s.shutdownBegun kind).pinned :=
    foldl_keeps (L := fun t => t.pinned = (s.shutdownBegun kind).pinned) (fun t d same => (Local.dropEntries t d).pinned.trans same) _ rfl
  have aborted : (s.movesAborted kind o).pinned = (s.shutdownBegun kind).pinned :=
    foldl_keeps (L := fun t => t.pinned = (s.shutdownBegun kind).pinned) (fun t d same => (Local.aborted t d).pinned.trans same) _ dropped
  rw [enterShutdown_eq]
  exact ((Local.refl (P := Nobody) (W := False) (d := .concave) (s.movesAborted kind o)).disarm).pinned.trans aborted

theorem enterShutdown_quiet : Quiet (s.shutdownBegun kind) (s.enterShutdown kind o) := by
  have begun : Quiet (s.shutdownBegun kind) (s.shutdownBegun kind) := .refl
  exact ((begun.abortEntries o _).abortMoves o _).disarm

theorem enterShutdown_override : (s.enterShutdown kind o).override = Override.reset := by
  rw [enterShutdown_eq, disarm_override]

theorem listsDropped_plug : (s.listsDropped kind o).plug = s.plug :=
  foldl_keeps (L := fun t => t.plug = s.plug) (fun t d same => (plug_discardEntries t d .aborted _).trans same) _ rfl

/-- A Plug Relief that was open leaves the feed restrained by LOAD (R50). -/
theorem enterShutdown_restrain (opens : s.override.relief.opens = true) :
    (s.enterShutdown kind o).evaluator.restrain = .restrained .load 0 := by
  have aborted : Closes s (s.movesAborted kind o) :=
    foldl_keeps (L := Closes s) (fun t d h => h.trans (.abort t d)) _ (.of_plug (listsDropped_plug s kind o))
  have closes : Closes s (s.enterShutdown kind o) := by
    rw [enterShutdown_eq]
    exact aborted.trans (.disarm _)
  obtain ⟨still, -⟩ | ⟨-, -, load⟩ := closes
  · rw [enterShutdown_override, opens] at still
    exact absurd still nofun
  · exact load

/-! ### Its RESTRAIN_NOTICE (R53) -/

/-- Aborts on channels without a standing fault cause. -/
theorem aborts_calm (l : List Channel) : ∀ {s : Part}, (∀ c, (s.motionOf c).standing = none) →
    (l.foldl (fun s c => s.abort c .aborted) s).plug = s.plug ∧ Sends l.length s (l.foldl (fun s c => s.abort c .aborted) s) := by
  induction l with
  | nil => exact fun _ => ⟨rfl, .refl _⟩
  | cons c rest ih =>
    intro s calm
    obtain ⟨plug, standing, sends⟩ := abort_calm (calm c)
    obtain ⟨restPlug, restSends⟩ := ih fun d => (standing d).trans (calm d)
    refine ⟨restPlug.trans plug, ?_⟩
    unfold Sends at *
    simp only [List.foldl_cons, List.length_cons]
    omega

theorem length_arrange_channels : (arrange o.channels Channel.all).length = 6 := by
  have ones := sum_arrange o fun _ => 1
  rw [List.map_const', List.sum_replicate] at ones
  exact (Nat.mul_one _).symm.trans ones

theorem listed_le_of_short (short : ∀ c, (s.entryOf c).requests.length ≤ 1) : s.listed ≤ 6 := by
  have all := List.sum_le_card_nsmul (Channel.all.map fun c => (s.entryOf c).requests.length) 1
    fun n mem => by obtain ⟨c, -, rfl⟩ := List.mem_map.1 mem; exact short c
  exact all

theorem sendRestrain_sent (room : s.bus.queue.length < 24) : s.sendRestrain.restrainSent := by
  have pushed : s.sendRestrain.bus = { s.bus with queue := s.bus.queue ++ [s.restrainFrame] } := if_pos room
  show s.restrainFrame ∈ s.sendRestrain.bus.queue
  rw [pushed]
  exact List.mem_append_right _ List.mem_cons_self

/-- Plug Relief disarmed out of a restraint for relief announces the one for LOAD. -/
theorem disarm_sent (opens : s.override.relief.opens = true) {held : Nat} (relief : s.evaluator.restrain = .restrained .relief held)
    (room : s.bus.queue.length < 24) : s.disarm.restrainSent := by
  rw [disarm_of_opens opens, announceRestrain_of_changed (.inl (by rw [relief]; exact nofun))]
  exact sendRestrain_sent _ room

theorem enterShutdown_sent (opens : s.override.relief.opens = true) {held : Nat}
    (relief : s.evaluator.restrain = .restrained .relief held) (few : s.bus.queue.length ≤ 5)
    (short : ∀ c, (s.entryOf c).requests.length ≤ 1) (calm : ∀ c, (s.motionOf c).standing = none) :
    (s.enterShutdown kind o).restrainSent := by
  obtain ⟨aborted, sends⟩ := aborts_calm (arrange o.channels Channel.all) (s := s.listsDropped kind o)
    fun c => by rw [listsDropped_motion, calm]
  have plug : (s.movesAborted kind o).plug = s.plug := aborted.trans (listsDropped_plug s kind o)
  have dropped : Sends 0 (s.shutdownBegun kind) (s.listsDropped kind o) := (Sends.refl _).abortEntries o fun _ => true
  have room : (s.movesAborted kind o).bus.queue.length < 24 := by
    have listed : (s.shutdownBegun kind).listed ≤ 6 := listed_le_of_short s short
    have queue : (s.shutdownBegun kind).bus.queue.length ≤ 5 := few
    rw [length_arrange_channels] at sends
    change (s.movesAborted kind o).backlog ≤ _ at sends
    unfold Sends at dropped
    unfold Part.backlog at *
    omega
  rw [enterShutdown_eq]
  exact disarm_sent _ ((congrArg (·.1.relief.opens) plug).trans opens) ((congrArg (·.2.1.restrain) plug).trans relief) room

end

/-! ### The commands -/

theorem exec_keyFalls_of_on {p : Part} (on : p.power = .on) (q : List Instr) (dt : Nat) (o : Order) :
    exec (.keyFalls dt o) ⟨p, q⟩ = .next ⟨({ p.later dt with lines := { p.lines with key := false } } : Part).keyDown o, q⟩ :=
  congrArg (fun t => Host.Outcome.next (State.mk t q))
    (Part.onEvent_of_on (s := { p with lines := { p.lines with key := false } }) on dt _)

theorem reply_service (s : Part) (source tag : Byte) (r : Result) :
    s.reply ⟨source, kindService, tag, 0xFF⟩ r 0 = s.answered source 0x05 tag r 0xFF 0 := by
  have code : kindLow kindService = 0x05 := by decide
  unfold Part.reply
  dsimp only
  rw [code]
  rfl

/-- A SERVICE_REQUEST heard with its bytes, from a source that may send it: refused in a shutdown, and handed on otherwise. -/
theorem onService_of_received {s : Part} {h : FrameHeader} {source : Byte} (received : s.receives h source 2) {cabMay : Bool}
    (allowed : serves h 1 cabMay = true) (tag : Byte) (f : Part → Asked → Part) : s.onService h tag cabMay f =
      if s.shutdown.isSome = true then s.answered source 0x05 tag .shuttingDown 0xFF 0
      else f s ⟨source, kindService, tag, 0xFF⟩ := by
  obtain ⟨-, silent, destination, rfl, self, long⟩ := received
  have asked : serviceLayout.asked h tag 0xFF = ⟨h.source, kindService, tag, 0xFF⟩ :=
    congrArg (Asked.mk h.source kindService · 0xFF) (if_pos long)
  unfold Part.onService
  dsimp only
  rw [allowed, Part.judgeRequest_handed ⟨silent, destination, self⟩ long, asked, reply_service]

theorem exec_restart_of_received {p : Part} {h : FrameHeader} (received : p.receives h serviceAddress 2) (q : List Instr) (dt : Nat)
    (tag : Byte) (o : Order) : exec (.restart dt h tag o) ⟨p, q⟩ = .next ⟨
      if p.shutdown.isSome = true then (p.later dt).answered serviceAddress 0x05 tag .shuttingDown 0xFF 0
      else ((p.later dt).answered serviceAddress 0x05 tag .accepted 0xFF 0).enterShutdown .commanded o, q⟩ := by
  have allowed : serves h 1 false = true := by
    obtain ⟨-, -, -, source, -, -⟩ := received
    simp [serves, source]
  refine congrArg (fun t => Host.Outcome.next (State.mk t q)) ((Part.onEvent_of_on received.1 dt _).trans ?_)
  rw [onService_of_received (s := p.later dt) received allowed, reply_service]
  rfl

end Sys2Proof.Machine

open Sys2Proof Sys2Proof.Machine

/-- Settles O53: both commands enter the shutdown, whatever line or REPLY goes before, and in one they change nothing of it. -/
theorem aShutdownDiscardsRequestsAndMoves : Obligations.AShutdownDiscardsRequestsAndMoves := by
  intro p q dt o entered
  have enters (on : p.power = .on) (l : Lines) (b : Bus) (few : b.queue.length ≤ p.bus.queue.length + 1) (k : ShutdownKind) :
      entered (({ p.later dt with lines := l, bus := b } : Part).enterShutdown k o) k := by
    have pinned := enterShutdown_pinned { p.later dt with lines := l, bus := b } k o
    refine ⟨congrArg (·.now) pinned, congrArg (·.shutdown) pinned, enterShutdown_channel _ k o, fun opens => ⟨?restrain, ?sent⟩,
      enterShutdown_override _ k o, (congrArg (·.power) pinned).trans on, congrArg (·.phold) pinned, congrArg (·.store) pinned,
      congrArg (·.capture) pinned, congrArg (·.window.number) pinned, congrArg (·.window.history) pinned,
      congrArg (·.service) pinned⟩
    case restrain => exact enterShutdown_restrain _ k o opens
    case sent =>
      rintro ⟨held, relief⟩ four short calm
      exact enterShutdown_sent { p.later dt with lines := l, bus := b } k o opens relief (few.trans (Nat.succ_le_succ four)) short calm
  refine ⟨fun on runs => ?falls, fun d e on runs => ?again, fun h tag received => ⟨fun runs => ?restart, fun runs => ?refused⟩⟩
  case falls =>
    let s : Part := { p.later dt with lines := { p.lines with key := false } }
    have down : s.keyDown o = s.enterShutdown .keyOff o := by
      unfold Part.keyDown
      rw [show s.shutdown = none from runs]
    have executed : exec (.keyFalls dt o) ⟨p, q⟩ = .next ⟨s.keyDown o, q⟩ := exec_keyFalls_of_on on q dt o
    rw [down] at executed
    exact ⟨s.enterShutdown .keyOff o, executed, enters on s.lines p.bus (Nat.le_succ _) .keyOff,
      congrArg (·.lines) (enterShutdown_pinned s .keyOff o)⟩
  case again =>
    rw [exec_keyFalls_of_on on]
    unfold Part.keyDown
    obtain commanded | keyOff := runs
    · simp only [later_fields, commanded]
    · simp only [later_fields, keyOff]
  case restart =>
    let s : Part := (p.later dt).answered serviceAddress 0x05 tag .accepted 0xFF 0
    let reply : Frame := p.replyFrame serviceAddress 0x05 tag .accepted 0xFF 0
    have executed := exec_restart_of_received received q dt tag o
    rw [runs] at executed
    refine ⟨s.enterShutdown .commanded o, executed, enters received.1 _ s.bus (Bus.push_queue p.bus reply).2.2 .commanded,
      congrArg (·.lines) (enterShutdown_pinned s .commanded o), fun room => ?_⟩
    have pushed : s.bus = { p.bus with queue := p.bus.queue ++ [reply] } := if_pos room
    refine (enterShutdown_quiet s .commanded o).queue.1 reply ?_ rfl
    show reply ∈ s.bus.queue
    rw [pushed]
    exact List.mem_append_right _ List.mem_cons_self
  case refused => rw [exec_restart_of_received received, if_pos runs]

end

section
/-! PROOFS. Work on a channel while Plug Relief is neither OPENING nor OPEN_HELD: no relief timer starts but the watch timer, and the
Evaluator, with the Feed Restrain, stands (R50, R145 to R147, R152). -/

namespace Sys2Proof.Machine

/-- Plug Relief neither OPENING nor OPEN_HELD, no timer of it running but the watch timer, the RELIEF mark set; and the Evaluator
as given. -/
structure Calm (e : Evaluator) (s : Part) : Prop where
  evaluator : s.evaluator = e
  closed : s.override.relief.opens = false
  confirm : s.override.confirmAt = none
  recover : s.override.recoverAt = none
  giveUp : s.override.giveUpAt = none
  mark : s.window.marks.relief = true

section

variable {e : Evaluator} {s t : Part}

/-! ### Plug Relief judged -/

theorem Calm.of_plug (h : Calm e s) (same : t.plug = s.plug) : Calm e t := by
  obtain ⟨override, evaluator, mark⟩ : t.override = s.override ∧ t.evaluator = s.evaluator
      ∧ t.window.marks.relief = s.window.marks.relief := by simpa [Part.plug] using same
  exact ⟨evaluator.trans h.evaluator, override ▸ h.closed, override ▸ h.confirm, override ▸ h.recover, override ▸ h.giveUp,
    mark.trans h.mark⟩

/-- Another state that is not open, with the timers as they were or stopped. -/
theorem Calm.relieve (h : Calm e s) {o : Override} (closed : o.relief.opens = false) (confirm : o.confirmAt = none)
    (recover : o.recoverAt = none) (giveUp : o.giveUpAt = none) : Calm e { s with override := o } :=
  ⟨h.evaluator, closed, confirm, recover, giveUp, h.mark⟩

theorem Calm.setRelief (h : Calm e s) {r : Relief} (closed : r.opens = false) : Calm e (s.setRelief r) := by
  have judged : Calm e { s with override := { s.override with relief := r } } := h.relieve closed h.confirm h.recover h.giveUp
  unfold Part.setRelief
  dsimp only
  split
  · exact ⟨judged.evaluator, closed, judged.confirm, judged.recover, judged.giveUp, rfl⟩
  · exact judged

theorem Calm.disarm (h : Calm e s) : Calm e s.disarm := by
  rw [disarm_of_closed h.closed]
  exact h.relieve rfl rfl rfl rfl

theorem Calm.judgeRelief (h : Calm e s) : Calm e s.judgeRelief := by
  unfold Part.judgeRelief
  split
  · split
    · exact h
    · exact h.disarm
  · split
    · exact h.setRelief rfl
    · exact h

theorem Calm.reliefOutcome (h : Calm e s) (k : MoveKind) (o : OutcomeCode) : Calm e (s.reliefOutcome k o) := by
  unfold Part.reliefOutcome
  extract_lets code
  split
  · rename_i opening
    exact absurd (opening ▸ h.closed) nofun
  · refine Calm.of_plug ?_ (plug_raise _ _ _ _ _)
    have armed : Calm e (s.setRelief .armed) := h.setRelief rfl
    exact armed.relieve armed.closed rfl armed.recover armed.giveUp
  · exact h

/-! ### Setpoints and the end of a move -/

theorem Calm.putSetpoint (h : Calm e s) (c : Channel) (v : Int) : Calm e (s.putSetpoint c v) := by
  unfold Part.putSetpoint
  extract_lets old t
  have ht : Calm e t := h.of_plug rfl
  split
  · exact ht.of_plug rfl
  · have raised : Calm e (t.drumRaised old) := by
      unfold Part.drumRaised
      split
      · have spun : Calm e (t.setRelief .spinup) := ht.setRelief rfl
        exact spun.relieve rfl rfl spun.recover spun.giveUp
      · exact ht
    unfold Part.stopIdleWatch
    split
    · exact raised.relieve raised.closed raised.confirm raised.recover raised.giveUp
    · exact raised
  all_goals exact ht

theorem Calm.commit (h : Calm e s) (c : Channel) (v : Int) (r : Requester) (origin : Origin) : Calm e (s.commit c v r origin) := by
  have marked : Calm e (s.modBook c fun b => { b with origin := origin }) := h.of_plug rfl
  have put := marked.putSetpoint c (s.clampToEnvelope c v)
  unfold Part.commit Part.seeCommitment
  extract_lets t
  split
  · exact put
  all_goals split <;> exact put.of_plug rfl

theorem Calm.endMove (h : Calm e s) (c : Channel) (o : OutcomeCode) : Calm e (s.endMove c o) := by
  unfold Part.endMove
  split
  · exact h
  · refine Calm.reliefOutcome (h.of_plug ?_) _ o
    rw [plug_recordOutcome, plug_stopJogTimerOf]
    rfl

theorem Calm.completeMove (h : Calm e s) (c : Channel) (o : OutcomeCode) : Calm e (s.completeMove c o) :=
  Calm.endMove (s := s.modMotion c fun m => { m with stallCount := 0 }) (h.of_plug rfl) c o

theorem Calm.endJogMove (h : Calm e s) (c : Channel) (mv : Move) : Calm e (s.endJogMove c mv) := by
  have committed : Calm e (s.commitJog c mv) := by
    unfold Part.commitJog
    split
    · exact h.commit c _ _ _
    · exact h
  unfold Part.endJogMove
  dsimp only
  split
  · exact committed.endMove c _
  · exact committed.completeMove c _

/-! ### The hand-over -/

theorem Calm.hand (h : Calm e s) (c : Channel) (mv : Move) : Calm e (s.hand c mv) := by
  unfold Part.hand
  split
  · exact h.of_plug (plug_recordOutcome _ _ _ _ _)
  · split
    · exact h.of_plug (plug_of_drives (((Drives.refl s).modMotion c _).markShifted c mv))
    · extract_lets t
      have waits : Calm e (t.enterWaiting c) := h.of_plug (plug_of_drives ((((Drives.refl s).modMotion c _).modMotion c _).askSlot c))
      have ht : Calm e t := h.of_plug rfl
      split
      · split
        · split
          · exact ht.endJogMove c mv
          · exact ht.completeMove c _
        · exact waits
      · exact waits

theorem Calm.handSet (h : Calm e s) (c : Channel) (owner : Owner) (kind : MoveKind) (sch : Scheduling) (target : Int)
    (tag : Option Byte) : Calm e (s.handSet c owner kind sch target tag) := by
  unfold Part.handSet
  extract_lets mv
  split <;> exact h.hand c _

theorem Calm.handHome (h : Calm e s) (p : PosChannel) (r : Requester) (tag : Option Byte) : Calm e (s.handHome p r tag) := by
  unfold Part.handHome
  extract_lets c cal t u
  have ht : Calm e t := h.of_plug rfl
  refine Calm.hand ?_ c _
  show Calm e (if c = .concave then t.judgeRelief else t)
  split
  · exact ht.judgeRelief
  · exact ht

theorem Calm.handJog (h : Calm e s) (c : Channel) (r : Requester) (d : Direction) (tag : Option Byte) : Calm e (s.handJog c r d tag) := by
  unfold Part.handJog
  extract_lets mv
  split <;> exact h.hand c _

/-! ### The take rule -/

theorem Calm.commitEntry (h : Calm e s) (c : Channel) (x : Entry) : Calm e (s.commitEntry c x) := by
  unfold Part.commitEntry
  split
  · split
    · exact h.commit c _ _ _
    · exact h
  all_goals exact h

theorem Calm.takeEntry (h : Calm e s) (c : Channel) (x : Entry) : Calm e (s.takeEntry c x) := by
  unfold Part.takeEntry
  split
  · exact (h.commitEntry c x).handSet c _ _ _ _ _
  · exact h.handJog c _ _ _
  · exact h.handHome _ _ _
  · exact h.hand _ _
  all_goals exact h

theorem Calm.homeFirst (h : Calm e s) (p : PosChannel) (x : Entry) : Calm e (s.homeFirst p x) := by
  unfold Part.homeFirst
  extract_lets c t
  have ht : Calm e t := (h.of_plug (plug_discardEntries s c .superseded _)).handHome p _ _
  split
  · exact ht.of_plug (plug_discardEntries t c .aborted _)
  · exact ht

theorem Calm.deferEntry (h : Calm e s) (c : Channel) (x : Entry) : Calm e (s.deferEntry c x) := by
  unfold Part.deferEntry
  split
  · exact (h.commitEntry c x).of_plug (plug_recordOutcome _ _ _ _ _)
  · exact h.of_plug (plug_recordOutcome _ _ _ _ _)

theorem Calm.takeHead (h : Calm e s) (c : Channel) (x : Entry) (others : List Entry) : Calm e (s.takeHead c x others) := by
  unfold Part.takeHead
  extract_lets dropHead alone taken
  have dropped (o : OutcomeCode) : Calm e (dropHead.endEntry c o x) := h.of_plug (plug_endEntry dropHead c o x)
  have ht : Calm e taken := h.of_plug (plug_endEntries c .superseded others alone)
  split
  · exact dropped _
  · split
    · split
      · exact ht.takeEntry c x
      · split
        · exact ht.takeEntry c x
        · exact dropped _
        · exact dropped _
        · exact h.homeFirst _ x
    · split
      · split
        · exact ht.takeEntry c x
        · exact ht.deferEntry c x
      · split
        · exact ht.takeEntry c x
        · exact dropped _
      all_goals exact ht.takeEntry c x

theorem Calm.takeUpTo (n : Nat) (c : Channel) : ∀ {s : Part}, Calm e s → Calm e (s.takeUpTo n c) := by
  induction n with
  | zero => exact fun h => h
  | succ n ih =>
    intro s h
    unfold Part.takeUpTo
    split
    · exact h
    · split
      · exact ih (h.takeHead c _ _)
      · exact h

theorem Calm.take (h : Calm e s) (c : Channel) : Calm e (s.take c) := Calm.takeUpTo _ c h

/-- With the feed restrained the reported reduction is that of the preset (R52). -/
theorem Calm.reduction (h : Calm e s) (restrained : e.restrain = .restrained .load 0) :
    s.reduction = s.store.activePreset.restrain.reduction := by
  rw [reduction_eq, if_neg (by rw [h.closed]; exact nofun), h.evaluator, restrained]
  rfl

end

end Sys2Proof.Machine
end

section
/-! PROOFS. RECOVER_TIMER_EXPIRY: the RETURN handed to a concave at rest, the Feed Restrain back to LOAD, and the take rule (R50, R52 to
R54, R146, R152). -/

namespace Sys2Proof.Machine

/-- The part with Plug Relief just RETURNING: the RELIEF mark set, the watch timer started, the others stopped. -/
def Part.returnBegun (s : Part) : Part := { s with
  override := { Override.reset with relief := .returning, watchAt := s.watchDeadline s.store.activePreset.relief.enterPercent }
  window := { s.window with marks := { s.window.marks with relief := true } } }

/-- The part with the Feed Restrain forced to LOAD, the change from before announced. -/
def Part.loadAnnounced (s : Part) (before : RestrainFace × Nat) : Part := (s.setRestrain (.restrained .load 0)).announceRestrain before

theorem enterReturning_eq (s : Part) :
    s.enterReturning = (s.returnBegun.handReturn.loadAnnounced s.restrainFace).take .concave := by
  have begun : ({ s.setRelief .returning with override := { Override.reset with relief := .returning } } : Part).startWatch =
      s.returnBegun := startWatch_of_watched rfl
  rw [← begun]
  rfl

theorem exec_recoverTimerExpiry_of_on {p : Part} (on : p.power = .on) (q : List Instr) {d : Nat} (runs : p.override.recoverAt = some d) :
    exec .recoverTimerExpiry ⟨p, q⟩ =
      .next ⟨((p.atTime d).returnBegun.handReturn.loadAnnounced (p.atTime d).restrainFace).take .concave, q⟩ := by
  rw [← enterReturning_eq]
  exact congrArg (fun t => Host.Outcome.next (State.mk t q)) (Part.onExpiry_of_on on runs _)

theorem watchDeadline_isSome (s : Part) (percent : Nat) :
    (s.watchDeadline percent).isSome = true ↔ 0 < (s.entryOf .drum).setpoint := by
  unfold Part.watchDeadline
  dsimp only
  split
  case isTrue positive => exact iff_of_true rfl positive
  case isFalse idle => exact iff_of_false Bool.false_ne_true idle

/-! ### The RETURN handed -/

/-- The RETURN move to the CONCAVE setpoint. -/
def Part.returnMove (s : Part) : Move :=
  (Move.blank .override .returning .whole none).aim (s.motionOf .concave).position (s.countsOf .concave (s.entryOf .concave).setpoint)

/-- The part with the RETURN move in flight. -/
def Part.returnHeld (s : Part) : Part := s.modMotion .concave fun m => { m with move := some s.returnMove }

theorem handReturn_of_idle {s : Part} (idle : (s.motionOf .concave).phase = .idle) : s.handReturn =
    if s.countsOf .concave (s.entryOf .concave).setpoint = (s.motionOf .concave).position
    then s.returnHeld.completeMove .concave .complete else s.returnHeld.enterWaiting .concave := by
  have handed : s.handReturn = s.hand .concave s.returnMove := rfl
  have base : s.returnMove.base = 0 ↔
      s.countsOf .concave (s.entryOf .concave).setpoint = (s.motionOf .concave).position := by
    show distance _ _ = 0 ↔ _
    unfold distance
    omega
  rw [handed]
  unfold Part.hand
  rw [if_neg (fun both => Nat.succ_ne_zero 2 both.1), if_neg (by rw [idle]; decide)]
  exact if_congr base rfl rfl

/-- Away from its setpoint the concave at rest waits or drives, and nothing else is done. -/
theorem handReturn_away {s : Part} (idle : (s.motionOf .concave).phase = .idle)
    (away : s.countsOf .concave (s.entryOf .concave).setpoint ≠ (s.motionOf .concave).position) :
    Drives s s.handReturn ∧ s.handReturn.drivesOrWaits .concave s.slots.length
      ∧ ∃ mv, (s.handReturn.motionOf .concave).move = some mv ∧ mv.kind = .returning ∧ mv.owner = .override
        ∧ mv.target = some (s.countsOf .concave (s.entryOf .concave).setpoint) := by
  have motion : s.returnHeld.motionOf .concave = { s.motionOf .concave with move := some s.returnMove } := motionOf_modMotion_self _ _ _
  have base : s.returnMove.base ≠ 0 := by
    show distance _ _ ≠ 0
    unfold distance
    omega
  obtain ⟨serves, mv, moves, identity, -⟩ := enterWaiting_serves (s := s.returnHeld) (x := .concave) (mv := s.returnMove)
    (by rw [show PosChannel.concave.channel = .concave from rfl, motion]) MoveKind.noConfusion MoveKind.noConfusion rfl base
    (by rw [show PosChannel.concave.channel = .concave from rfl, motion]; exact away)
  simp only [Move.identity, Prod.mk.injEq] at identity
  obtain ⟨owner, kind, aimed, -⟩ := identity
  rw [handReturn_of_idle idle, if_neg away]
  exact ⟨(((Drives.refl s).modMotion .concave _).modMotion .concave _).askSlot .concave, serves, mv, moves, kind, owner, aimed⟩

/-- The part with a move at its end: the outcome COMPLETE recorded. -/
def Part.returnRecorded (s : Part) : Part :=
  ((s.returnHeld.modMotion .concave fun m => { m with stallCount := 0 }).modMotion .concave fun m =>
    { m with phase := .idle, move := none, coastEndsAt := none }).recordOutcome .concave .complete .override none

theorem returnHeld_completes {s : Part} (returning : s.override.relief = .returning) :
    s.returnHeld.completeMove .concave .complete =
      ((s.returnRecorded.setRelief .armed).stopConfirm).raise .reliefRecovered (some .concave) 0
        (s.capture.speed.drum.rpm % 65536) := by
  have moves : ((s.returnHeld.modMotion .concave fun m => { m with stallCount := 0 }).motionOf .concave).move = some s.returnMove := by
    rw [motionOf_modMotion_self]
    show (s.returnHeld.motionOf .concave).move = _
    rw [Part.returnHeld, motionOf_modMotion_self]
  have ended : s.returnHeld.completeMove .concave .complete = s.returnRecorded.reliefOutcome .returning .complete := by
    unfold Part.completeMove Part.endMove
    rw [moves]
    rfl
  have relief : s.returnRecorded.override.relief = .returning := by
    rw [show s.returnRecorded.override = s.override from congrArg (·.1) (plug_recordOutcome _ _ _ _ _), returning]
  have capture : s.returnRecorded.capture = s.capture := by simp [Part.returnRecorded, Part.recordOutcome, Part.returnHeld]
  rw [ended, ← capture]
  unfold Part.reliefOutcome
  simp only [relief]

/-- At its setpoint the concave has nothing to go: the RETURN ends COMPLETE and Plug Relief is ARMED. -/
theorem handReturn_completes {s : Part} (idle : (s.motionOf .concave).phase = .idle) (returning : s.override.relief = .returning)
    (there : s.countsOf .concave (s.entryOf .concave).setpoint = (s.motionOf .concave).position) : let t := s.handReturn
    t.override = { s.override with relief := .armed, confirmAt := none }
      ∧ (t.motionOf .concave).phase = .idle ∧ (t.motionOf .concave).move = none
      ∧ t.entryOf .concave = { s.entryOf .concave with last := some ⟨.complete, .override, s.window.number⟩ }
      ∧ t.bus.queue.length ≤ s.bus.queue.length + 2
      ∧ (s.bus.queue.length < 23 →
          t.notified .reliefRecovered (some .concave) 0 (s.capture.speed.drum.rpm % 65536) s.window.number) := by
  intro t
  have is : t = ((s.returnRecorded.setRelief .armed).stopConfirm).raise .reliefRecovered (some .concave) 0
      (s.capture.speed.drum.rpm % 65536) := by
    rw [← returnHeld_completes returning]
    exact (handReturn_of_idle idle).trans (if_pos there)
  let armed : Part := (s.returnRecorded.setRelief .armed).stopConfirm
  have override : s.returnRecorded.override = s.override := congrArg (·.1) (plug_recordOutcome _ _ _ _ _)
  have number : s.returnRecorded.window.number = s.window.number := by simp [Part.returnRecorded, Part.recordOutcome, Part.returnHeld]
  have queue : armed.bus.queue.length ≤ s.bus.queue.length + 1 := raise_queue_length _ _ _ _ _
  have motion : t.motion = s.returnRecorded.motion := by simp [is]
  have rested : t.motionOf .concave = { s.motionOf .concave with stallCount := 0, phase := .idle, move := none, coastEndsAt := none } := by
    rw [motionOf_of_motion motion, Part.returnRecorded, motionOf_of_motion (motion_recordOutcome _ _ _ _ _), motionOf_modMotion_self,
      motionOf_modMotion_self, Part.returnHeld, motionOf_modMotion_self]
  refine ⟨?override, ?phase, ?move, ?entry, ?length, fun room => ?notified⟩
  case override =>
    have raised : t.override = armed.override := by simp [is, armed]
    rw [raised, ← override]
    rfl
  case phase => rw [rested]
  case move => rw [rested]
  case entry =>
    rw [entryOf_of_book (s := s.returnRecorded) (by simp [is]), Part.returnRecorded, entryOf_recordOutcome]
    rfl
  case length =>
    rw [is]
    exact (raise_queue_length armed _ _ _ _).trans (Nat.succ_le_succ queue)
  case notified =>
    rw [is, ← number]
    exact raiseIn_notified armed _ _ _ _ _ (by omega)

theorem handReturn_queue {s : Part} (idle : (s.motionOf .concave).phase = .idle) (returning : s.override.relief = .returning) :
    s.handReturn.bus.queue.length ≤ s.bus.queue.length + 2 := by
  by_cases there : s.countsOf .concave (s.entryOf .concave).setpoint = (s.motionOf .concave).position
  · obtain ⟨-, -, -, -, length, -⟩ := handReturn_completes idle returning there
    exact length
  · obtain ⟨⟨_, _, _, _, same⟩, -, -⟩ := handReturn_away idle there
    rw [same]
    exact Nat.le_add_right _ _

/-! ### The Feed Restrain back to LOAD -/

theorem loadAnnounced_quiet (s : Part) (before : RestrainFace × Nat) : Quiet s (s.loadAnnounced before) :=
  (Quiet.setRestrain .refl _).announceRestrain _

theorem loadAnnounced_local {P : Owner → Prop} {W : Prop} {d : Channel} {s0 s : Part} (h : Local P W d s0 s)
    (before : RestrainFace × Nat) : Local P W d s0 (s.loadAnnounced before) := by
  refine Local.announceRestrain ?_ before
  exact h.other rfl rfl rfl (.inl rfl) id

theorem loadAnnounced_leaves (s : Part) (before : RestrainFace × Nat) : let t := s.loadAnnounced before
    t.override = s.override ∧ t.book = s.book ∧ t.motion = s.motion ∧ t.window = s.window
      ∧ t.evaluator.restrain = .restrained .load 0 := by
  unfold Part.loadAnnounced Part.announceRestrain
  split <;> exact ⟨rfl, rfl, rfl, rfl, rfl⟩

theorem Calm.loadAnnounced {e : Evaluator} {s : Part} (h : Calm e s) (before : RestrainFace × Nat) :
    Calm (s.loadAnnounced before).evaluator (s.loadAnnounced before) := by
  obtain ⟨override, -, -, window, -⟩ := loadAnnounced_leaves s before
  exact ⟨rfl, override ▸ h.closed, override ▸ h.confirm, override ▸ h.recover, override ▸ h.giveUp, window ▸ h.mark⟩

/-- Out of another state or cause the change is announced, where the queue has room. -/
theorem loadAnnounced_sent {s : Part} {before : RestrainFace × Nat} (changed : before.1 ≠ .restrained .load)
    (room : s.bus.queue.length < 24) : let t := s.loadAnnounced before
    t.restrainSent ∧ t.evaluator.sentReduction = t.reduction := by
  let forced : Part := s.setRestrain (.restrained .load 0)
  have sends : s.loadAnnounced before = forced.sendRestrain := announceRestrain_of_changed (.inl changed.symm)
  dsimp only
  rw [sends]
  exact ⟨sendRestrain_sent forced room, rfl⟩

/-- A notice sent stays in the queue, and the take rule on a channel leaves what it tells of. -/
theorem take_restrainSent {s : Part} (calm : Calm s.evaluator s) (restrained : s.evaluator.restrain = .restrained .load 0)
    (sent : s.restrainSent) (c : Channel) : (s.take c).restrainSent ∧ (s.take c).reduction = s.reduction := by
  have work : Local AnyOwner True c s (s.take c) := (Local.refl s).take (listFits_any s c)
  have taken : Calm s.evaluator (s.take c) := calm.take c
  have store : (s.take c).store = s.store := congrArg (·.store) work.pinned
  have reduction : (s.take c).reduction = s.reduction := by rw [taken.reduction restrained, calm.reduction restrained, store]
  have frame : (s.take c).restrainFrame = s.restrainFrame := by
    unfold Part.restrainFrame
    rw [store, taken.evaluator, reduction, number_of_pinned work.pinned]
  refine ⟨?_, reduction⟩
  show (s.take c).restrainFrame ∈ (s.take c).bus.queue
  rw [frame]
  exact (Quiet.take .refl c).queue.1 s.restrainFrame sent rfl

end Sys2Proof.Machine

open Sys2Proof Sys2Proof.Machine

/-- Settles O45: the RETURN handed to a concave at rest, in flight or at once at its end, and what the take rule then leaves. -/
theorem aRecoveredDrumReturnsTheConcave : Obligations.ARecoveredDrumReturnsTheConcave := by
  intro p q d on runs idle still target away
  let s : Part := p.atTime d
  let b : Part := s.returnBegun
  let h : Part := b.handReturn
  let a : Part := h.loadAnnounced s.restrainFace
  let t : Part := a.take .concave
  have begun : Calm p.evaluator b := ⟨rfl, rfl, rfl, rfl, rfl, rfl⟩
  have handed : Calm p.evaluator h := begun.handSet .concave .override .returning .whole _ none
  have announced : Calm a.evaluator a := handed.loadAnnounced _
  have taken : Calm a.evaluator t := announced.take .concave
  have work : Local AnyOwner True .concave b t :=
    (loadAnnounced_local ((Local.refl b).handReturn trivial) _).take (listFits_any b .concave)
  have pinned : t.pinned = (p.atTime d).pinned := work.pinned
  have store : t.store = p.store := congrArg (·.store) pinned
  obtain ⟨override, book, motion, -, restrain⟩ := loadAnnounced_leaves h s.restrainFace
  have flies (way : away) : Drives b h ∧ t = a ∧ h.drivesOrWaits .concave p.slots.length
      ∧ ∃ mv, (h.motionOf .concave).move = some mv ∧ mv.kind = .returning ∧ mv.owner = .override ∧ mv.target = some target := by
    obtain ⟨drives, serves, moves⟩ := handReturn_away (s := b) idle way
    refine ⟨drives, take_of_moving ?_, serves, moves⟩
    rw [motionOf_of_motion motion]
    by_cases room : p.slots.length < 2
    · rw [serves.1 room]
      decide
    · rw [serves.2 (Nat.not_lt.1 room)]
      decide
  have ends (there : ¬away) := handReturn_completes (s := b) idle rfl (not_not.1 there)
  have watches (quiet : t = a) (watch : h.override.watchAt = b.override.watchAt) :
      t.override.watchAt.isSome = true ↔ 0 < (p.entryOf .drum).setpoint := by
    rw [quiet, override, watch]
    exact watchDeadline_isSome s _
  refine ⟨t, exec_recoverTimerExpiry_of_on on q runs, congrArg (·.now) pinned, taken.confirm, taken.recover, taken.giveUp, taken.mark,
    ?watch, fun way => ?away, fun there empty => ?there, ?restrain, fun _ room relief => ?sent, work.entries, store,
    congrArg (·.capture) pinned, congrArg (·.lines) pinned, (congrArg (·.power) pinned).trans on, congrArg (·.service) pinned,
    congrArg (·.window.number) pinned, congrArg (·.window.history) pinned⟩
  case watch =>
    intro known
    by_cases way : away
    · obtain ⟨drives, quiet, -, -⟩ := flies way
      exact watches quiet (congrArg (·.1.watchAt) (plug_of_drives drives))
    · obtain ⟨relief, -, -, entry, -, -⟩ := ends way
      have empty : (a.entryOf .concave).requests = [] := by
        rw [entryOf_of_book book, entry]
        exact known.resolve_left way
      exact watches (take_of_nil empty) (congrArg (·.watchAt) relief)
  case away =>
    obtain ⟨drives, quiet, serves, moves⟩ := flies way
    rw [quiet]
    refine ⟨?_, book.trans ?_, ?_, ?_⟩
    · rw [override]
      exact congrArg (·.1.relief) (plug_of_drives drives)
    · obtain ⟨_, _, _, _, same⟩ := drives
      rw [same]
      rfl
    · rw [motionOf_of_motion motion]
      exact moves
    · unfold Part.drivesOrWaits
      rw [motionOf_of_motion motion]
      exact serves
  case there =>
    obtain ⟨relief, phase, move, entry, -, recovered⟩ := ends there
    have quiet : t = a := take_of_nil (by rw [entryOf_of_book book, entry]; exact empty)
    rw [quiet, override, entryOf_of_book book, motionOf_of_motion motion, relief]
    exact ⟨rfl, phase, move, entry, fun room => (loadAnnounced_quiet h _).notified (recovered (Nat.lt_of_lt_of_le room (by decide)))⟩
  case restrain => rw [taken.evaluator, restrain]
  case sent =>
    obtain ⟨held, relief⟩ := relief
    have changed : s.restrainFace.1 ≠ .restrained .load := by
      rw [restrainFace_eq, show s.evaluator.restrain = .restrained .relief held from relief]
      exact nofun
    have few : h.bus.queue.length ≤ p.bus.queue.length + 2 := handReturn_queue (s := b) idle rfl
    obtain ⟨sent, carried⟩ := loadAnnounced_sent changed (Nat.lt_of_le_of_lt few (by omega))
    obtain ⟨stays, reduction⟩ := take_restrainSent announced restrain sent .concave
    refine ⟨by rw [taken.reduction restrain, store], stays, ?_⟩
    rw [taken.evaluator, reduction]
    exact carried

end

section
/-! PROOFS. The Setting Book's invariants: every step keeps the Request Lists ranked (R67), and the setpoints, the FAN effective target
and the envelopes within their limits (R57, R59, R60). -/

namespace Sys2Proof.Machine

/-- A law that every change keeps is one that every step keeps: a step runs one command, which is a chain of changes, or idles. -/
theorem step_keeps {L : Part → Prop} (keeps : ∀ s t : Part, Change s t → L s → L t) {s t : State} (law : L s.part)
    (stepped : step s = .next t) : L t.part := by
  unfold step at stepped
  split at stepped
  · cases stepped
    exact law
  · exact Changes.keeps keeps (exec_changes stepped) law

end Sys2Proof.Machine

open Sys2Proof Sys2Proof.Machine

/-- Settles O11: every change keeps each Request List in falling authority. -/
theorem everyStepKeepsRequestListsRanked : Obligations.EveryStepKeepsRequestListsRanked :=
  fun _ _ law stepped => step_keeps (L := Part.listLaw) (fun _ _ e => e.listLaw) law stepped

/-- Settles O12: every change keeps setpoints in the envelopes and these in the factory limits. -/
theorem everyStepKeepsSettingsInTheirEnvelopes : Obligations.EveryStepKeepsSettingsInTheirEnvelopes :=
  fun _ _ law stepped => step_keeps (L := Part.settingLaw) (fun _ _ e => e.settingLaw) law stepped

end

section
/-! PROOFS. The requests of the Setting Book received: a SETTING_REQUEST checked in the order of R65, a MODE_REQUEST (R61), LEAVE (R80)
and BOOK_QUERY (R172). -/

namespace Sys2Proof.Machine

/-! ### SETTING_REQUEST (R64, R65) -/

/-- The requester that a source of SETTING_REQUEST stands for. -/
def senderOf (source : Byte) : Requester := if source = cabAddress then .operator else .service

theorem requesterOf_eq_senderOf {source : Byte} (sends : source = cabAddress ∨ source = serviceAddress) :
    requesterOf source = some (senderOf source) := by
  rcases sends with rfl | rfl <;> decide

theorem senderOf_eq_operator_iff (source : Byte) : senderOf source = .operator ↔ source = cabAddress := by
  unfold senderOf
  split <;> simp_all

theorem senderOf_rank (source : Byte) : (senderOf source).rank = if source = cabAddress then 1 else 2 := by
  unfold senderOf
  split <;> rfl

theorem operates_of_source {h : FrameHeader} (sends : h.source = cabAddress ∨ h.source = serviceAddress) : operates h = true := by
  unfold operates
  rcases sends with source | source <;> simp [source]

/-- What a REPLY to a SETTING_REQUEST carries of it, where the frame has its bytes. -/
def settingAsked (source : Byte) (f : SettingFields) : Asked := ⟨source, kindSetting, f.tag, f.channel⟩

theorem reply_setting (s : Part) (source : Byte) (f : SettingFields) (r : Result) (v : Word) :
    s.reply (settingAsked source f) r v = s.answered source 0x01 f.tag r f.channel v := by
  have code : kindLow kindSetting = 0x01 := by decide
  unfold Part.reply settingAsked
  dsimp only
  rw [code]
  rfl

section

variable {s : Part} {h : FrameHeader} {source : Byte} {f : SettingFields} {k : SettingKind}
  {place : Part → Requester → Channel → Asked → Part}

/-- A SETTING_REQUEST heard with its bytes from one of its sources, before its checks. -/
theorem onSetting_of_received (sends : source = cabAddress ∨ source = serviceAddress) (received : s.receives h source 6) :
    s.onSetting h f (some k) place =
      match s.checkSetting (senderOf source) f.channel (some k) f.value.toInt with
      | .error e => s.reply (settingAsked source f) e 0
      | .ok c => place s (senderOf source) c (settingAsked source f) := by
  obtain ⟨-, silent, destination, rfl, self, long⟩ := received
  have asked : settingLayout.asked h f.tag f.channel = settingAsked h.source f :=
    congrArg₂ (Asked.mk h.source kindSetting) (if_pos long) (if_pos (Nat.lt_of_lt_of_le (by decide) long))
  unfold Part.onSetting
  dsimp only
  rewrite [operates_of_source sends, Part.judgeRequest_handed ⟨silent, destination, self⟩ long, asked, requesterOf_eq_senderOf sends]
  rfl

theorem onSetting_refused (sends : source = cabAddress ∨ source = serviceAddress) (received : s.receives h source 6) {e : Result}
    (refused : s.checkSetting (senderOf source) f.channel (some k) f.value.toInt = .error e) :
    s.onSetting h f (some k) place = s.answered source 0x01 f.tag e f.channel 0 := by
  rw [onSetting_of_received sends received, refused]
  exact reply_setting s source f e 0

theorem onSetting_placed (sends : source = cabAddress ∨ source = serviceAddress) (received : s.receives h source 6) {c : Channel}
    (passes : s.checkSetting (senderOf source) f.channel (some k) f.value.toInt = .ok c) :
    s.onSetting h f (some k) place = place s (senderOf source) c (settingAsked source f) := by
  rw [onSetting_of_received sends received, passes]

end

/-- What a SETTING_REQUEST of a kind that has passed its checks makes of the part. -/
def Part.placeSetting (s : Part) (k : SettingKind) (f : SettingFields) (r : Requester) (c : Channel) (a : Asked) : Part :=
  match k with
  | .set => s.placeSet f r c a
  | .jogStart => s.placeJog f r c a
  | .jogStop => s.placeJogStop f r c a
  | .home => s.placeHome f r c a
  | .shake => s.placeShake f r c a

theorem exec_settingCommand_of_on {p : Part} (on : p.power = .on) (q : List Instr) (k : SettingKind) (dt : Nat) (h : FrameHeader)
    (f : SettingFields) : exec (settingCommand k dt h f) ⟨p, q⟩ =
      .next ⟨(p.later dt).onSetting h f (some k) fun p r c a => p.placeSetting k f r c a, q⟩ := by
  cases k <;> exact congrArg (fun t => Host.Outcome.next (State.mk t q)) (Part.onEvent_of_on on dt _)

/-! ### The checks of R65 -/

theorem positional_eq_false_iff (c : Channel) : Channel.positional c = false ↔ c ∈ [Channel.drum, Channel.fan] := by
  cases c <;> decide

theorem isFaulted_iff (s : Part) (c : Channel) : s.isFaulted c = true ↔ ∃ cause, (s.motionOf c).phase = .faulted cause := by
  unfold Part.isFaulted
  split <;> simp_all

section

variable {s : Part} {r : Requester} {channel : Byte} {k : SettingKind} {v : Int} {c : Channel}

theorem checkSetting_of_shutdown (closing : s.shutdown.isSome = true) :
    s.checkSetting r channel (some k) v = .error .shuttingDown := if_pos closing

theorem checkSetting_of_no_channel (runs : s.shutdown = none) (none : Channel.ofCode channel.toNat = none) :
    s.checkSetting r channel (some k) v = .error .badChannel := by
  simp [Part.checkSetting, runs, none]

theorem checkSetting_of_barred (runs : s.shutdown = none) (named : Channel.ofCode channel.toNat = some c)
    (barred : r = .operator ∧ s.service = true) : s.checkSetting r channel (some k) v = .error .notPermitted := by
  simp [Part.checkSetting, runs, named, barred]

theorem checkSetting_of_refusal (runs : s.shutdown = none) (named : Channel.ofCode channel.toNat = some c)
    (permitted : ¬(r = .operator ∧ s.service = true)) (stop : k ≠ .jogStop) {e : Result} (refused : s.refusalOf c k v = some e) :
    s.checkSetting r channel (some k) v = .error e := by
  simp only [Part.checkSetting, runs, named, if_neg permitted, if_neg stop, refused]
  rfl

theorem checkSetting_passes (runs : s.shutdown = none) (named : Channel.ofCode channel.toNat = some c)
    (permitted : ¬(r = .operator ∧ s.service = true)) (passes : k = .jogStop ∨ s.refusalOf c k v = none) :
    s.checkSetting r channel (some k) v = .ok c := by
  simp only [Part.checkSetting, runs, named, if_neg permitted]
  rcases passes with stop | none
  · simp [stop]
  · simp [none]

end

section

variable {s : Part} {c : Channel} {k : SettingKind} {v : Int}

theorem refusalOf_of_odd (odd : (k = .home ∨ k = .shake) ∧ c ∈ [Channel.drum, Channel.fan]) :
    s.refusalOf c k v = some .badChannel := by
  obtain ⟨kind, speed⟩ := odd
  rw [← positional_eq_false_iff] at speed
  simp [Part.refusalOf, speed, kind]

/-- Check 6 of R65 finds a channel FAULTED, or for a HOME a calibration that is not valid. -/
def Part.refusesFaulted (s : Part) (c : Channel) (k : SettingKind) : Prop :=
  (k = .home ∧ s.store.activeCal.valid = false) ∨ (k ≠ .home ∧ ∃ cause, (s.motionOf c).phase = .faulted cause)

theorem refusalOf_of_even (even : ¬((k = .home ∨ k = .shake) ∧ c ∈ [Channel.drum, Channel.fan])) : s.refusalOf c k v =
    if (s.isFaulted c && k ≠ .home) || (k = .home && !s.store.activeCal.valid) then some .faulted
    else if k = .jogStart && v = 0 then some .inconsistent
    else if k = .jogStart && !Channel.positional c && !s.capture.engaged then some .notTurning
    else if (k = .jogStart || k = .shake) && Channel.positional c && !(s.motionOf c).referenced then some .notReferenced
    else none := by
  unfold Part.refusalOf
  refine if_neg ?_
  rw [← positional_eq_false_iff] at even
  simpa [and_comm] using even

theorem refusesFaulted_iff : s.refusesFaulted c k ↔
    ((s.isFaulted c && k ≠ .home) || (k = .home && !s.store.activeCal.valid)) = true := by
  unfold Part.refusesFaulted
  rw [← isFaulted_iff]
  simp
  tauto

theorem refusalOf_of_faulted (even : ¬((k = .home ∨ k = .shake) ∧ c ∈ [Channel.drum, Channel.fan]))
    (faulted : s.refusesFaulted c k) : s.refusalOf c k v = some .faulted := by
  rw [refusalOf_of_even even]
  exact if_pos (refusesFaulted_iff.1 faulted)

theorem refusalOf_of_sound (even : ¬((k = .home ∨ k = .shake) ∧ c ∈ [Channel.drum, Channel.fan]))
    (sound : ¬s.refusesFaulted c k) : s.refusalOf c k v =
    if k = .jogStart ∧ v = 0 then some .inconsistent
    else if k = .jogStart ∧ c ∈ [Channel.drum, Channel.fan] ∧ s.capture.engaged = false then some .notTurning
    else if (k = .jogStart ∨ k = .shake) ∧ c ∉ [Channel.drum, Channel.fan] ∧ (s.motionOf c).referenced = false
      then some .notReferenced
    else none := by
  rw [refusalOf_of_even even, if_neg (refusesFaulted_iff.not.1 sound)]
  simp only [← positional_eq_false_iff]
  simp [and_assoc]

end

theorem ofCode_eq_none {n : Nat} (beyond : 5 < n) : Channel.ofCode n = none := by
  obtain ⟨m, rfl⟩ : ∃ m, n = m + 6 := ⟨n - 6, by omega⟩
  rfl

theorem toInt_eq_zero_iff (w : Word) : w.toInt = 0 ↔ w = 0 := by
  rw [← BitVec.toInt_inj]
  simp

/-- A request that passes is refused OUTRANKED where the channel is busy with a move of a higher requester (R69). -/
theorem placeSetting_outranked {s : Part} {k : SettingKind} {c : Channel} {r : Requester} (stop : k ≠ .jogStop)
    (busy : s.busy c = true) {mv : Move} (moves : (s.motionOf c).move = some mv) (higher : r.rank < mv.owner.rank) (f : SettingFields)
    (a : Asked) : s.placeSetting k f r c a = s.reply a .outranked 0 := by
  have outranked : s.outranks c r = true := by simp [Part.outranks, busy, moves, higher]
  have foreign : s.ownJog c r = none := by
    unfold Part.ownJog
    rw [moves]
    dsimp only
    split
    case h_1 q _ owner =>
      refine if_neg fun same => ?_
      have ranks : q.rank = r.rank := by simpa [Requester.same] using same
      rw [owner] at higher
      exact absurd ranks (Nat.ne_of_gt higher)
    case h_2 => rfl
  have request (kind : RequestKind) (holds : Bool) (answer : Part → Part) :
      s.placeRequest r c a kind f.tag holds answer = s.reply a .outranked 0 := if_pos outranked
  cases k with
  | set => simp only [Part.placeSetting, Part.placeSet, request]
  | jogStart => simp [Part.placeSetting, Part.placeJog, foreign, outranked]
  | jogStop => exact absurd rfl stop
  | home => simp only [Part.placeSetting, Part.placeHome, request]
  | shake => simp only [Part.placeSetting, Part.placeShake, request]

theorem reply_mem (s : Part) (dest kind tag : Byte) (r : Result) (channel : Byte) (v : Word) (room : s.bus.queue.length < 24) :
    s.replyFrame dest kind tag r channel v ∈ (s.answered dest kind tag r channel v).bus.queue := by
  unfold Part.answered Bus.push
  simp [queueCapacity, room]

/-- A REPLY stays in the queue whatever the part does on. -/
theorem reply_stays {s t : Part} {dest kind tag : Byte} {r : Result} {channel : Byte} {v : Word}
    (q : Quiet (s.answered dest kind tag r channel v) t) (room : s.bus.queue.length < 24) :
    s.replyFrame dest kind tag r channel v ∈ t.bus.queue :=
  q.queue.1 _ (reply_mem s dest kind tag r channel v room) rfl

/-! ### MODE_REQUEST (R61) -/

theorem exec_modeCommand_of_on {p : Part} (on : p.power = .on) (q : List Instr) (o : ModeOp) (dt : Nat) (h : FrameHeader)
    (f : ModeFields) : exec (modeCommand o dt h f) ⟨p, q⟩ = .next ⟨(p.later dt).onMode h f (some o), q⟩ := by
  cases o <;> exact congrArg (fun t => Host.Outcome.next (State.mk t q)) (Part.onEvent_of_on on dt _)

theorem heldByService_iff (s : Part) (c : Channel) : s.heldByService c = true ↔
    ∃ k, (s.entryOf c).hold = some k ∧ k.holder = .service := by
  unfold Part.heldByService
  cases (s.entryOf c).hold with
  | none => simp
  | some k => simp

theorem setFanOffset_zero (s : Part) : s.setFanOffset 0 =
    { s with fanOffset := 0, fanTarget := s.clampToEnvelope .fan (s.entryOf .fan).setpoint } := by
  simp [Part.setFanOffset, Part.updateFanTarget, Part.clampToEnvelope, Part.envelope, Part.params, Part.entryOf]

section

variable {s : Part} {h : FrameHeader} {source : Byte} {f : ModeFields} {o : ModeOp}

/-- A MODE_REQUEST heard with its bytes from one of its sources: refused in a shutdown, and for a channel outside 0 to 5. -/
theorem onMode_of_received (sends : source = cabAddress ∨ source = serviceAddress) (received : s.receives h source 3) :
    (s.shutdown.isSome = true → s.onMode h f (some o) = s.answered source 0x02 f.tag .shuttingDown f.channel 0)
    ∧ (s.shutdown = none → Channel.ofCode f.channel.toNat = none →
        s.onMode h f (some o) = s.answered source 0x02 f.tag .badChannel f.channel 0)
    ∧ ∀ c, s.shutdown = none → Channel.ofCode f.channel.toNat = some c → s.onMode h f (some o) =
        if source = cabAddress ∧ s.service = true then s.answered source 0x02 f.tag .notPermitted f.channel 0
        else if source = cabAddress ∧ o ≠ .manual ∧ s.heldByService c = true then
          s.answered source 0x02 f.tag .outranked f.channel 0
        else (s.answered source 0x02 f.tag .accepted f.channel 0).applyMode c o := by
  obtain ⟨-, silent, destination, rfl, self, long⟩ := received
  have asked : modeLayout.asked h f.tag f.channel = ⟨h.source, kindMode, f.tag, f.channel⟩ :=
    congrArg₂ (Asked.mk h.source kindMode) (if_pos long) (if_pos (Nat.lt_of_lt_of_le (by decide) long))
  have replies (r : Result) : s.reply ⟨h.source, kindMode, f.tag, f.channel⟩ r 0 = s.answered h.source 0x02 f.tag r f.channel 0 := by
    have code : kindLow kindMode = 0x02 := by decide
    unfold Part.reply
    dsimp only
    rw [code]
    rfl
  unfold Part.onMode
  dsimp only
  rw [operates_of_source sends, Part.judgeRequest_handed ⟨silent, destination, self⟩ long, asked]
  simp only [replies]
  refine ⟨fun closing => if_pos closing, fun runs none => ?_, fun c runs named => ?_⟩
  · simp [runs, none]
  · simp [runs, named, and_assoc]

end

/-! ### LEAVE (R80) -/

theorem removeHolds_book (s : Part) (who : Holder) : (s.removeHolds who).book = .build fun c => { s.entryOf c with
    hold := match (s.entryOf c).hold with
      | some k => if k.holder = who then none else some k
      | none => none } := by
  refine PerChannel.ext_get fun c => ?_
  simp only [Part.removeHolds, PerChannel.get_build]
  generalize s.entryOf c = e
  obtain ⟨setpoint, origin, mode, hold, requests, last⟩ := e
  cases hold with
  | none => rfl
  | some k =>
    dsimp only
    split <;> rfl

/-- Service mode left: INACTIVE, and no SERVICE hold (R80). -/
def Part.leftService (s : Part) : Part :=
  { s with
    service := false
    book := .build fun c => { s.entryOf c with
      hold := match (s.entryOf c).hold with
        | some k => if k.holder = .service then none else some k
        | none => none } }

theorem exec_leave_of_received {p : Part} {h : FrameHeader} (received : p.receives h serviceAddress 2) (q : List Instr) (dt : Nat)
    (tag : Byte) : exec (.leave dt h tag) ⟨p, q⟩ = .next ⟨
      if p.shutdown.isSome = true then (p.later dt).answered serviceAddress 0x05 tag .shuttingDown 0xFF 0
      else
        let s := (p.later dt).answered serviceAddress 0x05 tag .accepted 0xFF 0
        if p.service = true then s.leftService else s, q⟩ := by
  have allowed : serves h 1 false = true := by
    obtain ⟨-, -, -, source, -, -⟩ := received
    simp [serves, source]
  have removed (s : Part) : ({ s with service := false } : Part).removeHolds .service = s.leftService :=
    congrArg (fun b : PerChannel BookEntry => ({ s with service := false, book := b } : Part)) (removeHolds_book _ .service)
  refine congrArg (fun t => Host.Outcome.next (State.mk t q)) ((Part.onEvent_of_on received.1 dt _).trans ?_)
  rw [onService_of_received (s := p.later dt) received allowed, reply_service]
  simp only [removed]
  rfl

/-- Out of service mode no request is turned away for it (R65 check 3). -/
theorem checkSetting_permits {s : Part} (off : s.service = false) (r : Requester) (channel : Byte) (k : Option SettingKind) (v : Int) :
    s.checkSetting r channel k v ≠ .error .notPermitted := by
  unfold Part.checkSetting
  split
  · simp
  · split
    · simp
    · simp
    · rw [if_neg (by simp [off])]
      split
      · simp
      · split
        case h_1 c k _ _ _ e refused =>
          have others : s.refusalOf c k v ≠ some .notPermitted := by
            unfold Part.refusalOf
            extract_lets positional
            split_ifs <;> simp
          rintro ⟨⟩
          exact others refused
        · simp

/-! ### BOOK_QUERY (R172) -/

theorem queries_iff (h : FrameHeader) : queries h = true ↔
    h.source ∈ [cabAddress, propulsionAddress, qualityAddress, serviceAddress] := by
  simp [queries, or_assoc]

/-- BOOK_QUERY heard, from any source. -/
theorem exec_bookQuery_of_received {p : Part} {h : FrameHeader} {source : Byte} (received : p.receives h source 0) (q : List Instr)
    (dt : Nat) : exec (.bookQuery dt h) ⟨p, q⟩ = .next ⟨
      if source ∉ [cabAddress, propulsionAddress, qualityAddress, serviceAddress] then
        (p.later dt).answered source 0x06 0 .notPermitted 0xFF 0
      else if p.shutdown.isSome = true then (p.later dt).answered source 0x06 0 .shuttingDown 0xFF 0
      else (p.later dt).sendBook, q⟩ := by
  obtain ⟨on, silent, destination, rfl, self, long⟩ := received
  have heard : (p.later dt).hearsFrame h := ⟨silent, destination, self⟩
  have replies (r : Result) : (p.later dt).reply (queryLayout.asked h 0 0xFF) r 0 =
      (p.later dt).answered h.source 0x06 0 r 0xFF 0 := by
    have code : kindLow kindBookQuery = 0x06 := by decide
    unfold Part.reply Layout.asked queryLayout
    dsimp only
    rw [code]
    rfl
  refine congrArg (fun t => Host.Outcome.next (State.mk t q)) ((Part.onEvent_of_on on dt _).trans ?_)
  dsimp only
  have listed := queries_iff h
  cases allowed : queries h with
  | false => rw [Part.judgeRequest_notPermitted heard, replies, if_pos (fun mem => Bool.noConfusion (allowed.symm.trans (listed.2 mem)))]
  | true =>
    rw [Part.judgeRequest_handed heard long, replies, if_neg (not_not.2 (listed.1 allowed))]
    rfl

end Sys2Proof.Machine

open Sys2Proof Sys2Proof.Machine

/-- Settles O31: the checks one after another, each in the words of its clause, and a JOG_STOP that passes is answered. -/
theorem settingRequestsAreRefusedInOrder : Obligations.SettingRequestsAreRefusedInOrder := by
  intro p q dt h source f k sends received
  have heard : (p.later dt).receives h source 6 := received
  dsimp only
  rw [exec_settingCommand_of_on received.1]
  have refuses {e : Result} (refused : (p.later dt).checkSetting (senderOf source) f.channel (some k) f.value.toInt = .error e) :
      Host.Outcome.next (φ := Fault) (ρ := Refusal)
          (State.mk ((p.later dt).onSetting h f (some k) fun p r c a => p.placeSetting k f r c a) q) =
        .next ⟨(p.later dt).answered source 0x01 f.tag e f.channel 0, q⟩ :=
    congrArg (fun t => Host.Outcome.next (State.mk t q)) (onSetting_refused sends heard refused)
  refine ⟨fun closing => refuses (checkSetting_of_shutdown closing),
    fun runs beyond => refuses (checkSetting_of_no_channel runs (ofCode_eq_none beyond)), fun c runs named => ?_⟩
  have barring : (source = cabAddress ∧ p.service = true) ↔ (senderOf source = .operator ∧ p.service = true) :=
    and_congr_left' (senderOf_eq_operator_iff source).symm
  simp only [barring]
  refine ⟨fun barred => refuses (checkSetting_of_barred runs named barred),
    fun permitted stop odd => refuses (checkSetting_of_refusal runs named permitted stop (refusalOf_of_odd odd)),
    fun permitted stop even faulted => refuses (checkSetting_of_refusal runs named permitted stop (refusalOf_of_faulted even faulted)),
    fun permitted even sound => ?sound, fun permitted stop => ?stop⟩
  case sound =>
    have later {stop : k ≠ .jogStop} {e : Result} (refused : (p.later dt).refusalOf c k f.value.toInt = some e) :=
      refuses (checkSetting_of_refusal runs named permitted stop refused)
    have judged := refusalOf_of_sound (s := p.later dt) (v := f.value.toInt) even sound
    simp only [toInt_eq_zero_iff] at judged
    refine ⟨fun start zero => ?_, fun start value speed still => ?_, fun kind positional lost => ?_,
      fun stop starts turns busy ⟨mv, moves, higher⟩ => ?_⟩
    · refine later (stop := by simp [start]) (judged.trans ?_)
      simp [start, zero]
    · refine later (stop := by simp [start]) (judged.trans ?_)
      rw [if_neg (fun bad => value bad.2), if_pos ⟨start, speed, still⟩]
    · have value : ¬(k = .jogStart ∧ f.value = 0) := by
        rintro ⟨rfl, zero⟩
        simp [zero] at kind
      refine later (stop := by rcases kind with ⟨start, -⟩ | shake <;> simp [*]) (judged.trans ?_)
      rw [if_neg value, if_neg (fun bad => positional bad.2.1), if_pos ⟨kind.imp_left And.left, positional, lost⟩]
    · have passes : (p.later dt).refusalOf c k f.value.toInt = none := by
        rw [judged, if_neg fun bad => (starts bad.1).1 bad.2, if_neg, if_neg]
        · rintro ⟨kind, positional, lost⟩
          exact Bool.noConfusion ((turns kind positional).symm.trans lost)
        · rintro ⟨start, speed, still⟩
          exact Bool.noConfusion (((starts start).2 speed).symm.trans still)
      rw [onSetting_placed sends heard (checkSetting_passes runs named permitted (.inr passes)),
        placeSetting_outranked (s := p.later dt) stop busy moves (by rw [senderOf_rank]; exact higher), reply_setting]
  case stop =>
    rw [onSetting_placed sends heard (checkSetting_passes runs named permitted (.inl stop))]
    subst stop
    have quiet : Quiet ((p.later dt).answered source 0x01 f.tag .accepted f.channel f.value)
        ((p.later dt).placeSetting .jogStop f (senderOf source) c (settingAsked source f)) := by
      rw [← reply_setting]
      exact Quiet.endJogOf .refl c _
    exact ⟨_, rfl, congrArg (·.now) quiet.still_eq, fun room => reply_stays (s := p.later dt) quiet room⟩

/-- Settles O37: the refusals in their order, the three operations and the hold's tick. -/
theorem modesAndHoldsChangeAsAsked : Obligations.ModesAndHoldsChangeAsAsked := by
  refine ⟨fun p q dt h source f o sends received => ?modes, fun p q c who left d on held => ?hold⟩
  case modes =>
    obtain ⟨closing, nowhere, judged⟩ := onMode_of_received (s := p.later dt) (f := f) (o := o) sends received
    dsimp only
    rw [exec_modeCommand_of_on received.1]
    have next {t u : Part} (same : t = u) : Host.Outcome.next (φ := Fault) (ρ := Refusal) (State.mk t q) = .next ⟨u, q⟩ := by rw [same]
    refine ⟨fun closed => next (closing closed), fun runs beyond => next (nowhere runs (ofCode_eq_none beyond)),
      fun c runs named => ⟨fun cab service => ?_, fun cab off op held => ?_, fun allowed => ?_⟩⟩
    · rw [judged c runs named, if_pos ⟨cab, service⟩]
    · have noted : (p.later dt).heldByService c = true := (heldByService_iff _ c).2 held
      rw [judged c runs named, if_neg (fun bad => Bool.noConfusion (off.symm.trans bad.2)), if_pos ⟨cab, op, noted⟩]
    · have accepted : (p.later dt).onMode h f (some o) =
          ((p.later dt).answered source 0x02 f.tag .accepted f.channel 0).applyMode c o := by
        rw [judged c runs named, if_neg, if_neg]
        · rintro ⟨rfl, op, noted⟩
          obtain ⟨k, is, service⟩ := (heldByService_iff _ c).1 noted
          rcases allowed with tool | ⟨-, manual | free⟩
          · exact absurd tool (by decide)
          · exact op manual
          · exact absurd (free k is) (by simp [service])
        · rintro ⟨rfl, service⟩
          rcases allowed with tool | ⟨off, -⟩
          · exact absurd tool (by decide)
          · exact Bool.noConfusion (off.symm.trans service)
      rw [accepted]
      refine ⟨fun op => ?_, fun op other => ?_, fun op fan => ?_, fun op => ?_⟩ <;> subst op
      · rfl
      · exact next (if_neg other)
      · subst fan
        exact next (setFanOffset_zero _)
      · rfl
  case hold =>
    have runs : (p.entryOf c).holdExpiry = some d := by simp [BookEntry.holdExpiry, held]
    refine (congrArg (fun t => Host.Outcome.next (State.mk t q)) (Part.onExpiry_of_on on runs _)).trans ?_
    have ticks : ({ p.entryOf c with hold := (p.entryOf c).hold.bind (·.tick (max p.now d)) } : BookEntry) =
        { p.entryOf c with hold := if left ≤ 1 then none else some ⟨who, .seconds (left - 1) (max p.now d + 1000000)⟩ } := by
      rw [held]
      rfl
    rw [← ticks]
    rfl

/-- Settles O39: LEAVE refused, taken, or without effect, and what it leaves. -/
theorem leaveEndsServiceMode : Obligations.LeaveEndsServiceMode := by
  intro p q dt h tag received
  dsimp only
  rw [exec_leave_of_received received]
  refine ⟨fun closing => ?_, fun runs active => ?_, fun runs idle => ?_, rfl, fun c => ?_, fun channel k v => ?_⟩
  · rw [if_pos closing]
  · simp only [runs, active]
    rfl
  · simp [runs, idle]
  · simp only [Part.entryOf, PerChannel.get_build]
  · exact checkSetting_permits rfl .operator channel k v

/-- Settles O58: the six frames in their order, or the refusal. -/
theorem aBookQueryIsAnsweredBySixFrames : Obligations.ABookQueryIsAnsweredBySixFrames := by
  intro p q dt h source received
  dsimp only
  rw [exec_bookQuery_of_received received]
  refine ⟨fun barred => ?_, fun allowed closing => ?_, fun allowed runs => ?_⟩
  · rw [if_pos barred]
  · rw [if_neg (not_not.2 allowed), if_pos closing]
  · have frames (c : Channel) : (p.later dt).framed ((p.later dt).bookFrame c) = ⟨p.store.activeCal.figures.nodeAddress,
        .bookStatus c (p.motionOf c).phase (p.motionOf c).referenced ((p.entryOf c).hold.map (·.holder)) (p.entryOf c).mode
        (p.entryOf c).origin ((p.entryOf c).last.map (·.outcome)) (p.entryOf c).setpoint (p.actualValue c) p.window.number⟩ := rfl
    rw [if_neg (not_not.2 allowed), if_neg (by simp [runs]), sendBook_eq]
    simp only [frames]
    rfl

end

section
/-! PROOFS. A slot granted to a channel, in full: the move as its grant leaves it, and whether its drive turns off at once (R109, R118,
R123, R126, R132); what the Drive Arbiter never writes of a motion; a move handed to a channel that is not COASTING (R103, R131). -/

namespace Sys2Proof.Machine

/-! ### What the arbiter never writes of a motion -/

/-- The counters, the position, the reference and the standing fault cause of a channel. -/
def Motion.body (m : Motion) : Nat × Nat × Int × Bool × Option FaultCause :=
  (m.stallCount, m.strayCount, m.position, m.referenced, m.standing)

theorem Motion.body_eq_iff {m m' : Motion} : m'.body = m.body ↔ m'.stallCount = m.stallCount ∧ m'.strayCount = m.strayCount
    ∧ m'.position = m.position ∧ m'.referenced = m.referenced ∧ m'.standing = m.standing := by
  simp [Motion.body]

theorem body_modMotion (s : Part) (c d : Channel) {f : Motion → Motion} (keeps : ∀ m, (f m).body = m.body) :
    ((s.modMotion c f).motionOf d).body = (s.motionOf d).body := by
  rw [motionOf_modMotion]
  split
  case isTrue same => rw [keeps, same]
  case isFalse => rfl

theorem body_driveOff (s : Part) (c d : Channel) (e : DriveEnd) : ((s.driveOff c e).motionOf d).body = (s.motionOf d).body := by
  rw [motionOf_driveOff]
  split
  case isTrue same => rw [same]; rfl
  case isFalse => rfl

/-! ### A grant in full -/

/-- A move as the grant of a slot leaves it (R109, R118, R123, R126). -/
def Part.granted (s : Part) (c : Channel) (mv : Move) : Move :=
  match c.kind with
  | .positional _ => { s.atGrant c (s.motionOf c).position mv with granted := true }
  | .speed v => s.speedAtGrant v mv

/-- The drive of a move granted a slot turns off at once: no counts to go, or an rpm or a drive time that ends it (R109, R123). -/
def Part.goesOff (s : Part) (c : Channel) (mv : Move) : Bool :=
  match c.kind with
  | .positional _ => (s.granted c mv).remaining = 0
  | .speed v => s.maxDriveTime v ≤ mv.driveTime || s.rpmEndsDrive v (s.granted c mv) (s.rpmOf v)

section

variable {s t : Part}

theorem jogEdge_of_store (store : t.store = s.store) (c : Channel) (d : Direction) : t.jogEdge c d = s.jogEdge c d := by
  unfold Part.jogEdge Part.envelope Part.countsOf Part.params Part.cal
  rw [store]

theorem countsOf_of_store (store : t.store = s.store) (x : PosChannel) (v : Int) : t.countsOf x v = s.countsOf x v := by
  unfold Part.countsOf Part.cal
  rw [store]

theorem granted_congr (store : t.store = s.store) (capture : t.capture = s.capture) {c : Channel}
    (position : (t.motionOf c).position = (s.motionOf c).position) (mv : Move) : t.granted c mv = s.granted c mv := by
  have edge := jogEdge_of_store store
  unfold Part.granted
  split
  · unfold Part.atGrant
    rw [position]
    simp only [edge]
  · unfold Part.speedAtGrant Part.rpmOf Part.maxDriveTime Part.cal
    simp only [edge, store, capture]

theorem goesOff_congr (store : t.store = s.store) (capture : t.capture = s.capture) {c : Channel}
    (position : (t.motionOf c).position = (s.motionOf c).position) (mv : Move) : t.goesOff c mv = s.goesOff c mv := by
  unfold Part.goesOff
  rw [granted_congr store capture position]
  split
  · rfl
  · unfold Part.rpmOf Part.maxDriveTime Part.rpmEndsDrive Part.cal Part.params
    rw [store, capture]

end

/-- A motion as a grant makes it of another: the granted move, COASTING where its drive turns off at once. -/
structure Motion.Granted (m m' : Motion) (g : Move) (off : Bool) : Prop where
  body : m'.body = m.body
  move : ∃ (e : DriveEnd) (n : Nat), m'.move = some { g with driveEnd := e, driveTime := n }
  phase : m'.phase = if off then .coasting else .driving

theorem Motion.Granted.driving {m m' : Motion} {g : Move} {off : Bool} (h : m.Granted m' g off) (goes : off = false) :
    m'.phase = .driving := by rw [h.phase, goes]; rfl

theorem Motion.Granted.moving {m m' : Motion} {g : Move} {off : Bool} (h : m.Granted m' g off) :
    m'.phase ∈ [.waiting, .driving, .coasting] := by
  rw [h.phase]
  split <;> simp

theorem Motion.Granted.position {m m' : Motion} {g : Move} {off : Bool} (h : m.Granted m' g off) : m'.position = m.position :=
  (Motion.body_eq_iff.1 h.body).2.2.1

/-- A drive that has just turned on, and turns off at once or not. -/
theorem granted_of_drives {s u : Part} {c : Channel} {g : Move} {off : Bool} (body : (u.motionOf c).body = (s.motionOf c).body)
    (move : (u.motionOf c).move = some g) (phase : (u.motionOf c).phase = .driving) :
    (s.motionOf c).Granted ((if off = true then u.driveOff c .ownEnd else u).motionOf c) g off := by
  cases off with
  | true =>
    refine ⟨(body_driveOff u c c .ownEnd).trans body, ?_, driveOff_phase u c .ownEnd⟩
    refine ⟨.ownEnd, ?_⟩
    rw [if_pos rfl, motionOf_driveOff, if_pos rfl, move]
    exact ⟨_, rfl⟩
  | false => exact ⟨body, ⟨g.driveEnd, g.driveTime, move⟩, phase⟩

theorem grant_granted {s : Part} {c : Channel} {mv : Move} (moves : (s.motionOf c).move = some mv) :
    (s.motionOf c).Granted ((s.grant c).motionOf c) (s.granted c mv) (s.goesOff c mv) := by
  let u : Part := (s.holdSlot c).markShifted c mv
  have motion : u.motionOf c = s.motionOf c := motionOf_markShifted _ _ _ _
  have store : u.store = s.store := by simp [u, Part.holdSlot]
  have capture : u.capture = s.capture := by simp [u, Part.holdSlot]
  have granted : u.granted c mv = s.granted c mv := granted_congr store capture (by rw [motion]) mv
  have off : u.goesOff c mv = s.goesOff c mv := goesOff_congr store capture (by rw [motion]) mv
  have grants : s.grant c = match c.kind with
      | .positional p => u.drivePositional c p mv
      | .speed v => u.driveSpeed c v mv := by
    unfold Part.grant
    rewrite [moves]
    rfl
  rw [grants, ← granted, ← off, ← motion]
  split
  case h_1 p kind =>
    have is : u.granted c mv = { u.atGrant c (u.motionOf c).position mv with granted := true } := by simp only [Part.granted, kind]
    have turns : u.goesOff c mv = decide ((u.granted c mv).remaining = 0) := by simp only [Part.goesOff, kind]
    let w : Part := u.modMotion c fun m => { m with
      phase := .driving, move := some (u.granted c mv), drivingSince := u.now, stallAt := some (u.now + ms (u.cal.pos.get p).stallTime) }
    have drives : u.drivePositional c p mv = if u.goesOff c mv = true then w.driveOff c .ownEnd else w := by
      simp only [turns, decide_eq_true_eq, w, is]
      rfl
    rw [drives]
    exact granted_of_drives (body_modMotion u c c fun _ => rfl) (by rw [motionOf_modMotion_self]) (by rw [motionOf_modMotion_self])
  case h_2 v kind =>
    have is : u.granted c mv = u.speedAtGrant v mv := by simp only [Part.granted, kind]
    have turns : u.goesOff c mv = (decide (u.maxDriveTime v ≤ mv.driveTime) || u.rpmEndsDrive v (u.granted c mv) (u.rpmOf v)) := by
      simp only [Part.goesOff, kind]
    let w : Part := u.modMotion c fun m => { m with phase := .driving, move := some (u.granted c mv), drivingSince := u.now }
    have drives : u.driveSpeed c v mv = if u.goesOff c mv = true then w.driveOff c .ownEnd else w := by
      simp only [turns, w, is]
      rfl
    rw [drives]
    exact granted_of_drives (body_modMotion u c c fun _ => rfl) (by rw [motionOf_modMotion_self]) (by rw [motionOf_modMotion_self])

theorem body_grant (s : Part) (c d : Channel) : ((s.grant c).motionOf d).body = (s.motionOf d).body := by
  by_cases same : d = c
  · subst same
    cases moves : (s.motionOf d).move with
    | none => rw [grant_of_no_move moves]
    | some mv => exact (grant_granted moves).body
  · rw [motionOf_grant_of_ne s same]

theorem body_regrantUpTo (n : Nat) (d : Channel) : ∀ s : Part, ((Part.regrantUpTo n s).motionOf d).body = (s.motionOf d).body := by
  induction n with
  | zero => exact fun _ => rfl
  | succ n ih =>
    intro s
    unfold Part.regrantUpTo
    split
    · split
      · rw [ih, body_grant]
      · rfl
    · rfl

theorem body_regrant (s : Part) (d : Channel) : (s.regrant.motionOf d).body = (s.motionOf d).body := body_regrantUpTo 6 d s

theorem regrant_of_not_waiting {s : Part} {c : Channel} (still : (s.motionOf c).phase ≠ .waiting) :
    s.regrant.motionOf c = s.motionOf c := (regrant_follows s c).untouched still

/-- A channel granted a slot is as its grant left it, whatever else is granted then. -/
theorem grant_regrant {s : Part} {c : Channel} {mv : Move} (moves : (s.motionOf c).move = some mv) :
    (s.grant c).regrant.motionOf c = (s.grant c).motionOf c := by
  refine regrant_of_not_waiting ?_
  rw [(grant_granted moves).phase]
  split <;> decide

/-! ### The entry to WAITING (R131) -/

theorem enterWaiting_of_full {s : Part} {c : Channel} (full : 2 ≤ s.slots.length) :
    s.enterWaiting c = s.modMotion c fun m => { m with phase := .waiting, coastEndsAt := none } :=
  if_neg (Nat.not_lt.2 full)

theorem enterWaiting_of_room {s : Part} {c : Channel} {mv : Move} (moves : (s.motionOf c).move = some mv) (room : s.slots.length < 2) :
    (s.motionOf c).Granted ((s.enterWaiting c).motionOf c) (s.granted c mv) (s.goesOff c mv) := by
  let w : Part := s.modMotion c fun m => { m with phase := .waiting, coastEndsAt := none }
  have motion : w.motionOf c = { s.motionOf c with phase := .waiting, coastEndsAt := none } := motionOf_modMotion_self _ _ _
  have asks : s.enterWaiting c = (w.grant c).regrant := if_pos room
  have moves' : (w.motionOf c).move = some mv := by rw [motion]; exact moves
  obtain ⟨body, move, phase⟩ := grant_granted moves'
  rw [asks, grant_regrant moves', ← granted_congr (s := s) (t := w) rfl rfl (by rw [motion]),
    ← goesOff_congr (s := s) (t := w) rfl rfl (by rw [motion])]
  exact ⟨body.trans (by rw [motion]; rfl), move, phase⟩

theorem Drives.enterWaiting {s0 s : Part} (h : Drives s0 s) (c : Channel) : Drives s0 (s.enterWaiting c) := (h.modMotion c _).askSlot c

theorem body_enterWaiting (s : Part) (c d : Channel) : ((s.enterWaiting c).motionOf d).body = (s.motionOf d).body := by
  unfold Part.enterWaiting Part.askSlot
  split
  · rw [body_regrant, body_grant]
    exact body_modMotion s c d fun _ => rfl
  · exact body_modMotion s c d fun _ => rfl

/-- A channel whose move has entered WAITING is in flight: it waits where both slots are held, drives or coasts where one was free. -/
theorem enterWaiting_phase {s : Part} {c : Channel} {mv : Move} (moves : (s.motionOf c).move = some mv) :
    (2 ≤ s.slots.length → ((s.enterWaiting c).motionOf c).phase = .waiting)
    ∧ (s.slots.length < 2 → ((s.enterWaiting c).motionOf c).phase = if s.goesOff c mv then .coasting else .driving)
    ∧ ((s.enterWaiting c).motionOf c).phase ∈ [.waiting, .driving, .coasting] := by
  refine ⟨fun full => ?_, fun room => (enterWaiting_of_room moves room).phase, ?_⟩
  · rw [enterWaiting_of_full full, motionOf_modMotion_self]
  · by_cases room : s.slots.length < 2
    · exact (enterWaiting_of_room moves room).moving
    · rw [enterWaiting_of_full (Nat.not_lt.1 room), motionOf_modMotion_self]
      exact List.mem_cons_self

theorem enterWaiting_serves_of_on {s : Part} {c : Channel} {mv : Move} (moves : (s.motionOf c).move = some mv)
    (on : s.goesOff c mv = false) : (s.enterWaiting c).drivesOrWaits c s.slots.length := by
  obtain ⟨full, room, -⟩ := enterWaiting_phase moves
  exact ⟨fun free => by rw [room free, on]; rfl, full⟩

/-- The move of a channel that enters WAITING, granted or not, differs from the granted one by counts, direction and drive alone. -/
theorem enterWaiting_move {s : Part} {c : Channel} {mv : Move} (moves : (s.motionOf c).move = some mv) :
    (2 ≤ s.slots.length ∧ ((s.enterWaiting c).motionOf c).move = some mv)
    ∨ (s.slots.length < 2 ∧ ∃ (e : DriveEnd) (n : Nat),
        ((s.enterWaiting c).motionOf c).move = some { s.granted c mv with driveEnd := e, driveTime := n }) := by
  by_cases room : s.slots.length < 2
  · exact .inr ⟨room, (enterWaiting_of_room moves room).move⟩
  · refine .inl ⟨Nat.not_lt.1 room, ?_⟩
    rw [enterWaiting_of_full (Nat.not_lt.1 room), motionOf_modMotion_self]
    exact moves

/-! ### What a grant makes of the kinds of move -/

theorem kind_channel (x : PosChannel) : x.channel.kind = .positional x := by cases x <;> rfl

theorem kind_speedChannel (v : SpeedChannel) : v.channel.kind = .speed v := by cases v <;> rfl

section

variable {s : Part} {x : PosChannel} {mv : Move}

/-- A positional move with a target: direction and counts anew (R109). -/
theorem granted_of_target {t : Int} (jog : mv.kind ≠ .jog) (home : mv.kind ≠ .home) (aimed : mv.target = some t) :
    s.granted x.channel mv = { mv with
      stintCount := 0
      direction := if (s.motionOf x.channel).position < t then some .up
        else if t < (s.motionOf x.channel).position then some .down else mv.direction
      remaining := min mv.base (distance t (s.motionOf x.channel).position)
      granted := true } := by
  simp only [Part.granted, kind_channel, atGrant_of_target jog home aimed]

theorem goesOff_of_target {t : Int} (jog : mv.kind ≠ .jog) (home : mv.kind ≠ .home) (aimed : mv.target = some t) :
    s.goesOff x.channel mv = decide (min mv.base (distance t (s.motionOf x.channel).position) = 0) := by
  simp only [Part.goesOff, kind_channel, granted_of_target jog home aimed]

/-- A HOME keeps its direction and its counts. -/
theorem granted_of_home (home : mv.kind = .home) : s.granted x.channel mv = { mv with stintCount := 0, granted := true } := by
  simp only [Part.granted, kind_channel, Part.atGrant, home]

theorem goesOff_of_home (home : mv.kind = .home) : s.goesOff x.channel mv = decide (mv.remaining = 0) := by
  simp only [Part.goesOff, kind_channel, granted_of_home home]

/-- The first grant of a jog keeps the edge and the counts of its hand-over. -/
theorem granted_of_new_jog (jog : mv.kind = .jog) (new : mv.granted = false) :
    s.granted x.channel mv = { mv with stintCount := 0, granted := true } := by
  simp only [Part.granted, kind_channel, Part.atGrant, jog, new]

theorem goesOff_of_new_jog (jog : mv.kind = .jog) (new : mv.granted = false) :
    s.goesOff x.channel mv = decide (mv.remaining = 0) := by
  simp only [Part.goesOff, kind_channel, granted_of_new_jog jog new]

end

/-- A grant keeps whose move it is, what it is and where it goes; of a jog also its direction. -/
theorem granted_keeps (s : Part) (c : Channel) (mv : Move) : (s.granted c mv).identity = mv.identity
    ∧ (mv.kind = .jog → (s.granted c mv).direction = mv.direction) := by
  unfold Part.granted
  split
  · refine ⟨atGrant_identity s c _ mv, fun jog => ?_⟩
    unfold Part.atGrant
    simp only [jog]
    split <;> simp_all
  · refine ⟨rfl, fun jog => ?_⟩
    unfold Part.speedAtGrant
    simp only [jog]

/-! ### The hand-over to a channel that is not COASTING (R103) -/

/-- A move given to a channel. -/
def Part.holding (s : Part) (c : Channel) (mv : Move) : Part := s.modMotion c fun m => { m with move := some mv }

theorem motionOf_holding (s : Part) (c : Channel) (mv : Move) : (s.holding c mv).motionOf c = { s.motionOf c with move := some mv } :=
  motionOf_modMotion_self _ _ _

theorem holding_move (s : Part) (c : Channel) (mv : Move) : ((s.holding c mv).motionOf c).move = some mv := by rw [motionOf_holding]

theorem holding_position (s : Part) (c : Channel) (mv : Move) : ((s.holding c mv).motionOf c).position = (s.motionOf c).position := by
  rw [motionOf_holding]

theorem Drives.holding {s0 s : Part} (h : Drives s0 s) (c : Channel) (mv : Move) : Drives s0 (s.holding c mv) := h.modMotion c _

theorem granted_holding (s : Part) (c : Channel) (held mv : Move) : (s.holding c held).granted c mv = s.granted c mv :=
  granted_congr (s := s) (t := s.holding c held) rfl rfl (holding_position s c held) mv

theorem goesOff_holding (s : Part) (c : Channel) (held mv : Move) : (s.holding c held).goesOff c mv = s.goesOff c mv :=
  goesOff_congr (s := s) (t := s.holding c held) rfl rfl (holding_position s c held) mv

section

variable {s : Part} {c : Channel} {mv : Move}

/-- A move with counts to go, or of a speed channel, enters WAITING. -/
theorem hand_waits (allowed : mv.owner.rank ≠ 0 ∨ s.capture.engaged = true) (still : (s.motionOf c).phase ≠ .coasting)
    (counts : ∀ x : PosChannel, c = x.channel → mv.base ≠ 0) : s.hand c mv = (s.holding c mv).enterWaiting c := by
  have permitted : ¬(mv.owner.rank = 0 ∧ s.capture.engaged = false) := by
    rintro ⟨automatic, apart⟩
    rcases allowed with other | engaged
    · exact other automatic
    · exact Bool.noConfusion (apart.symm.trans engaged)
  unfold Part.hand
  rw [if_neg permitted, if_neg still]
  split
  case h_1 x kind => exact if_neg (counts x (channel_of_kind_positional kind))
  case h_2 => rfl

/-- What a move handed and left to the arbiter is. -/
theorem hand_in_flight (allowed : mv.owner.rank ≠ 0 ∨ s.capture.engaged = true) (still : (s.motionOf c).phase ≠ .coasting)
    (counts : ∀ x : PosChannel, c = x.channel → mv.base ≠ 0) : let t := s.hand c mv
    Drives s t ∧ (t.motionOf c).body = (s.motionOf c).body
    ∧ (2 ≤ s.slots.length → (t.motionOf c).phase = .waiting)
    ∧ (s.slots.length < 2 → (t.motionOf c).phase = if s.goesOff c mv then .coasting else .driving)
    ∧ (t.motionOf c).phase ∈ [.waiting, .driving, .coasting]
    ∧ ((2 ≤ s.slots.length ∧ (t.motionOf c).move = some mv)
      ∨ (s.slots.length < 2 ∧ ∃ (e : DriveEnd) (n : Nat),
          (t.motionOf c).move = some { s.granted c mv with driveEnd := e, driveTime := n })) := by
  dsimp only
  rw [hand_waits allowed still counts]
  have moves := holding_move s c mv
  obtain ⟨full, room, moving⟩ := enterWaiting_phase moves
  have move := enterWaiting_move moves
  rw [goesOff_holding] at room
  rw [granted_holding] at move
  exact ⟨((Drives.refl s).holding c mv).enterWaiting c, (body_enterWaiting _ c c).trans (body_modMotion s c c fun _ => rfl), full, room,
    moving, move⟩

end

end Sys2Proof.Machine
end

section
/-! PROOFS. A SETTING_REQUEST accepted (R62, R66, R69): the answer, the hold it starts, and how the arrival rule places its entry on a
channel in each of the conditions of R68. -/

namespace Sys2Proof.Machine

/-! ### The frame of a request on one channel -/

/-- What work on channel c leaves as it stood, in the words of the statements. -/
structure Framed (c : Channel) (s t : Part) : Prop where
  now : t.now = s.now
  entries : ∀ e, e ≠ c → t.entryOf e = s.entryOf e
  store : t.store = s.store
  capture : t.capture = s.capture
  lines : t.lines = s.lines
  power : t.power = s.power
  shutdown : t.shutdown = s.shutdown
  service : t.service = s.service
  number : t.window.number = s.window.number
  history : t.window.history = s.window.history

theorem Framed.refl (c : Channel) (s : Part) : Framed c s s := ⟨rfl, fun _ _ => rfl, rfl, rfl, rfl, rfl, rfl, rfl, rfl, rfl⟩

theorem Framed.trans {c : Channel} {s t u : Part} (h : Framed c s t) (k : Framed c t u) : Framed c s u where
  now := k.now.trans h.now
  entries := fun e ne => (k.entries e ne).trans (h.entries e ne)
  store := k.store.trans h.store
  capture := k.capture.trans h.capture
  lines := k.lines.trans h.lines
  power := k.power.trans h.power
  shutdown := k.shutdown.trans h.shutdown
  service := k.service.trans h.service
  number := k.number.trans h.number
  history := k.history.trans h.history

theorem Local.framed {P : Owner → Prop} {W : Prop} {c : Channel} {s t : Part} (h : Local P W c s t) : Framed c s t where
  now := congrArg Pinned.now h.pinned
  entries := h.entries
  store := congrArg Pinned.store h.pinned
  capture := congrArg Pinned.capture h.pinned
  lines := congrArg Pinned.lines h.pinned
  power := congrArg Pinned.power h.pinned
  shutdown := congrArg Pinned.shutdown h.pinned
  service := congrArg Pinned.service h.pinned
  number := number_of_pinned h.pinned
  history := congrArg (·.window.history) h.pinned

/-- Work of the Drive Arbiter, which writes no entry. -/
theorem Drives.framed {s t : Part} (h : Drives s t) (c : Channel) : Framed c s t := by
  obtain ⟨motion, slots, rankOrder, shifted, rfl⟩ := h
  exact ⟨rfl, fun _ _ => rfl, rfl, rfl, rfl, rfl, rfl, rfl, rfl, rfl⟩

/-! ### The requesters of the bus -/

/-- The Cab Terminal, or the Service Tool. -/
def Requester.commands (r : Requester) : Prop := r = .operator ∨ r = .service

theorem senderOf_commands (source : Byte) : (senderOf source).commands := by
  unfold senderOf
  split
  · exact .inl rfl
  · exact .inr rfl

/-- The holder that a requester's hold has. -/
def Requester.holder (r : Requester) : Holder := if r = .operator then .operator else .service

theorem holder_senderOf (source : Byte) : (senderOf source).holder = if source = cabAddress then .operator else .service := by
  unfold senderOf
  split <;> rfl

theorem origin_senderOf (source : Byte) : (senderOf source).origin false = if source = cabAddress then .operator else .service := by
  unfold senderOf
  split <;> rfl

section

variable {r : Requester}

theorem Requester.commands.rank (commands : r.commands) : r.rank ≠ 0 := by
  rcases commands with rfl | rfl <;> decide

theorem Requester.commands.commits (commands : r.commands) : r.commits = true := by
  rcases commands with rfl | rfl <;> rfl

theorem Requester.commands.fresh {e : Entry} (commands : e.requester.commands) (window : Nat) : e.stale window = false := by
  unfold Entry.stale
  rcases commands with is | is <;> rw [is]

end

/-! ### The hold of an accepted request (R62, R97) -/

/-- The part with the hold that an accepted SET or JOG_START of a requester leaves. -/
def Part.withHold (s : Part) (c : Channel) (who : Holder) : Part :=
  let resets := c = .fan ∧ s.startsHold c who = true
  { s with
    book := s.book.set c { s.entryOf c with hold := s.holdAfter c who }
    fanOffset := if resets then 0 else s.fanOffset
    fanTarget := if resets then s.clampToEnvelope .fan (s.entryOf .fan).setpoint else s.fanTarget }

theorem putHold_eq {s : Part} {c : Channel} {who : Holder} (starts : s.startsHold c who = true) :
    s.putHold c ⟨who, s.newHoldTime⟩ = s.withHold c who := by
  have hold : s.holdAfter c who = some ⟨who, s.newHoldTime⟩ := by
    unfold Part.holdAfter
    exact if_pos starts
  unfold Part.putHold Part.withHold
  by_cases fan : c = .fan
  · subst fan
    simp [starts, hold, setFanOffset_zero, Part.modBook, Part.entryOf, Part.clampToEnvelope, Part.envelope, Part.params,
      PerChannel.get_set_self]
  · simp [fan, hold, Part.modBook, Part.entryOf]

theorem withHold_of_none {s : Part} {c : Channel} {who : Holder} (starts : s.startsHold c who = false) : s.withHold c who = s := by
  have same : s.book.set c { s.entryOf c with hold := s.holdAfter c who } = s.book := by
    have hold : s.holdAfter c who = (s.entryOf c).hold := by
      unfold Part.holdAfter
      rw [starts]
      rfl
    refine PerChannel.ext_get fun d => ?_
    rw [PerChannel.get_set, hold]
    split
    case isTrue at' => exact at' ▸ rfl
    case isFalse => rfl
  unfold Part.withHold
  rw [same]
  simp [starts]

theorem startHold_eq (s : Part) (c : Channel) {r : Requester} (commands : r.commands) : s.startHold c r = s.withHold c r.holder := by
  have starts : s.startHold c r = if s.startsHold c r.holder = true then s.putHold c ⟨r.holder, s.newHoldTime⟩ else s := by
    unfold Part.startHold Part.startsHold
    obtain ⟨-, -, mode, hold, -, -⟩ := s.entryOf c
    rcases commands with rfl | rfl
    · rcases hold with _ | ⟨_ | _, time⟩ <;> simp [Requester.holder]
    · simp [Requester.holder]
  rw [starts]
  split
  case isTrue yes => exact putHold_eq yes
  case isFalse no => exact (withHold_of_none (by simpa using no)).symm

section

variable (s : Part) (c : Channel) (who : Holder)

theorem entryOf_withHold : (s.withHold c who).entryOf c = { s.entryOf c with hold := s.holdAfter c who } :=
  PerChannel.get_set_self _ _ _

theorem framed_withHold : Framed c s (s.withHold c who) :=
  ⟨rfl, fun _ ne => PerChannel.get_set_ne _ _ ne, rfl, rfl, rfl, rfl, rfl, rfl, rfl, rfl⟩

theorem framed_answered (dest kind tag : Byte) (r : Result) (channel : Byte) (v : Word) :
    Framed c s (s.answered dest kind tag r channel v) :=
  ⟨rfl, fun _ _ => rfl, rfl, rfl, rfl, rfl, rfl, rfl, rfl, rfl⟩

end

/-! ### A request that passes (R65, R66, R69) -/

/-- A SETTING_REQUEST of a source that may send it, heard with its bytes, on a channel it names, with no shutdown. -/
structure Part.asks (p : Part) (h : FrameHeader) (source : Byte) (f : SettingFields) (c : Channel) : Prop where
  sends : (source = cabAddress ∧ p.service = false) ∨ source = serviceAddress
  received : p.receives h source 6
  runs : p.shutdown = none
  named : Channel.ofCode f.channel.toNat = some c

section

variable {p : Part} {h : FrameHeader} {source : Byte} {f : SettingFields} {c : Channel} {k : SettingKind}

theorem exec_settingCommand_of_asks (asks : p.asks h source f c) (q : List Instr) (dt : Nat)
    (passes : k = .jogStop ∨ p.refusalOf c k f.value.toInt = none) : exec (settingCommand k dt h f) ⟨p, q⟩ =
      .next ⟨(p.later dt).placeSetting k f (senderOf source) c (settingAsked source f), q⟩ := by
  obtain ⟨sends, received, runs, named⟩ := asks
  have permitted : ¬(senderOf source = .operator ∧ (p.later dt).service = true) := by
    rw [senderOf_eq_operator_iff]
    rintro ⟨rfl, on⟩
    rcases sends with ⟨-, off⟩ | tool
    · exact Bool.noConfusion (off.symm.trans on)
    · exact absurd tool (by decide)
  have heard : (p.later dt).receives h source 6 := received
  rw [exec_settingCommand_of_on received.1,
    onSetting_placed (sends.imp_left And.left) heard (checkSetting_passes runs named permitted passes)]

/-- Check 6 and those after it refuse a kind of request on a channel neither FAULTED nor, for a JOG_START, standing or unreferenced. -/
theorem refusalOf_set (sound : ∀ cause, (p.motionOf c).phase ≠ .faulted cause) (v : Int) : p.refusalOf c .set v = none := by
  rw [refusalOf_of_sound (by simp) (by simpa [Part.refusesFaulted] using sound)]
  simp

theorem refusalOf_jog (sound : ∀ cause, (p.motionOf c).phase ≠ .faulted cause) {v : Int} (value : v ≠ 0)
    (turns : c ∈ [Channel.drum, Channel.fan] → p.capture.engaged = true)
    (referenced : c ∉ [Channel.drum, Channel.fan] → (p.motionOf c).referenced = true) : p.refusalOf c .jogStart v = none := by
  rw [refusalOf_of_sound (by simp) (by simpa [Part.refusesFaulted] using sound), if_neg (fun bad => value bad.2), if_neg, if_neg]
  · rintro ⟨-, positional, lost⟩
    exact Bool.noConfusion ((referenced positional).symm.trans lost)
  · rintro ⟨-, speed, still⟩
    exact Bool.noConfusion ((turns speed).symm.trans still)

end

theorem outranks_eq_false_iff (s : Part) (c : Channel) (r : Requester) : s.outranks c r = false ↔
    (s.blocked c = false → ∀ mv, (s.motionOf c).move = some mv → mv.owner.rank ≤ r.rank) := by
  unfold Part.outranks Part.busy
  cases (s.motionOf c).move with
  | none => simp
  | some mv => cases s.blocked c <;> simp

theorem placeRequest_accepted {s u : Part} {c : Channel} {r : Requester} (commands : r.commands) (admitted : s.outranks c r = false)
    (a : Asked) (k : RequestKind) (tag : Byte) (holds : Bool) {answer : Part → Part} (answers : answer s = u) :
    s.placeRequest r c a k tag holds answer =
      ((if holds = true then u.withHold c r.holder else u).place c ⟨r, k, u.window.number, some tag, false⟩).1 := by
  unfold Part.placeRequest
  rw [admitted]
  simp only [startHold_eq _ c commands, answers]
  cases holds <;> rfl

/-! ### The arrival rule on a channel without a move (R69, R72) -/

section

variable {s : Part} {c : Channel} {e : Entry}

theorem listEntry_of_nil (empty : (s.entryOf c).requests = []) (e : Entry) : s.listEntry c e = s.listedAlone c e := by
  unfold Part.listEntry
  simp only [empty]
  rfl

theorem listedAlone_requests (s : Part) (c : Channel) (e : Entry) : ((s.listedAlone c e).entryOf c).requests = [e] := by
  unfold Part.listedAlone
  rw [entryOf_modBook_self]

theorem entryOf_listedAlone (s : Part) (c : Channel) (e : Entry) :
    (s.listedAlone c e).entryOf c = { s.entryOf c with requests := [e] } := entryOf_modBook_self _ _ _

theorem framed_listedAlone (s : Part) (c : Channel) (e : Entry) : Framed c s (s.listedAlone c e) :=
  ⟨rfl, fun _ ne => entryOf_modBook_of_ne s ne _, rfl, rfl, rfl, rfl, rfl, rfl, rfl, rfl⟩

/-- The list of a channel taken away but for its first entry: the others end SUPERSEDED, then the first is taken (R72). -/
def Part.cleared (s : Part) (c : Channel) (e : Entry) (others : List Entry) : Part :=
  (others.foldl (fun s x => s.endEntry c .superseded x) (s.listedAlone c e)).modBook c fun b => { b with requests := [] }

theorem listedAlone_listedAlone (s : Part) (c : Channel) (e : Entry) : (s.listedAlone c e).listedAlone c e = s.listedAlone c e := by
  refine modBook_of_same ?_
  rw [entryOf_listedAlone]

/-- An entry listed alone for a channel without requests leaves nothing behind when it is gone. -/
theorem emptied (empty : (s.entryOf c).requests = []) (e : Entry) :
    (s.listedAlone c e).modBook c (fun b => { b with requests := [] }) = s := by
  unfold Part.listedAlone
  rw [modBook_modBook]
  refine modBook_of_same ?_
  show ({ s.entryOf c with requests := [] } : BookEntry) = s.entryOf c
  rw [← empty]

theorem cleared_alone (empty : (s.entryOf c).requests = []) (e : Entry) : (s.listedAlone c e).cleared c e [] = s := by
  unfold Part.cleared
  rw [List.foldl_nil, listedAlone_listedAlone, emptied empty]

theorem channel_of_kind_speed {c : Channel} {v : SpeedChannel} (kind : c.kind = .speed v) : c = v.channel := by
  cases c <;> cases kind <;> rfl

/-- The take rule hands the entry's move at once: no HOME has to go before it, and no separator to turn (R72 to R74). -/
def Part.readyFor (s : Part) (c : Channel) (e : Entry) : Prop :=
  (∀ x : PosChannel, c = x.channel → (s.motionOf c).referenced = true ∨ e.kind = .home)
    ∧ ((∃ v : SpeedChannel, c = v.channel) → s.capture.engaged = true)

theorem readyFor_positional {x : PosChannel} (ready : (s.motionOf x.channel).referenced = true ∨ e.kind = .home) :
    s.readyFor x.channel e :=
  ⟨fun _ _ => ready, fun ⟨v, is⟩ => by cases x <;> cases v <;> exact absurd is (by decide)⟩

theorem readyFor_speed {v : SpeedChannel} (engaged : s.capture.engaged = true) : s.readyFor v.channel e :=
  ⟨fun x is => by cases x <;> cases v <;> exact absurd is (by decide), fun _ => engaged⟩

section

variable {others : List Entry} (fresh : e.stale s.window.number = false)

include fresh

theorem not_stale : ¬e.stale s.window.number = true := fun stale => Bool.noConfusion (fresh.symm.trans stale)

theorem takeHead_ready (ready : s.readyFor c e) : s.takeHead c e others = (s.cleared c e others).takeEntry c e := by
  unfold Part.takeHead
  refine (if_neg (not_stale fresh)).trans ?_
  cases kind : c.kind with
  | positional x =>
    by_cases referenced : (s.motionOf c).referenced = true
    · exact if_pos referenced
    · have home : e.kind = .home := (ready.1 x (channel_of_kind_positional kind)).resolve_left referenced
      refine (if_neg referenced).trans ?_
      rewrite [home]
      rfl
  | speed v =>
    have engaged : s.capture.engaged = true := ready.2 ⟨v, channel_of_kind_speed kind⟩
    cases is : e.kind with
    | set t => exact if_pos engaged
    | jog d => exact if_pos engaged
    | home => rfl
    | shake a n => rfl

/-- A SET on a speed channel while the separator is DISENGAGED (R74). -/
theorem takeHead_defers {v : SpeedChannel} (at' : c = v.channel) {t : Option Int} (set : e.kind = .set t)
    (apart : s.capture.engaged = false) : s.takeHead c e others = (s.cleared c e others).deferEntry c e := by
  unfold Part.takeHead
  refine (if_neg (not_stale fresh)).trans ?_
  subst at'
  rewrite [kind_speedChannel, set]
  exact if_neg fun engaged => Bool.noConfusion (apart.symm.trans engaged)

/-- A SET on an unreferenced channel (R73). -/
theorem takeHead_homes {x : PosChannel} (at' : c = x.channel) {t : Option Int} (set : e.kind = .set t)
    (lost : (s.motionOf c).referenced = false) : s.takeHead c e others = s.homeFirst x e := by
  unfold Part.takeHead
  refine (if_neg (not_stale fresh)).trans ?_
  subst at'
  rewrite [kind_channel, set]
  exact if_neg fun referenced => Bool.noConfusion (lost.symm.trans referenced)

/-- A JOG or SHAKE on an unreferenced channel (R73). -/
theorem takeHead_aborts {x : PosChannel} (at' : c = x.channel) (kind : (∃ d, e.kind = .jog d) ∨ ∃ a n, e.kind = .shake a n)
    (lost : (s.motionOf c).referenced = false) :
    s.takeHead c e others = (s.modBook c fun b => { b with requests := others }).endEntry c .aborted e := by
  unfold Part.takeHead
  refine (if_neg (not_stale fresh)).trans ?_
  subst at'
  rcases kind with ⟨d, is⟩ | ⟨a, n, is⟩
  all_goals
    rewrite [kind_channel, is]
    exact if_neg fun referenced => Bool.noConfusion (lost.symm.trans referenced)

end

/-- An entry that has grown stale (R72). -/
theorem takeHead_of_stale (stale : e.stale s.window.number = true) (others : List Entry) :
    s.takeHead c e others = (s.modBook c fun b => { b with requests := others }).endEntry c .superseded e := if_pos stale

/-! ### The take rule as a whole -/

theorem takeUpTo_of_nil (n : Nat) (none : (s.entryOf c).requests = []) : s.takeUpTo n c = s := by
  cases n with
  | zero => rfl
  | succ n =>
    unfold Part.takeUpTo
    rewrite [none]
    rfl

theorem freeFor_of_moving (moving : (s.motionOf c).phase ∈ [.waiting, .driving, .coasting]) (k : RequestKind) :
    s.freeFor c k = false := by
  unfold Part.freeFor Part.isFaulted
  simp only [List.mem_cons, List.not_mem_nil, or_false] at moving
  rcases moving with phase | phase | phase <;> simp [phase]

theorem takeUpTo_of_busy (n : Nat) (busy : ∀ k, s.freeFor c k = false) : s.takeUpTo n c = s := by
  cases n with
  | zero => rfl
  | succ n =>
    unfold Part.takeUpTo
    split
    · rfl
    · rw [busy]
      simp

/-- The take rule on a channel that is free for the first entry of its list. -/
theorem take_of_free {others : List Entry} (runs : s.shutdown = none) (free : s.freeFor c e.kind = true)
    (list : (s.entryOf c).requests = e :: others) : s.take c = (s.takeHead c e others).takeUpTo others.length c := by
  have goes : (s.shutdown.isNone && s.freeFor c e.kind) = true := by
    rw [runs, free]
    rfl
  unfold Part.take
  rw [list, List.length_cons]
  rewrite [Part.takeUpTo, list]
  exact if_pos goes

/-- One entry listed, on a channel that is free for it. -/
theorem take_of_one (runs : s.shutdown = none) (free : s.freeFor c e.kind = true) (list : (s.entryOf c).requests = [e]) :
    s.take c = s.takeHead c e [] := take_of_free runs free list

theorem place_of_free (runs : s.shutdown = none) (still : (s.motionOf c).move = none) (free : s.freeFor c e.kind = true)
    (empty : (s.entryOf c).requests = []) : (s.place c e).1 = (s.listedAlone c e).takeHead c e [] := by
  have takes : (s.listedAlone c e).take c = (s.listedAlone c e).takeHead c e [] :=
    take_of_one (s := s.listedAlone c e) runs free (listedAlone_requests s c e)
  unfold Part.place
  rewrite [still, free, listEntry_of_nil empty, takes]
  rfl

/-- On a blocked channel an entry is listed. -/
theorem place_of_blocked (blocked : s.blocked c = true) (e : Entry) : (s.place c e).1 = s.listEntry c e := by
  have busy : s.freeFor c e.kind = false := by
    unfold Part.freeFor
    rw [blocked]
    rfl
  unfold Part.place
  split
  · rw [busy]
    rfl
  · rw [if_pos blocked]

end

end Sys2Proof.Machine
end

section
/-! PROOFS. A move of a requester that ends, in full (R75, R104, R175), and JOG_START (R66, R71, R118, R120, R175). -/

namespace Sys2Proof.Machine

/-! ### The jog refresh timers and the queue (R175, R176) -/

theorem jogTimers_push (b : Bus) (f : Frame) : (b.push f).jogTimers = b.jogTimers := by
  unfold Bus.push
  split
  · rfl
  · split
    · rfl
    · split <;> rfl

theorem jogTimers_raise (s : Part) (e : Event) (c : Option Channel) (d8 d16 : Nat) :
    (s.raise e c d8 d16).bus.jogTimers = s.bus.jogTimers := by
  unfold Part.raise Part.raiseIn
  dsimp only
  split <;> exact jogTimers_push _ _

/-! ### An outcome recorded (R75) -/

/-- The outcome recorded writes the last outcome of its channel and the queue. -/
theorem recordOutcome_eq (s : Part) (c : Channel) (o : OutcomeCode) (owner : Owner) (tag : Option Byte) : ∃ bus : Bus,
    bus.jogTimers = s.bus.jogTimers ∧ s.recordOutcome c o owner tag =
      { s.modBook c fun e => { e with last := some ⟨o, owner, s.window.number⟩ } with bus := bus } := by
  let u : Part := s.modBook c fun e => { e with last := some ⟨o, owner, s.window.number⟩ }
  refine ⟨(u.raise .moveDone (some c) o.code (tagDetail tag)).bus, jogTimers_raise _ _ _ _ _, ?_⟩
  show u.raise .moveDone (some c) o.code (tagDetail tag) = { u with bus := _ }
  unfold Part.raise Part.raiseIn Part.send
  dsimp only
  split <;> rfl

theorem stopJogTimerOf_eq (s : Part) (c : Channel) (m : Move) : s.stopJogTimerOf c m = { s with bus := { s.bus with
    jogTimers := if m.kind = .jog ∧ s.hasJog c = false then s.bus.jogTimers.set c none else s.bus.jogTimers } } := by
  unfold Part.stopJogTimerOf Part.stopJogTimer
  cases s.hasJog c <;> by_cases jog : m.kind = .jog <;> simp [jog]

/-- The refresh timers once a JOG of a channel has ended, if the move was one. -/
def Part.timersAfter (s : Part) (c : Channel) (m : Move) : PerChannel (Option Nat) :=
  if m.kind = .jog ∧ (s.entryOf c).requests.any Entry.isJog = false then s.bus.jogTimers.set c none else s.bus.jogTimers

theorem timersAfter_of_nil {s : Part} {c : Channel} (empty : (s.entryOf c).requests = []) {m : Move} (jog : m.kind = .jog) :
    s.timersAfter c m = s.bus.jogTimers.set c none := by
  unfold Part.timersAfter
  rw [empty]
  exact if_pos ⟨jog, rfl⟩

/-- The outcome of a move is one that Plug Relief takes no notice of (R150, R152). -/
def MoveKind.plain (k : MoveKind) : Prop := k ≠ .relief ∧ k ≠ .returning

theorem reliefOutcome_of_plain {k : MoveKind} (plain : k.plain) (s : Part) (o : OutcomeCode) : s.reliefOutcome k o = s := by
  obtain ⟨relief, returning⟩ := plain
  unfold Part.reliefOutcome
  dsimp only
  split
  · exact absurd rfl relief
  · exact absurd rfl returning
  · rfl

/-- A channel at rest without a move. -/
def Motion.ended (m : Motion) : Motion := { m with phase := .idle, move := none, coastEndsAt := none }

/-- A move that has ended leaves its channel IDLE, its outcome the last one; for a JOG the refresh timer stops unless another JOG is
listed (R75, R104, R175). -/
theorem endMove_eq {s : Part} {c : Channel} {mv : Move} (moves : (s.motionOf c).move = some mv) (plain : mv.kind.plain)
    (o : OutcomeCode) : ∃ bus : Bus, bus.jogTimers = s.timersAfter c mv ∧ s.endMove c o =
      { s.modBook c fun e => { e with last := some ⟨o, mv.owner, s.window.number⟩ } with
        motion := s.motion.set c (s.motionOf c).ended, bus := bus } := by
  let u : Part := s.modMotion c Motion.ended
  have none : (u.motionOf c).move = none := by
    rw [motionOf_modMotion_self]
    rfl
  have jogs : u.hasJog c = (s.entryOf c).requests.any Entry.isJog := by
    have apart : u.jogging c = false := by
      unfold Part.jogging
      rw [none]
    unfold Part.hasJog
    rw [apart]
    rfl
  have ends : s.endMove c o = (u.stopJogTimerOf c mv).recordOutcome c o mv.owner mv.tag := by
    unfold Part.endMove
    rw [moves]
    exact reliefOutcome_of_plain plain _ o
  obtain ⟨bus, timers, records⟩ := recordOutcome_eq (u.stopJogTimerOf c mv) c o mv.owner mv.tag
  refine ⟨bus, ?_, ?_⟩
  · rw [timers, stopJogTimerOf_eq, jogs]
    rfl
  · rw [ends, records, stopJogTimerOf_eq]
    rfl

/-- What the end of a move leaves of its channel. -/
theorem endMove_leaves {s : Part} {c : Channel} {mv : Move} (moves : (s.motionOf c).move = some mv) (plain : mv.kind.plain)
    (o : OutcomeCode) : let t := s.endMove c o
    t.motionOf c = (s.motionOf c).ended ∧ t.entryOf c = { s.entryOf c with last := some ⟨o, mv.owner, s.window.number⟩ }
    ∧ t.bus.jogTimers = s.timersAfter c mv ∧ t.slots = s.slots ∧ t.override = s.override := by
  obtain ⟨bus, timers, ends⟩ := endMove_eq moves plain o
  dsimp only
  rw [ends]
  exact ⟨PerChannel.get_set_self _ _ _, PerChannel.get_set_self _ _ _, timers, rfl, rfl⟩

/-! ### JOG_START, refreshed or placed (R71, R175) -/

theorem Requester.same_self (r : Requester) : r.same r = true := by simp [Requester.same]

theorem ownJog_of_jog {s : Part} {c : Channel} {r : Requester} {mv : Move} (moves : (s.motionOf c).move = some mv)
    (jog : mv.kind = .jog) (owner : mv.owner = .request r) : s.ownJog c r = mv.direction := by
  unfold Part.ownJog
  rw [moves]
  simp [jog, owner, r.same_self]

theorem ownJog_of_other {s : Part} {c : Channel} (other : ∀ mv, (s.motionOf c).move = some mv → mv.kind ≠ .jog) (r : Requester) :
    s.ownJog c r = none := by
  unfold Part.ownJog
  cases moves : (s.motionOf c).move with
  | none => rfl
  | some mv =>
    dsimp only
    split
    case h_1 jog _ => exact absurd jog (other mv moves)
    case h_2 => rfl

theorem startJogTimer_eq (s : Part) (c : Channel) : s.startJogTimer c = { s with bus := { s.bus with
    jogTimers := s.bus.jogTimers.set c (some (s.now + 300000)) } } := rfl

theorem framed_startJogTimer (s : Part) (c d : Channel) : Framed d s (s.startJogTimer c) :=
  ⟨rfl, fun _ _ => rfl, rfl, rfl, rfl, rfl, rfl, rfl, rfl, rfl⟩

/-- The refresh timer runs for a jog in flight of the requester, or listed. -/
theorem armJogTimer_of_own {s : Part} {c : Channel} {r : Requester} {d : Direction} (own : s.ownJog c r = some d) :
    s.armJogTimer c r = s.startJogTimer c := by
  unfold Part.armJogTimer
  rw [own]
  rfl

theorem armJogTimer_of_listed {s : Part} {c : Channel} {e : Entry} (listed : (s.entryOf c).requests = [e]) {d : Direction}
    (jog : e.kind = .jog d) : s.armJogTimer c e.requester = s.startJogTimer c := by
  unfold Part.armJogTimer Entry.isJogOf Entry.isJog
  rw [listed]
  simp [jog, e.requester.same_self]

theorem armJogTimer_of_none {s : Part} {c : Channel} {r : Requester} (apart : s.ownJog c r = none)
    (empty : (s.entryOf c).requests = []) : s.armJogTimer c r = s := by
  unfold Part.armJogTimer
  rw [apart, empty]
  rfl

/-- The part as an accepted SETTING_REQUEST that starts a hold finds it when it is placed. -/
def Part.admitted (p : Part) (dt : Nat) (source : Byte) (f : SettingFields) (r : Result) (v : Word) (c : Channel) : Part :=
  ((p.later dt).answered source 0x01 f.tag r f.channel v).withHold c (senderOf source).holder

theorem framed_admitted (p : Part) (dt : Nat) (source : Byte) (f : SettingFields) (r : Result) (v : Word) (c : Channel) :
    Framed c (p.later dt) (p.admitted dt source f r v c) :=
  (framed_answered _ c source 0x01 f.tag r f.channel v).trans (framed_withHold _ c _)

theorem entryOf_admitted (p : Part) (dt : Nat) (source : Byte) (f : SettingFields) (r : Result) (v : Word) (c : Channel) :
    (p.admitted dt source f r v c).entryOf c =
      { p.entryOf c with hold := (p.later dt).holdAfter c (senderOf source).holder } := entryOf_withHold _ c _

/-- The entry that an accepted request of a source is listed or taken as. -/
def Part.asked (p : Part) (source : Byte) (f : SettingFields) (k : RequestKind) : Entry :=
  ⟨senderOf source, k, p.window.number, some f.tag, false⟩

section

variable {p : Part} {h : FrameHeader} {source : Byte} {f : SettingFields} {c : Channel}

/-- A JOG_START that passes its checks, of a requester whose own jog does not go that way. -/
theorem exec_jogStart_of_new (asks : p.asks h source f c) (q : List Instr) (dt : Nat)
    (passes : p.refusalOf c .jogStart f.value.toInt = none) (new : p.ownJog c (senderOf source) ≠ some (jogDirection f.value))
    (admitted : p.outranks c (senderOf source) = false) : exec (.jogStart dt h f) ⟨p, q⟩ =
      .next ⟨(((p.admitted dt source f .accepted f.value c).place c
        (p.asked source f (.jog (jogDirection f.value)))).1).armJogTimer c (senderOf source), q⟩ := by
  refine (exec_settingCommand_of_asks (k := .jogStart) asks q dt (.inr passes)).trans ?_
  unfold Part.placeSetting Part.placeJog
  dsimp only
  rewrite [if_neg (show (p.later dt).ownJog c (senderOf source) ≠ _ from new),
    if_neg (by rw [show (p.later dt).outranks c (senderOf source) = false from admitted]; decide),
    placeRequest_accepted (s := p.later dt) (senderOf_commands source) admitted _ _ _ _ (reply_setting _ _ _ _ _)]
  rfl

/-- A JOG_START in the direction of the requester's own jog. -/
theorem exec_jogStart_of_own (asks : p.asks h source f c) (q : List Instr) (dt : Nat)
    (passes : p.refusalOf c .jogStart f.value.toInt = none) (own : p.ownJog c (senderOf source) = some (jogDirection f.value)) :
    exec (.jogStart dt h f) ⟨p, q⟩ =
      .next ⟨((p.later dt).answered source 0x01 f.tag .accepted f.channel f.value).startJogTimer c, q⟩ := by
  refine (exec_settingCommand_of_asks (k := .jogStart) asks q dt (.inr passes)).trans ?_
  unfold Part.placeSetting Part.placeJog
  dsimp only
  rewrite [if_pos (show (p.later dt).ownJog c (senderOf source) = _ from own), reply_setting]
  rfl

end

end Sys2Proof.Machine
end

section
/-! PROOFS. A JOG in full: handed over (R118, R120, R126) and ended by its own course (R58, R119, R120). -/

namespace Sys2Proof.Machine

/-! ### A jog handed over -/

/-- A JOG as it is handed over, its edge read. -/
def Part.newJog (s : Part) (c : Channel) (r : Requester) (d : Direction) (tag : Option Byte) : Move :=
  let travel := if Channel.positional c = true then distanceToEdge d (s.motionOf c).position (s.jogEdge c d) else 0
  { Move.blank (.request r) .jog .held tag with direction := some d, edge := s.jogEdge c d, base := travel, remaining := travel }

theorem handJog_eq (s : Part) (c : Channel) (r : Requester) (d : Direction) (tag : Option Byte) :
    s.handJog c r d tag = s.hand c (s.newJog c r d tag) := by cases c <;> rfl

theorem positional_channel (x : PosChannel) : Channel.positional x.channel = true := by cases x <;> rfl

section

variable {s : Part} {x : PosChannel} {v : SpeedChannel} {c : Channel} {r : Requester} {d : Direction} {tag : Option Byte}

theorem newJog_travel : (s.newJog x.channel r d tag).base = distanceToEdge d (s.motionOf x.channel).position (s.jogEdge x.channel d)
    ∧ (s.newJog x.channel r d tag).remaining = distanceToEdge d (s.motionOf x.channel).position (s.jogEdge x.channel d) := by
  unfold Part.newJog
  rw [positional_channel]
  exact ⟨rfl, rfl⟩

/-- A jog that differs from the one handed by what a grant and a drive-off write of it. -/
theorem granted_newJog : s.granted c (s.newJog c r d tag) = { s.newJog c r d tag with
    granted := true, limit := (s.granted c (s.newJog c r d tag)).limit } := by
  unfold Part.granted
  split
  · rfl
  · rfl

/-- A JOG in flight from a channel that stood: it waits, or has been granted a slot. -/
theorem newJog_flies (commands : r.commands) (still : (s.motionOf c).phase ≠ .coasting)
    (travel : ∀ x : PosChannel, c = x.channel → distanceToEdge d (s.motionOf c).position (s.jogEdge c d) ≠ 0) :
    let t := s.handJog c r d tag
    Drives s t ∧ (2 ≤ s.slots.length → (t.motionOf c).phase = .waiting)
    ∧ (s.slots.length < 2 → (t.motionOf c).phase = if s.goesOff c (s.newJog c r d tag) then .coasting else .driving)
    ∧ ∃ (g l : Bool) (e : DriveEnd) (n : Nat), (t.motionOf c).move =
        some { s.newJog c r d tag with granted := g, limit := l, driveEnd := e, driveTime := n } := by
  dsimp only
  rw [handJog_eq]
  have counts (x : PosChannel) (is : c = x.channel) : (s.newJog c r d tag).base ≠ 0 := by
    subst is
    rw [newJog_travel.1]
    exact travel x rfl
  obtain ⟨drives, -, full, room, -, move⟩ := hand_in_flight (s := s) (mv := s.newJog c r d tag) (.inl commands.rank) still counts
  refine ⟨drives, full, room, ?_⟩
  rcases move with ⟨-, waits⟩ | ⟨-, e, n, runs⟩
  · exact ⟨_, _, _, _, waits⟩
  · rw [granted_newJog] at runs
    exact ⟨_, _, e, n, runs⟩

theorem goesOff_newJog_positional (away : distanceToEdge d (s.motionOf x.channel).position (s.jogEdge x.channel d) ≠ 0) :
    s.goesOff x.channel (s.newJog x.channel r d tag) = false := by
  rw [goesOff_of_new_jog rfl rfl, newJog_travel.2]
  exact decide_eq_false away

theorem goesOff_newJog_speed (time : 0 < (s.store.activeCal.figures.speed.get v).maxDriveTime) :
    s.goesOff v.channel (s.newJog v.channel r d tag) = decide (distanceToEdge d (s.rpmOf v) (s.jogEdge v.channel d) = 0) := by
  have early : ¬s.maxDriveTime v ≤ 0 := by
    unfold Part.maxDriveTime Part.cal ms
    omega
  simp only [Part.goesOff, Part.granted, kind_speedChannel]
  show (decide (s.maxDriveTime v ≤ 0) || _) = _
  rw [decide_eq_false early, Bool.false_or]
  rfl

/-- A JOG handed at its edge ends at once. -/
theorem handJog_at_edge (commands : r.commands) (still : (s.motionOf x.channel).phase ≠ .coasting)
    (there : distanceToEdge d (s.motionOf x.channel).position (s.jogEdge x.channel d) = 0) :
    s.handJog x.channel r d tag =
      (s.holding x.channel (s.newJog x.channel r d tag)).endJogMove x.channel (s.newJog x.channel r d tag) := by
  have counts : (s.newJog x.channel r d tag).base = 0 := newJog_travel.1.trans there
  rw [handJog_eq]
  unfold Part.hand
  rw [if_neg (fun bad => commands.rank bad.1), if_neg still, kind_channel]
  exact (if_pos counts).trans (if_pos rfl)

end

/-! ### A jog ended by its own course -/

theorem commit_timers (s : Part) (c : Channel) (v : Int) (r : Requester) (origin : Origin) (mv : Move) :
    (s.commit c v r origin).timersAfter c mv = s.timersAfter c mv := by
  obtain ⟨-, -, bus, -⟩ := commit_keeps s c v r origin
  unfold Part.timersAfter
  rw [bus, entryOf_commit]

/-- The outcome of a jog that ends by its own course. -/
def Move.jogOutcome (mv : Move) : OutcomeCode := if mv.limit then .limit else .complete

/-- A jog that ends commits its final value, clamped, for its requester. -/
theorem endJogMove_leaves {s : Part} {c : Channel} {mv : Move} {r : Requester} (moves : (s.motionOf c).move = some mv)
    (jog : mv.kind = .jog) (owner : mv.owner = .request r) : let t := s.endJogMove c mv
    (t.motionOf c).phase = .idle ∧ (t.motionOf c).move = none
    ∧ t.entryOf c = { s.entryOf c with
        setpoint := s.clampToEnvelope c (s.jogValue c), origin := r.origin false
        last := some ⟨mv.jogOutcome, mv.owner, s.window.number⟩ }
    ∧ t.bus.jogTimers = s.timersAfter c mv := by
  let u : Part := s.commit c (s.jogValue c) r (r.origin false)
  have plain : mv.kind.plain := by
    rw [jog]
    exact ⟨by decide, by decide⟩
  obtain ⟨motion, -, -, -⟩ := commit_keeps s c (s.jogValue c) r (r.origin false)
  have still : u.motionOf c = s.motionOf c := motionOf_of_motion motion c
  have entry : u.entryOf c = { s.entryOf c with setpoint := s.clampToEnvelope c (s.jogValue c), origin := r.origin false } :=
    entryOf_commit s c _ r _
  have timers : u.timersAfter c mv = s.timersAfter c mv := commit_timers s c _ r _ mv
  have number : u.window.number = s.window.number := number_of_pinned ((Local.refl (P := AnyOwner) s).commit _ r _ trivial).pinned
  have commits : s.commitJog c mv = u := by
    unfold Part.commitJog
    rw [owner]
  dsimp only
  unfold Part.endJogMove Move.jogOutcome
  rw [commits]
  cases mv.limit with
  | true =>
    obtain ⟨rests, ended, fires, -, -⟩ := endMove_leaves (s := u) (by rw [still]; exact moves) plain .limit
    rw [if_pos rfl, if_pos rfl, rests, ended, fires, timers, entry, number]
    exact ⟨rfl, rfl, rfl, rfl⟩
  | false =>
    let w : Part := u.modMotion c fun m => { m with stallCount := 0 }
    have moves' : (w.motionOf c).move = some mv := by
      rw [motionOf_modMotion_self, still]
      exact moves
    obtain ⟨rests, ended, fires, -, -⟩ := endMove_leaves moves' plain .complete
    rw [if_neg (by decide), if_neg (by decide)]
    show ((w.endMove c .complete).motionOf c).phase = _ ∧ ((w.endMove c .complete).motionOf c).move = _
      ∧ (w.endMove c .complete).entryOf c = _ ∧ (w.endMove c .complete).bus.jogTimers = _
    rw [rests, ended, fires]
    exact ⟨rfl, rfl, by rw [show w.entryOf c = u.entryOf c from rfl, entry, show w.window.number = _ from number], timers⟩

end Sys2Proof.Machine
end

section
/-! PROOFS. O34: a JOG_START on a channel that stands free, on a blocked one, and in the direction of the requester's own jog. -/

namespace Sys2Proof.Machine

theorem jog_value {f : SettingFields} (value : f.value ≠ 0) : f.value.toInt ≠ 0 := fun zero => value ((toInt_eq_zero_iff _).1 zero)

theorem standsFree_sound {s : Part} {c : Channel} (free : s.standsFree c) (cause : FaultCause) : (s.motionOf c).phase ≠ .faulted cause := by
  rw [free.1]
  exact Phase.noConfusion

theorem standsFree_admits {s : Part} {c : Channel} (free : s.standsFree c) (r : Requester) : s.outranks c r = false := by
  rw [outranks_eq_false_iff]
  intro _ mv moves
  rw [free.2.1] at moves
  exact absurd moves (by simp)

theorem blocked_admits {s : Part} {c : Channel} (blocked : s.blocked c = true) (r : Requester) : s.outranks c r = false := by
  rw [outranks_eq_false_iff, blocked]
  exact fun apart => absurd apart (by decide)

theorem channel_mem_positional (x : PosChannel) : x.channel ∉ [Channel.drum, Channel.fan] := by cases x <;> decide

theorem channel_mem_speed (v : SpeedChannel) : v.channel ∈ [Channel.drum, Channel.fan] := by cases v <;> decide

section

variable {p : Part} {dt : Nat} {source : Byte} {f : SettingFields} {r : Result} {v : Word} {c : Channel} {e : Entry}

theorem admitted_free (free : p.standsFree c) (k : RequestKind) : (p.admitted dt source f r v c).freeFor c k = true :=
  freeFor_of_standsFree (s := p) free k

theorem admitted_empty (empty : (p.entryOf c).requests = []) : ((p.admitted dt source f r v c).entryOf c).requests = [] := by
  rw [entryOf_admitted]
  exact empty

/-- An accepted entry whose move is handed at once. -/
theorem place_admitted (free : p.standsFree c) (runs : p.shutdown = none) (commands : e.requester.commands) (ready : p.readyFor c e) :
    ((p.admitted dt source f r v c).place c e).1 = (p.admitted dt source f r v c).takeEntry c e := by
  have freely : (p.admitted dt source f r v c).freeFor c e.kind = true := admitted_free free e.kind
  obtain ⟨-, still, -, empty⟩ := free
  rw [place_of_free (s := p.admitted dt source f r v c) runs still freely (admitted_empty empty)]
  exact (takeHead_ready (s := (p.admitted dt source f r v c).listedAlone c e) (e := e) (commands.fresh _) ready).trans
    (congrArg (·.takeEntry c e) (cleared_alone (admitted_empty empty) e))

/-- An accepted entry on a blocked channel whose list is empty. -/
theorem place_admitted_blocked (blocked : p.blocked c = true) (empty : (p.entryOf c).requests = []) (e : Entry) :
    ((p.admitted dt source f r v c).place c e).1 = (p.admitted dt source f r v c).listedAlone c e := by
  rw [place_of_blocked (s := p.admitted dt source f r v c) blocked e, listEntry_of_nil (admitted_empty empty)]

end

section

variable {p : Part} {h : FrameHeader} {source : Byte} {f : SettingFields} {c : Channel}

theorem asked_commands (p : Part) (source : Byte) (f : SettingFields) (k : RequestKind) : (p.asked source f k).requester.commands :=
  senderOf_commands source

/-- A JOG_START on a channel that stands free hands its jog at once. -/
theorem exec_jogStart_of_free (asks : p.asks h source f c) (q : List Instr) (dt : Nat) (free : p.standsFree c)
    (ready : ∀ k, p.readyFor c (p.asked source f (.jog k)))
    (passes : p.refusalOf c .jogStart f.value.toInt = none) : exec (.jogStart dt h f) ⟨p, q⟩ =
      .next ⟨((p.admitted dt source f .accepted f.value c).handJog c (senderOf source) (jogDirection f.value) (some f.tag)).armJogTimer c
        (senderOf source), q⟩ := by
  have other : p.ownJog c (senderOf source) = none := ownJog_of_other (fun mv moves => by
    rw [free.2.1] at moves
    exact absurd moves (by simp)) _
  rw [exec_jogStart_of_new asks q dt passes (by rw [other]; simp) (standsFree_admits free _),
    place_admitted free asks.runs (asked_commands p source f _) (ready _)]
  rfl

end

theorem jogValue_positional (s : Part) (x : PosChannel) : s.jogValue x.channel = s.unitsOf x (s.motionOf x.channel).position := by
  unfold Part.jogValue
  rw [kind_channel]

theorem Drives.bus {s t : Part} (h : Drives s t) : t.bus = s.bus := by
  obtain ⟨motion, slots, rankOrder, shifted, rfl⟩ := h
  rfl

theorem bus_startJogTimer {p t : Part} {dt : Nat} {source : Byte} {f : SettingFields} {r : Result} {v : Word} {c : Channel}
    (bus : t.bus = ((p.later dt).answered source 0x01 f.tag r f.channel v).bus) (now : t.now = p.now + dt) :
    (t.startJogTimer c).bus = { ((p.later dt).answered source 0x01 f.tag r f.channel v).bus with
      jogTimers := p.bus.jogTimers.set c (some (p.now + dt + 300000)) } := by
  have timers : t.bus.jogTimers = p.bus.jogTimers := by
    rw [bus]
    exact jogTimers_push _ _
  rw [startJogTimer_eq, timers, now, bus]

theorem startJogTimer_answered (p : Part) (dt : Nat) (source : Byte) (f : SettingFields) (r : Result) (v : Word) (c : Channel) :
    ((p.later dt).answered source 0x01 f.tag r f.channel v).startJogTimer c =
      { (p.later dt).answered source 0x01 f.tag r f.channel v with
        bus := { ((p.later dt).answered source 0x01 f.tag r f.channel v).bus with
          jogTimers := p.bus.jogTimers.set c (some (p.now + dt + 300000)) } } :=
  congrArg (fun b => { (p.later dt).answered source 0x01 f.tag r f.channel v with bus := b }) (bus_startJogTimer rfl rfl)

/-- The frame of a request in the words of the statements, of a part that works. -/
theorem Framed.asRequest {c : Channel} {s t : Part} (k : Framed c s t) (on : s.power = .on) : t.now = s.now
    ∧ (∀ e, e ≠ c → t.entryOf e = s.entryOf e) ∧ t.store = s.store ∧ t.capture = s.capture ∧ t.lines = s.lines ∧ t.power = .on
    ∧ t.service = s.service ∧ t.window.number = s.window.number ∧ t.window.history = s.window.history :=
  ⟨k.now, k.entries, k.store, k.capture, k.lines, k.power.trans on, k.service, k.number, k.history⟩

end Sys2Proof.Machine

open Sys2Proof Sys2Proof.Machine

/-- Settles O34: the jog handed on a free channel, positional or of a speed, the entry listed on a blocked one, the refresh. -/
theorem aJogStartsOrIsRefreshed : Obligations.AJogStartsOrIsRefreshed := by
  intro p q dt h source f c sends received runs named value
  have asks : p.asks h source f c := ⟨sends, received, runs, named⟩
  have number := jog_value value
  let u : Part := p.admitted dt source f .accepted f.value c
  have frameU : Framed c (p.later dt) u := framed_admitted p dt source f .accepted f.value c
  have entryU : u.entryOf c = { p.entryOf c with hold := (p.later dt).holdAfter c (senderOf source).holder } := entryOf_admitted ..
  have setpointU : (u.entryOf c).setpoint = (p.entryOf c).setpoint := by rw [entryU]
  have requestsU : (u.entryOf c).requests = (p.entryOf c).requests := by rw [entryU]
  have stands (free : p.standsFree c) : (u.motionOf c).phase ≠ .coasting := fun coasts => Phase.noConfusion (free.1.symm.trans coasts)
  dsimp only
  refine ⟨fun x at' free referenced => ⟨fun away => ?away, fun there => ?there⟩, fun v at' free engaged => ?speed,
    fun blocked empty sound turns referenced other => ?blocked, fun mv moves jog owner way turns referenced sound => ?own⟩
  case own =>
    have own : p.ownJog c (senderOf source) = some (jogDirection f.value) := (ownJog_of_jog moves jog owner).trans way
    rw [exec_jogStart_of_own asks q dt (refusalOf_jog sound number turns referenced) own, startJogTimer_answered]
  case blocked =>
    have apart : p.ownJog c (senderOf source) = none := ownJog_of_other other _
    refine ⟨(u.listedAlone c (p.asked source f (.jog (jogDirection f.value)))).startJogTimer c, ?_,
      (frameU.trans ((framed_listedAlone u c _).trans (framed_startJogTimer _ c c))).asRequest received.1, rfl, rfl,
      listedAlone_requests u c _, ?_, ?_⟩
    · rw [exec_jogStart_of_new asks q dt (refusalOf_jog sound number turns referenced) (by rw [apart]; simp)
        (blocked_admits blocked _), place_admitted_blocked blocked empty]
      exact congrArg (fun t => Host.Outcome.next (State.mk t q)) (armJogTimer_of_listed (listedAlone_requests u c _) rfl)
    · show ((u.listedAlone c _).entryOf c).setpoint = _
      rw [entryOf_listedAlone, entryU]
    · exact bus_startJogTimer rfl rfl
  case away =>
    subst at'
    have passes := refusalOf_jog (standsFree_sound free) number (fun speed => absurd speed (channel_mem_positional x)) fun _ => referenced
    obtain ⟨drives, full, room, g, l, e, n, move⟩ := newJog_flies (s := u) (c := x.channel) (d := jogDirection f.value)
      (tag := some f.tag) (senderOf_commands source) (stands free) fun _ _ => away
    rw [goesOff_newJog_positional (s := u) (d := jogDirection f.value) away] at room
    have own := ownJog_of_jog move rfl rfl
    have travels := newJog_travel (s := u) (x := x) (r := senderOf source) (d := jogDirection f.value) (tag := some f.tag)
    refine ⟨_, _, (exec_jogStart_of_free asks q dt free (fun _ => readyFor_positional (.inl referenced)) passes).trans
        (by rw [armJogTimer_of_own own]),
      (frameU.trans ((drives.framed _).trans (framed_startJogTimer _ _ _))).asRequest received.1, move, rfl, rfl, rfl,
      travels.1, travels.2, rfl, rfl, rfl, ⟨room, full⟩, bus_startJogTimer drives.bus (drives.framed x.channel).now, ?_, ?_⟩
    · exact (congrArg BookEntry.setpoint (entryOf_drives drives _)).trans setpointU
    · exact (congrArg BookEntry.requests (entryOf_drives drives _)).trans (requestsU.trans free.2.2.2)
  case there =>
    subst at'
    have passes := refusalOf_jog (standsFree_sound free) number (fun speed => absurd speed (channel_mem_positional x)) fun _ => referenced
    let mv : Move := u.newJog x.channel (senderOf source) (jogDirection f.value) (some f.tag)
    let w : Part := u.holding x.channel mv
    have hands : u.handJog x.channel (senderOf source) (jogDirection f.value) (some f.tag) = w.endJogMove x.channel mv :=
      handJog_at_edge (senderOf_commands source) (stands free) there
    obtain ⟨idle, gone, entry, timers⟩ := endJogMove_leaves (s := w) (holding_move u x.channel mv) rfl rfl
    have empty : (w.entryOf x.channel).requests = [] := requestsU.trans free.2.2.2
    have frameT : Framed x.channel u (w.endJogMove x.channel mv) :=
      (((Drives.refl u).holding x.channel mv).framed x.channel).trans
        ((Local.refl (P := AnyOwner) w).endJogMove mv trivial).framed
    have apart : (w.endJogMove x.channel mv).ownJog x.channel (senderOf source) = none := ownJog_of_other (fun m moves => by
      rw [gone] at moves
      exact absurd moves (by simp)) _
    have requests : ((w.endJogMove x.channel mv).entryOf x.channel).requests = [] := by rw [entry]; exact empty
    refine ⟨w.endJogMove x.channel mv, ?_, (frameU.trans frameT).asRequest received.1, idle, gone, ?_, ?_, requests, ?_⟩
    · rw [exec_jogStart_of_free asks q dt free (fun _ => readyFor_positional (.inl referenced)) passes]
      exact congrArg (fun t => Host.Outcome.next (State.mk t q)) (congrArg (fun t => Part.armJogTimer t _ _) hands |>.trans
        (armJogTimer_of_none apart requests))
    · rw [timers, timersAfter_of_nil empty rfl]
      exact congrArg (·.set x.channel none) (jogTimers_push _ _)
    · rw [entry]
      show p.clampToEnvelope x.channel (w.jogValue x.channel) = _
      rw [jogValue_positional]
      exact congrArg (fun m => p.clampToEnvelope x.channel (p.unitsOf x m.position)) (motionOf_holding u x.channel mv)
    · rw [entry]
      rfl
  case speed =>
    subst at'
    have passes := refusalOf_jog (standsFree_sound free) number (fun _ => engaged) fun off => absurd (channel_mem_speed v) off
    obtain ⟨drives, full, room, g, l, e, n, move⟩ := newJog_flies (s := u) (c := v.channel) (d := jogDirection f.value)
      (tag := some f.tag) (senderOf_commands source) (stands free) fun y is => absurd (is ▸ channel_mem_speed v) (channel_mem_positional y)
    have own := ownJog_of_jog move rfl rfl
    refine ⟨_, _, (exec_jogStart_of_free asks q dt free (fun _ => readyFor_speed engaged) passes).trans
        (by rw [armJogTimer_of_own own]),
      (frameU.trans ((drives.framed _).trans (framed_startJogTimer _ _ _))).asRequest received.1, move, rfl, rfl, rfl,
      rfl, rfl, ?_, full, ?_, ?_, ?_⟩
    · intro free time
      exact (room free).trans (by rw [goesOff_newJog_speed (s := u) time]; simp only [decide_eq_true_eq]; rfl)
    · exact congrArg Bus.jogTimers (bus_startJogTimer (t := u.handJog ..) drives.bus (drives.framed v.channel).now)
    · exact (congrArg BookEntry.setpoint (entryOf_drives drives _)).trans setpointU
    · exact (congrArg BookEntry.requests (entryOf_drives drives _)).trans (requestsU.trans free.2.2.2)

end

section
/-! PROOFS. What a channel takes and how it goes: entries of a list ended (R72, R75), a move with a target asked for a slot (R109, R131),
a HOME handed over (R115), an abort from DRIVING (R137), a coast that ends under no move (R107). -/

namespace Sys2Proof.Machine

/-! ### Work on the book and the bus alone -/

/-- The second part differs from the first in its book and its bus alone. -/
def Notes (s t : Part) : Prop := ∃ (book : PerChannel BookEntry) (bus : Bus), t = { s with book := book, bus := bus }

section

variable {s0 s t : Part}

theorem Notes.refl (s : Part) : Notes s s := ⟨s.book, s.bus, rfl⟩

theorem Notes.trans (h : Notes s0 s) (k : Notes s t) : Notes s0 t := by
  obtain ⟨_, _, rfl⟩ := h
  obtain ⟨book, bus, rfl⟩ := k
  exact ⟨book, bus, rfl⟩

theorem Notes.keeps (h : Notes s t) : t.motion = s.motion ∧ t.slots = s.slots ∧ t.override = s.override ∧ t.window = s.window
    ∧ t.evaluator = s.evaluator ∧ t.settle = s.settle ∧ t.louverTrim = s.louverTrim ∧ t.store = s.store ∧ t.capture = s.capture
    ∧ t.shutdown = s.shutdown := by
  obtain ⟨book, bus, rfl⟩ := h
  exact ⟨rfl, rfl, rfl, rfl, rfl, rfl, rfl, rfl, rfl, rfl⟩

theorem notes_modBook (s : Part) (c : Channel) (f : BookEntry → BookEntry) : Notes s (s.modBook c f) := ⟨_, s.bus, rfl⟩

theorem notes_recordOutcome (s : Part) (c : Channel) (o : OutcomeCode) (owner : Owner) (tag : Option Byte) :
    Notes s (s.recordOutcome c o owner tag) := by
  obtain ⟨bus, -, records⟩ := recordOutcome_eq s c o owner tag
  exact ⟨_, bus, records⟩

theorem notes_stopJogTimer (s : Part) (c : Channel) : Notes s (s.stopJogTimer c) := by
  unfold Part.stopJogTimer
  split
  · exact .refl s
  · exact ⟨s.book, _, rfl⟩

theorem notes_endEntry (s : Part) (c : Channel) (o : OutcomeCode) (e : Entry) : Notes s (s.endEntry c o e) := by
  unfold Part.endEntry
  split
  · exact (notes_stopJogTimer s c).trans (notes_recordOutcome _ c o _ _)
  · exact notes_recordOutcome s c o _ _

theorem notes_endEntries (c : Channel) (o : OutcomeCode) (l : List Entry) : ∀ s : Part, Notes s (l.foldl (fun s e => s.endEntry c o e) s) := by
  induction l with
  | nil => exact .refl
  | cons e rest ih => exact fun s => (notes_endEntry s c o e).trans (ih _)

theorem notes_discardEntries (s : Part) (c : Channel) (o : OutcomeCode) (gone : Entry → Bool) : Notes s (s.discardEntries c o gone) :=
  (notes_modBook s c _).trans (notes_endEntries c o _ _)

end

/-! ### The entries of a list ended in turn (R72, R75) -/

/-- The last outcome once the entries of a list have ended in turn. -/
def lastOf (o : OutcomeCode) (n : Nat) (before : Option LastOutcome) : List Entry → Option LastOutcome
  | [] => before
  | e :: rest => lastOf o n (some ⟨o, .request e.requester, n⟩) rest

theorem lastOf_concat (o : OutcomeCode) (n : Nat) (e : Entry) (l : List Entry) : ∀ before : Option LastOutcome,
    lastOf o n before (l ++ [e]) = some ⟨o, .request e.requester, n⟩ := by
  induction l with
  | nil => exact fun _ => rfl
  | cons x rest ih => exact fun _ => ih _

theorem lastOf_of_getLast {o : OutcomeCode} {n : Nat} {before : Option LastOutcome} {l : List Entry} :
    (∀ y, l.getLast? = some y → lastOf o n before l = some ⟨o, .request y.requester, n⟩) ∧ (l.getLast? = none → lastOf o n before l = before) := by
  refine ⟨fun y last => ?_, fun none => ?_⟩
  · obtain ⟨rest, rfl⟩ := List.getLast?_eq_some_iff.1 last
    exact lastOf_concat o n y rest before
  · rw [List.getLast?_eq_none_iff.1 none]
    rfl

theorem entryOf_endEntries_last (c : Channel) (o : OutcomeCode) (l : List Entry) : ∀ s : Part,
    (l.foldl (fun s e => s.endEntry c o e) s).entryOf c =
      { s.entryOf c with last := lastOf o s.window.number (s.entryOf c).last l } := by
  induction l with
  | nil => exact fun _ => rfl
  | cons e rest ih =>
    intro s
    have number : (s.endEntry c o e).window = s.window := by
      obtain ⟨-, -, -, window, -⟩ := (notes_endEntry s c o e).keeps
      exact window
    rw [List.foldl_cons, ih, entryOf_endEntry, number]
    rfl

theorem entryOf_discardEntries (s : Part) (c : Channel) (o : OutcomeCode) (gone : Entry → Bool) :
    (s.discardEntries c o gone).entryOf c = { s.entryOf c with
      requests := (s.entryOf c).requests.filter (!gone ·)
      last := lastOf o s.window.number (s.entryOf c).last ((s.entryOf c).requests.filter gone) } := by
  unfold Part.discardEntries
  rw [entryOf_endEntries_last, entryOf_modBook_self]
  rfl

/-- The first entry taken off a list, the others SUPERSEDED. -/
theorem entryOf_cleared (s : Part) (c : Channel) (e : Entry) (others : List Entry) :
    (s.cleared c e others).entryOf c = { s.entryOf c with
      requests := [], last := lastOf .superseded s.window.number (s.entryOf c).last others } := by
  unfold Part.cleared
  rw [entryOf_modBook_self, entryOf_endEntries_last, entryOf_listedAlone]
  rfl

theorem notes_cleared (s : Part) (c : Channel) (e : Entry) (others : List Entry) : Notes s (s.cleared c e others) :=
  ((notes_modBook s c _).trans (notes_endEntries c _ _ _)).trans (notes_modBook _ c _)

/-! ### A move with a target asked for a slot (R109, R131) -/

/-- A move with a target as a grant at a position leaves it. -/
def Move.aimedAgain (mv : Move) (t position : Int) : Move := { mv with
  stintCount := 0
  direction := if position < t then some .up else if t < position then some .down else mv.direction
  remaining := min mv.base (distance t position)
  granted := true }

theorem distance_ne_zero {a b : Int} (ne : a ≠ b) : distance a b ≠ 0 := by
  unfold distance
  omega

theorem distance_eq_zero_iff {a b : Int} : distance a b = 0 ↔ a = b := by
  unfold distance
  omega

section

variable {s : Part} {x : PosChannel} {mv : Move} {t : Int}

/-- A positional move with counts to go and a target away from the position is driven, or waits as it is. -/
theorem enterWaiting_aimed (moves : (s.motionOf x.channel).move = some mv) (jog : mv.kind ≠ .jog) (home : mv.kind ≠ .home)
    (aimed : mv.target = some t) (base : mv.base ≠ 0) (away : t ≠ (s.motionOf x.channel).position) :
    let u := s.enterWaiting x.channel
    u.drivesOrWaits x.channel s.slots.length
    ∧ ((2 ≤ s.slots.length ∧ (u.motionOf x.channel).move = some mv)
      ∨ (s.slots.length < 2 ∧ ∃ (e : DriveEnd) (n : Nat), (u.motionOf x.channel).move =
          some { mv.aimedAgain t (s.motionOf x.channel).position with driveEnd := e, driveTime := n })) := by
  have on : s.goesOff x.channel mv = false := by
    rw [goesOff_of_target jog home aimed]
    have far := distance_ne_zero away
    exact decide_eq_false (by omega)
  refine ⟨enterWaiting_serves_of_on moves on, ?_⟩
  have move := enterWaiting_move moves
  rw [granted_of_target jog home aimed] at move
  exact move

end

/-! ### A HOME handed over (R115) -/

/-- A channel as a HOME is handed to it: the referenced flag clear, a fault cause standing. -/
def Motion.homing (m : Motion) : Motion := { m with
  referenced := false
  standing := match m.phase with
    | .faulted cause => some cause
    | .idle | .waiting | .driving | .coasting => m.standing }

/-- The part as a HOME is handed over, Plug Relief judged for CONCAVE. -/
def Part.homing (s : Part) (x : PosChannel) : Part :=
  let u : Part := s.modMotion x.channel Motion.homing
  if x.channel = .concave then u.judgeRelief else u

/-- A HOME of a requester as it is handed over. -/
def Part.newHome (s : Part) (x : PosChannel) (r : Requester) (tag : Option Byte) : Move :=
  { Move.blank (.request r) .home .whole tag with
    direction := some (s.cal.pos.get x).homeDirection
    base := (s.cal.pos.get x).homeTravel
    remaining := (s.cal.pos.get x).homeTravel }

section

variable (s : Part) (x : PosChannel)

theorem handHome_eq (r : Requester) (tag : Option Byte) :
    s.handHome x r tag = (s.homing x).hand x.channel (s.newHome x r tag) := rfl

theorem motionOf_homing : (s.homing x).motionOf x.channel = (s.motionOf x.channel).homing := by
  unfold Part.homing
  dsimp only
  split
  · rw [motionOf_of_motion (motion_judgeRelief _), motionOf_modMotion_self]
  · rw [motionOf_modMotion_self]

theorem entryOf_homing (c : Channel) : (s.homing x).entryOf c = s.entryOf c := by
  unfold Part.homing
  dsimp only
  split
  · exact entryOf_judgeRelief _ c
  · rfl

theorem slots_judgeRelief : s.judgeRelief.slots = s.slots := by
  have disarms (s : Part) : s.disarm.slots = s.slots := by
    unfold Part.disarm
    extract_lets before wasOpen t
    split
    · simp [t]
    · rfl
  unfold Part.judgeRelief
  split
  · split
    · rfl
    · exact disarms s
  · split
    · simp
    · rfl

theorem slots_homing : (s.homing x).slots = s.slots := by
  unfold Part.homing
  dsimp only
  split
  · exact slots_judgeRelief _
  · rfl

end

section

variable {s : Part} {x : PosChannel} {r : Requester} {tag : Option Byte}

/-- A HOME in flight from a channel that stood, with counts to go: driven where a slot is free, waiting where none is. -/
theorem handHome_flies (commands : r.commands) (still : (s.motionOf x.channel).phase ≠ .coasting)
    (travel : 0 < (s.store.activeCal.figures.pos.get x).homeTravel) : let t := s.handHome x r tag
    Drives (s.homing x) t ∧ t.drivesOrWaits x.channel s.slots.length
    ∧ (t.motionOf x.channel).body = ((s.homing x).motionOf x.channel).body
    ∧ (t.motionOf x.channel).phase ∈ [.waiting, .driving, .coasting]
    ∧ ∃ (i : Nat) (g : Bool) (e : DriveEnd) (n : Nat), (t.motionOf x.channel).move =
        some { s.newHome x r tag with stintCount := i, granted := g, driveEnd := e, driveTime := n } := by
  have counts : (s.newHome x r tag).base ≠ 0 := Nat.pos_iff_ne_zero.1 travel
  have stands : ((s.homing x).motionOf x.channel).phase ≠ .coasting := by
    rw [motionOf_homing]
    exact still
  have on : (s.homing x).goesOff x.channel (s.newHome x r tag) = false := by
    rw [goesOff_of_home rfl]
    exact decide_eq_false counts
  obtain ⟨drives, body, full, room, moving, move⟩ := hand_in_flight (s := s.homing x) (mv := s.newHome x r tag) (.inl commands.rank)
    stands fun _ _ => counts
  rw [slots_homing] at full room move
  rw [on] at room
  dsimp only
  rw [handHome_eq]
  refine ⟨drives, ⟨room, full⟩, body, moving, ?_⟩
  rcases move with ⟨-, waits⟩ | ⟨-, e, n, runs⟩
  · exact ⟨_, _, _, _, waits⟩
  · rw [granted_of_home rfl] at runs
    exact ⟨_, _, e, n, runs⟩

/-- A SET on an unreferenced channel stays listed behind a HOME of its requester (R73). -/
theorem homeFirst_flies {e : Entry} (commands : e.requester.commands) (still : (s.motionOf x.channel).phase ≠ .coasting)
    (travel : 0 < (s.store.activeCal.figures.pos.get x).homeTravel) :
    s.homeFirst x e = (s.discardEntries x.channel .superseded fun y => !y.requester.same e.requester).handHome x e.requester none := by
  let u : Part := s.discardEntries x.channel .superseded fun y => !y.requester.same e.requester
  obtain ⟨motion, -, -, -, -, -, -, store, -, -⟩ := (notes_discardEntries s x.channel .superseded fun y => !y.requester.same e.requester).keeps
  obtain ⟨-, -, -, -, i, g, d, n, moves⟩ := handHome_flies (s := u) (x := x) (tag := none) commands
    (by rw [motionOf_of_motion motion]; exact still) (by rw [store]; exact travel)
  unfold Part.homeFirst
  refine if_neg ?_
  rw [moves]
  exact Bool.noConfusion

end

/-! ### An abort from DRIVING (R137) -/

section

variable {s : Part} {c : Channel} {mv : Move}

/-- A driven move aborted: the channel coasts under no move, its slot is released, the outcome is the last one. -/
theorem abort_driving (moves : (s.motionOf c).move = some mv) (driving : (s.motionOf c).phase = .driving) (o : OutcomeCode) :
    let t := s.abort c o
    (t.motionOf c).phase = .coasting ∧ (t.motionOf c).move = none
    ∧ (t.motionOf c).coastEndsAt = some (s.now + s.coastTime c * 1000) ∧ (∀ y ∈ t.slots, y.channel ≠ c)
    ∧ t.entryOf c = { s.entryOf c with last := some ⟨o, mv.owner, s.window.number⟩ } := by
  let u : Part := (s.driveOff c .workLeft).modMotion c fun m => { m with move := none, coastShifts := mv.bearing }
  have aborts : s.abort c o = (u.regrant.stopJogTimerOf c mv).recordOutcome c o mv.owner mv.tag := by
    unfold Part.abort
    rewrite [moves, driving]
    rfl
  have drives : Drives s u.regrant := (((Drives.refl s).driveOff c .workLeft).modMotion c _).regrant
  have motion : u.regrant.motionOf c = u.motionOf c := regrant_of_not_waiting (by
    rw [motionOf_modMotion_self, motionOf_driveOff, if_pos rfl]
    exact Phase.noConfusion)
  obtain ⟨bus, -, records⟩ := recordOutcome_eq (u.regrant.stopJogTimerOf c mv) c o mv.owner mv.tag
  rw [stopJogTimerOf_eq] at records
  have rests : (s.abort c o).motionOf c = u.motionOf c := by
    rw [aborts, stopJogTimerOf_eq, records]
    exact motion
  have slots : (s.abort c o).slots = u.regrant.slots := by
    rw [aborts, stopJogTimerOf_eq, records]
    rfl
  have free : ∀ y ∈ u.regrant.slots, y.channel ≠ c := by
    refine slots_regrantUpTo 6 c (s := u) ?_ fun y mem => of_decide_eq_true (List.mem_filter.1 mem).2
    rw [motionOf_modMotion_self, motionOf_driveOff, if_pos rfl]
    exact Phase.noConfusion
  dsimp only
  rw [rests, slots, motionOf_modMotion_self, motionOf_driveOff, if_pos rfl]
  refine ⟨rfl, rfl, rfl, free, ?_⟩
  rw [aborts, entryOf_recordOutcome, entryOf_stopJogTimerOf, number_stopJogTimerOf, entryOf_drives drives,
    (drives.framed c).number]

end

/-! ### The end of a coast under no move (R107) -/

/-- The coast timer's expiry on a channel without a move, the coast over. -/
def Part.rested (s : Part) (c : Channel) : Part :=
  s.modMotion c fun m => { m with coastEndsAt := none, phase := .idle, coastShifts := false }

theorem modMotion_modMotion (s : Part) (c : Channel) (f g : Motion → Motion) :
    (s.modMotion c f).modMotion c g = s.modMotion c (g ∘ f) := by
  unfold Part.modMotion
  simp only [PerChannel.get_set_self, Function.comp_apply]
  cases c <;> rfl

theorem coastEnds_of_none {s : Part} {x : PosChannel} (apart : (s.motionOf x.channel).move = none)
    (calm : (s.motionOf x.channel).standing = none) : s.coastEnds x = s.rested x.channel := by
  let u : Part := s.modMotion x.channel fun m => { m with coastEndsAt := none }
  have moves : (u.motionOf x.channel).move = none := by
    rw [motionOf_modMotion_self]
    exact apart
  have stands : (u.motionOf x.channel).standing = none := by
    rw [motionOf_modMotion_self]
    exact calm
  have ends : s.coastEnds x = u.comeToRest x.channel none := by
    unfold Part.coastEnds
    dsimp only
    rewrite [show ((s.modMotion x.channel fun m => { m with coastEndsAt := none }).motionOf x.channel).move = none from moves]
    rfl
  have rests : u.comeToRest x.channel none = s.rested x.channel := by
    have still : ((s.rested x.channel).motionOf x.channel).move = none := by
      unfold Part.rested
      rw [motionOf_modMotion_self]
      exact apart
    have same : u.modMotion x.channel (fun m => { m with phase := .idle, coastShifts := false }) = s.rested x.channel :=
      modMotion_modMotion s x.channel _ _
    unfold Part.comeToRest
    rewrite [stands, same]
    unfold Part.endMove
    rewrite [still]
    rfl
  rw [ends, rests]

end Sys2Proof.Machine
end

section
/-! PROOFS. A SET placed (R57, R58, R66, R69, R70, R85, R94): its answer, its commitment on a positional channel, its retarget in place
and its listing behind the move that it ends. -/

namespace Sys2Proof.Machine

/-! ### A SET answered (R66) -/

/-- The target of a SET, clamped. -/
def Part.setTarget (p : Part) (f : SettingFields) (c : Channel) : Int := p.clampToEnvelope c f.value.toInt

/-- The part as an accepted SET finds it when it is placed. -/
def Part.setAdmitted (p : Part) (dt : Nat) (source : Byte) (f : SettingFields) (c : Channel) : Part :=
  p.admitted dt source f (if p.setTarget f c = f.value.toInt then .accepted else .acceptedClamped)
    (if p.setTarget f c = f.value.toInt then f.value else BitVec.ofInt 16 (p.setTarget f c)) c

/-- The entry that a SET is listed or taken as. -/
def Part.setAsked (p : Part) (source : Byte) (f : SettingFields) (c : Channel) : Entry :=
  p.asked source f (.set (some (p.setTarget f c)))

section

variable {p : Part} {h : FrameHeader} {source : Byte} {f : SettingFields} {c : Channel}

/-- A SET that passes its checks and is not outranked, answered and placed. -/
theorem exec_set_placed (asks : p.asks h source f c) (q : List Instr) (dt : Nat)
    (sound : ∀ cause, (p.motionOf c).phase ≠ .faulted cause) (admitted : p.outranks c (senderOf source) = false) :
    exec (.set dt h f) ⟨p, q⟩ = .next ⟨((p.setAdmitted dt source f c).place c (p.setAsked source f c)).1, q⟩ := by
  refine (exec_settingCommand_of_asks (k := .set) asks q dt (.inr (refusalOf_set sound _))).trans ?_
  unfold Part.placeSetting Part.placeSet
  dsimp only
  have answers : (p.later dt).replyAccepted (settingAsked source f) f.value (BitVec.ofInt 16 (p.setTarget f c))
        (p.setTarget f c ≠ f.value.toInt) = (p.later dt).answered source 0x01 f.tag
      (if p.setTarget f c = f.value.toInt then .accepted else .acceptedClamped) f.channel
      (if p.setTarget f c = f.value.toInt then f.value else BitVec.ofInt 16 (p.setTarget f c)) := by
    unfold Part.replyAccepted
    by_cases exact' : p.setTarget f c = f.value.toInt
    · simp [exact', reply_setting]
    · simp [exact', reply_setting]
  rewrite [placeRequest_accepted (s := p.later dt) (senderOf_commands source) admitted _ _ _ _ answers]
  rfl

theorem framed_setAdmitted (p : Part) (dt : Nat) (source : Byte) (f : SettingFields) (c : Channel) :
    Framed c (p.later dt) (p.setAdmitted dt source f c) := framed_admitted p dt source f _ _ c

theorem entryOf_setAdmitted (p : Part) (dt : Nat) (source : Byte) (f : SettingFields) (c : Channel) :
    (p.setAdmitted dt source f c).entryOf c =
      { p.entryOf c with hold := (p.later dt).holdAfter c (senderOf source).holder } := entryOf_admitted p dt source f _ _ c

/-- The answer to a SET stays queued. -/
theorem set_answer_stays {dt : Nat} {t : Part} (quiet : Quiet (p.setAdmitted dt source f c) t) (room : p.bus.queue.length < 24) :
    p.replyFrame source 0x01 f.tag (if p.setTarget f c = f.value.toInt then .accepted else .acceptedClamped) f.channel
      (if p.setTarget f c = f.value.toInt then f.value else BitVec.ofInt 16 (p.setTarget f c)) ∈ t.bus.queue :=
  quiet.queue.1 _ (reply_mem (p.later dt) source 0x01 f.tag _ f.channel _ room) rfl

theorem setTarget_within (ordered : p.store.activePreset.envelopesOrdered) :
    p.clampToEnvelope c (p.setTarget f c) = p.setTarget f c := clamp_of_range (clamp_range (ordered c) _)

end

/-! ### The commitment on a positional channel (R58, R85, R94) -/

section

variable {s : Part} {x : PosChannel} {c : Channel} {e : Entry} {v : Int} {r : Requester}

theorem commit_positional (commands : r.commands) (x : PosChannel) (v : Int) (origin : Origin) : let t := s.commit x.channel v r origin
    t.override = s.override ∧ t.settle = (if x = .louver then s.settle else max s.settle s.store.activePreset.settleCount)
    ∧ t.louverTrim = (if x = .louver then 0 else s.louverTrim) := by
  rcases commands with rfl | rfl <;> cases x <;> exact ⟨rfl, rfl, rfl⟩

theorem takeEntry_set (commands : e.requester.commands) (set : e.kind = .set (some v)) : s.takeEntry c e =
    let u := s.commit c v e.requester (e.requester.origin e.preset)
    u.handSet c (.request e.requester) .set .whole (u.driveTarget c) e.tag := by
  have whole : setScheduling c e.requester = .whole := by
    unfold setScheduling
    rcases commands with is | is <;> rw [is] <;> cases c.kind <;> rfl
  have commits : s.commitEntry c e = s.commit c v e.requester (e.requester.origin e.preset) := by
    unfold Part.commitEntry
    rw [set]
    exact if_pos commands.commits
  unfold Part.takeEntry
  rewrite [set, commits, whole]
  rfl

theorem driveTarget_positional (s : Part) (x : PosChannel) : s.driveTarget x.channel = (s.entryOf x.channel).setpoint := by
  unfold Part.driveTarget
  rw [kind_channel]

/-- A SET of a target in counts as it is handed over. -/
def Part.newSet (s : Part) (x : PosChannel) (r : Requester) (counts : Int) (tag : Option Byte) : Move :=
  (Move.blank (.request r) .set .whole tag).aim (s.motionOf x.channel).position counts

theorem handSet_positional (s : Part) (x : PosChannel) (r : Requester) (target : Int) (tag : Option Byte) :
    s.handSet x.channel (.request r) .set .whole target tag = s.hand x.channel (s.newSet x r (s.countsOf x target) tag) := by
  cases x <;> rfl

/-- What a SET in flight toward its counts is. -/
structure Move.toward (mv : Move) (r : Requester) (counts position : Int) (tag : Option Byte) : Prop where
  kind : mv.kind = .set
  target : mv.target = some counts
  tag : mv.tag = tag
  owner : mv.owner = .request r
  base : mv.base = distance counts position
  remaining : mv.remaining = distance counts position
  direction : mv.direction = some (if position < counts then .up else .down)

theorem direction_toward {a b : Int} (ne : b ≠ a) (d : Option Direction) :
    (if a < b then some Direction.up else if b < a then some .down else d) = some (if a < b then .up else .down) := by
  by_cases up : a < b
  · rw [if_pos up, if_pos up]
  · rw [if_neg up, if_neg up, if_pos (by omega)]

/-- A SET with counts to go, of a channel at rest, in flight: driven where a slot is free, waiting where none is. -/
theorem newSet_flies (commands : r.commands) (still : (s.motionOf x.channel).phase ≠ .coasting) {counts : Int}
    (away : counts ≠ (s.motionOf x.channel).position) (tag : Option Byte) : let t := s.hand x.channel (s.newSet x r counts tag)
    Drives s t ∧ t.drivesOrWaits x.channel s.slots.length ∧ (t.motionOf x.channel).position = (s.motionOf x.channel).position
    ∧ (t.motionOf x.channel).phase ∈ [.waiting, .driving, .coasting]
    ∧ ∃ mv, (t.motionOf x.channel).move = some mv ∧ mv.toward r counts (s.motionOf x.channel).position tag := by
  let mv : Move := s.newSet x r counts tag
  have base : mv.base ≠ 0 := distance_ne_zero away
  have hands : s.hand x.channel mv = (s.holding x.channel mv).enterWaiting x.channel :=
    hand_waits (.inl commands.rank) still fun _ _ => base
  have position := holding_position s x.channel mv
  obtain ⟨serves, move⟩ := enterWaiting_aimed (s := s.holding x.channel mv) (t := counts) (holding_move s x.channel mv)
    MoveKind.noConfusion MoveKind.noConfusion rfl base (by rw [position]; exact away)
  obtain ⟨drives, body, -, -, moving, -⟩ := hand_in_flight (s := s) (mv := mv) (.inl commands.rank) still fun _ _ => base
  rw [← hands] at serves move
  have aims : mv.toward r counts (s.motionOf x.channel).position tag :=
    ⟨rfl, rfl, rfl, rfl, rfl, rfl, direction_toward away none⟩
  refine ⟨drives, serves, (Motion.body_eq_iff.1 body).2.2.1, moving, ?_⟩
  rcases move with ⟨-, waits⟩ | ⟨-, d, n, runs⟩
  · exact ⟨mv, waits, aims⟩
  · refine ⟨_, runs, rfl, rfl, rfl, rfl, rfl, ?_, ?_⟩
    · show min mv.base (distance counts _) = _
      rw [position, show mv.base = distance counts _ from rfl, min_self]
    · rw [position]
      exact direction_toward away mv.direction

/-- A SET taken on a positional channel, away from its position. -/
theorem takeEntry_set_flies (commands : e.requester.commands) (set : e.kind = .set (some v))
    (still : (s.motionOf x.channel).phase ≠ .coasting)
    (away : s.countsOf x (s.clampToEnvelope x.channel v) ≠ (s.motionOf x.channel).position) : let t := s.takeEntry x.channel e
    Drives (s.commit x.channel v e.requester (e.requester.origin e.preset)) t ∧ t.drivesOrWaits x.channel s.slots.length
    ∧ (t.motionOf x.channel).position = (s.motionOf x.channel).position
    ∧ (t.motionOf x.channel).phase ∈ [.waiting, .driving, .coasting]
    ∧ ∃ mv, (t.motionOf x.channel).move = some mv ∧ mv.toward e.requester (s.countsOf x (s.clampToEnvelope x.channel v))
        (s.motionOf x.channel).position e.tag := by
  let u : Part := s.commit x.channel v e.requester (e.requester.origin e.preset)
  obtain ⟨motion, slots, -, -⟩ := commit_keeps s x.channel v e.requester (e.requester.origin e.preset)
  have same : u.motionOf x.channel = s.motionOf x.channel := motionOf_of_motion motion _
  have store : u.store = s.store := ((Local.refl (P := AnyOwner) s).commit v e.requester _ trivial).framed.store
  have entry : (u.entryOf x.channel).setpoint = s.clampToEnvelope x.channel v := by rw [entryOf_commit]
  have takes : s.takeEntry x.channel e =
      u.hand x.channel (u.newSet x e.requester (s.countsOf x (s.clampToEnvelope x.channel v)) e.tag) := by
    rw [takeEntry_set commands set]
    dsimp only
    rw [handSet_positional, driveTarget_positional, entry, countsOf_of_store store]
  obtain ⟨drives, serves, position, moving, move⟩ := newSet_flies (s := u) (x := x) commands (by rw [same]; exact still)
    (by rw [same]; exact away) e.tag
  rw [slots] at serves
  rw [same] at position move
  dsimp only
  rw [takes]
  exact ⟨drives, serves, position, moving, move⟩

end

end Sys2Proof.Machine
end

section
/-! PROOFS. The arrival rule on a channel with a move in flight (R69, R70), and the take rule at the end of a coast (R72, R73, R107). -/

namespace Sys2Proof.Machine

section

variable {s : Part} {c : Channel} {e : Entry} {mv : Move}

theorem place_framed (s : Part) (c : Channel) (e : Entry) : Framed c s (s.place c e).1 :=
  (Local.place (.refl s) (listFits_any s c) ⟨trivial, .inl trivial⟩).framed

/-! ### A move in flight ended by an arrival (R69) -/

/-- A driven move that an arrival ends: the channel coasts under no move, and the arrival is listed. -/
theorem abort_lists (moves : (s.motionOf c).move = some mv) (driving : (s.motionOf c).phase = .driving)
    (empty : (s.entryOf c).requests = []) (o : OutcomeCode) (e : Entry) : let t := ((s.abort c o).listEntry c e).take c
    (t.motionOf c).phase = .coasting ∧ (t.motionOf c).move = none
    ∧ (t.motionOf c).coastEndsAt = some (s.now + s.coastTime c * 1000) ∧ (∀ y ∈ t.slots, y.channel ≠ c)
    ∧ (t.entryOf c).requests = [e] ∧ (t.entryOf c).setpoint = (s.entryOf c).setpoint
    ∧ (t.entryOf c).last = some ⟨o, mv.owner, s.window.number⟩ := by
  obtain ⟨coasts, gone, expiry, free, entry⟩ := abort_driving moves driving o
  have list : (s.abort c o).listEntry c e = (s.abort c o).listedAlone c e := listEntry_of_nil (by rw [entry]; exact empty) e
  have motion : ((s.abort c o).listedAlone c e).motionOf c = (s.abort c o).motionOf c := rfl
  have waits : ((s.abort c o).listedAlone c e).take c = (s.abort c o).listedAlone c e := take_of_moving (by
    rw [motion, coasts]
    simp)
  dsimp only
  rw [list, waits, motion, entryOf_listedAlone, entry]
  exact ⟨coasts, gone, expiry, free, rfl, rfl, rfl⟩

theorem place_supersedes (moves : (s.motionOf c).move = some mv) (open' : s.blocked c = false)
    (lower : mv.owner.rank < e.requester.rank) : (s.place c e).1 = ((s.abort c .superseded).listEntry c e).take c := by
  unfold Part.place
  rewrite [moves]
  dsimp only
  rw [if_neg (by rw [open']; decide), if_neg (Nat.lt_asymm lower), if_pos lower]

theorem place_replaces (moves : (s.motionOf c).move = some mv) (open' : s.blocked c = false)
    (own : mv.owner = .request e.requester) (kept : s.isRetargeted c mv e = false) :
    (s.place c e).1 = ((s.abort c .replaced).listEntry c e).take c := by
  have equal : mv.owner.rank = e.requester.rank := by rw [own]; rfl
  unfold Part.place
  rewrite [moves]
  dsimp only
  rw [if_neg (by rw [open']; decide), if_neg (by omega), if_neg (by omega), if_neg (by rw [kept]; decide)]

theorem place_retargets (moves : (s.motionOf c).move = some mv) (open' : s.blocked c = false)
    (own : mv.owner = .request e.requester) (ahead : s.isRetargeted c mv e = true) : (s.place c e).1 = s.retarget c e := by
  have equal : mv.owner.rank = e.requester.rank := by rw [own]; rfl
  unfold Part.place
  rewrite [moves]
  dsimp only
  rw [if_neg (by rw [open']; decide), if_neg (by omega), if_neg (by omega), if_pos ahead]

theorem admits_of_rank (moves : (s.motionOf c).move = some mv) {r : Requester} (rank : mv.owner.rank ≤ r.rank) :
    s.outranks c r = false := by
  rw [outranks_eq_false_iff]
  intro _ mv' moves'
  obtain rfl : mv = mv' := Option.some.inj (moves.symm.trans moves')
  exact rank

/-! ### The retarget in place (R70) -/

theorem aheadOf_iff {d : Option Direction} {present value : Int} :
    aheadOf d present value = true ↔ ∃ way, d = some way ∧ 0 < way.sign * (value - present) := by
  unfold aheadOf
  cases d <;> simp

theorem isRetargeted_positional {x : PosChannel} {v : Int} (set : e.kind = .set (some v)) : s.isRetargeted x.channel mv e = true ↔
    mv.kind = .set ∧ mv.owner = .request e.requester
      ∧ aheadOf mv.direction (s.motionOf x.channel).position (s.countsOf x v) = true := by
  unfold Part.isRetargeted Part.arrivalTarget Part.retargets
  rw [set, kind_channel]
  simp [and_assoc]

theorem commitEntry_set {v : Int} (commands : e.requester.commands) (set : e.kind = .set (some v)) :
    s.commitEntry c e = s.commit c v e.requester (e.requester.origin e.preset) := by
  unfold Part.commitEntry
  rewrite [set]
  exact if_pos commands.commits

/-- A SET retargeted in place on a positional channel. -/
theorem retarget_positional {x : PosChannel} {v : Int} (commands : e.requester.commands) (set : e.kind = .set (some v))
    (moves : (s.motionOf x.channel).move = some mv) : let t := s.retarget x.channel e
    let counts := s.countsOf x (s.clampToEnvelope x.channel v)
    t.motion = s.motion.set x.channel { s.motionOf x.channel with move := some { mv with
      target := some counts, tag := e.tag, base := distance counts (s.motionOf x.channel).position
      remaining := distance counts (s.motionOf x.channel).position, corrected := false } }
    ∧ t.slots = s.slots
    ∧ t.entryOf x.channel = { s.entryOf x.channel with
        setpoint := s.clampToEnvelope x.channel v, origin := e.requester.origin e.preset } := by
  let u : Part := s.commit x.channel v e.requester (e.requester.origin e.preset)
  obtain ⟨motion, slots, -, -⟩ := commit_keeps s x.channel v e.requester (e.requester.origin e.preset)
  have entry : u.entryOf x.channel = { s.entryOf x.channel with
      setpoint := s.clampToEnvelope x.channel v, origin := e.requester.origin e.preset } := entryOf_commit ..
  have store : u.store = s.store := ((Local.refl (P := AnyOwner) s).commit v e.requester _ trivial).framed.store
  have target : u.driveTarget x.channel = s.clampToEnvelope x.channel v := by rw [driveTarget_positional, entry]
  have same : u.motionOf x.channel = s.motionOf x.channel := motionOf_of_motion motion _
  have counts : u.countsOf x (s.clampToEnvelope x.channel v) = s.countsOf x (s.clampToEnvelope x.channel v) := countsOf_of_store store x _
  have retargets : s.retarget x.channel e = u.modMotion x.channel fun m => { m with move := m.move.map fun mv => { mv with
      target := some (s.countsOf x (s.clampToEnvelope x.channel v)), tag := e.tag
      base := distance (s.countsOf x (s.clampToEnvelope x.channel v)) m.position
      remaining := distance (s.countsOf x (s.clampToEnvelope x.channel v)) m.position, corrected := false } } := by
    unfold Part.retarget
    dsimp only
    rw [commitEntry_set commands set, target, kind_channel]
    dsimp only
    rw [counts]
  dsimp only
  rw [retargets]
  refine ⟨?_, slots, entry⟩
  show u.motion.set x.channel _ = _
  rw [show u.motion.get x.channel = s.motionOf x.channel from same, motion]
  refine congrArg (s.motion.set x.channel) ?_
  dsimp only
  rw [moves]
  rfl

end

/-! ### The coast expiry under no move, and what is then taken (R72, R107) -/

theorem exec_coastTimerExpiry_of_on {p : Part} (on : p.power = .on) {x : PosChannel} {d : Nat}
    (coasts : (p.motionOf x.channel).coastEndsAt = some d) (q : List Instr) (first : Bool) :
    exec (.coastTimerExpiry x first) ⟨p, q⟩ =
      .next ⟨(((p.atTime d).coastEnds x).preemptUnless first x.channel).take x.channel, q⟩ :=
  congrArg (fun t => Host.Outcome.next (State.mk t q)) (Part.onExpiry_of_on on coasts _)

/-- No RELIEF move waits: nothing is preempted (R140). -/
theorem preemptUnless_of_calm {s : Part} {c : Channel} (calm : s.reliefWaits c = false) (first : Bool) : s.preemptUnless first c = s := by
  unfold Part.preemptUnless Part.preempt
  rw [calm]
  simp

theorem reliefWaits_of_none {s : Part} {c : Channel} (still : (s.motionOf c).move = none) : s.reliefWaits c = false := by
  unfold Part.reliefWaits
  rw [still]

section

variable {s : Part} {c : Channel}

theorem motionOf_rested : (s.rested c).motionOf c = { s.motionOf c with coastEndsAt := none, phase := .idle, coastShifts := false } :=
  motionOf_modMotion_self _ _ _

theorem rested_free (still : (s.motionOf c).move = none) (relief : c = .concave → s.override.relief.blocks = false) (k : RequestKind) :
    (s.rested c).freeFor c k = true := by
  have apart : (s.rested c).blocked c = false := by
    unfold Part.blocked
    rewrite [motionOf_rested, still]
    by_cases concave : c = .concave
    · subst concave
      have calm : (s.rested .concave).override.relief.blocks = false := relief rfl
      simp [calm]
    · simp [concave]
  unfold Part.freeFor
  rw [apart, motionOf_rested]
  rfl

theorem rested_local (P : Owner → Prop) (W : Prop) : Local P W c s (s.rested c) := (Local.refl s).modMotion_move _ fun _ => rfl

end

end Sys2Proof.Machine
end

section
/-! PROOFS. O32: a SET on a positional channel, in each of the conditions of the channel, and what is taken at the end of a coast. -/

namespace Sys2Proof.Machine

section

variable {s : Part} {c : Channel} {e : Entry} {v : Int}

/-- A SET taken commits its target; what it leaves of its entry. -/
theorem entryOf_takeEntry_set (commands : e.requester.commands) (set : e.kind = .set (some v)) : ∃ last,
    (s.takeEntry c e).entryOf c = { s.entryOf c with
      setpoint := s.clampToEnvelope c v, origin := e.requester.origin e.preset, last := last } := by
  let u : Part := s.commit c v e.requester (e.requester.origin e.preset)
  obtain ⟨last, entry⟩ := entryOf_handSet u c (.request e.requester) (kind := .set) (by decide) .whole (u.driveTarget c) e.tag
  refine ⟨last, ?_⟩
  rw [takeEntry_set commands set]
  dsimp only
  rw [entry, entryOf_commit]

theorem filter_same_self {e : Entry} {others : List Entry} (lower : ∀ y ∈ others, y.requester.rank < e.requester.rank) :
    (e :: others).filter (fun y => !!y.requester.same e.requester) = [e]
    ∧ (e :: others).filter (fun y => !y.requester.same e.requester) = others := by
  have apart (y : Entry) (mem : y ∈ others) : y.requester.same e.requester = false :=
    decide_eq_false (Nat.ne_of_lt (lower y mem))
  have none : others.filter (fun y => !!y.requester.same e.requester) = [] := by
    rw [List.filter_eq_nil_iff]
    intro y mem
    simp [apart y mem]
  have all : others.filter (fun y => !y.requester.same e.requester) = others := by
    rw [List.filter_eq_self]
    intro y mem
    simp [apart y mem]
  rw [List.filter_cons, List.filter_cons, none, all]
  simp [e.requester.same_self]

/-- The list of a SET that waits behind its HOME: the SET alone, the others SUPERSEDED. -/
theorem homeFirst_takes {x : PosChannel} {others : List Entry} (commands : e.requester.commands)
    (still : (s.motionOf x.channel).phase ≠ .coasting) (travel : 0 < (s.store.activeCal.figures.pos.get x).homeTravel)
    (list : (s.entryOf x.channel).requests = e :: others) (lower : ∀ y ∈ others, y.requester.rank < e.requester.rank) :
    let t := s.homeFirst x e
    (t.motionOf x.channel).phase ∈ [.waiting, .driving, .coasting]
    ∧ t.entryOf x.channel = { s.entryOf x.channel with
        requests := [e], last := lastOf .superseded s.window.number (s.entryOf x.channel).last others }
    ∧ (∃ mv, (t.motionOf x.channel).move = some mv ∧ mv.kind = .home ∧ mv.owner = .request e.requester ∧ mv.tag = none)
    ∧ t.drivesOrWaits x.channel s.slots.length := by
  let u : Part := s.discardEntries x.channel .superseded fun y => !y.requester.same e.requester
  obtain ⟨motion, slots, -, -, -, -, -, store, -, -⟩ :=
    (notes_discardEntries s x.channel .superseded fun y => !y.requester.same e.requester).keeps
  obtain ⟨drives, serves, -, moving, i, g, d, n, moves⟩ := handHome_flies (s := u) (x := x) (tag := none) commands
    (by rw [motionOf_of_motion motion]; exact still) (by rw [store]; exact travel)
  obtain ⟨kept, gone⟩ := filter_same_self lower
  dsimp only
  rw [homeFirst_flies commands still travel]
  refine ⟨moving, ?_, ⟨_, moves, rfl, rfl, rfl⟩, by rw [← slots]; exact serves⟩
  rw [entryOf_drives drives, entryOf_homing, entryOf_discardEntries, list, kept, gone]

end

end Sys2Proof.Machine

open Sys2Proof Sys2Proof.Machine

/-- Settles O32: the SET of a channel that stands free, the other conditions of the channel one by one, and the take at a coast's end. -/
theorem aSetOnAFreePositionalChannelIsTaken : Obligations.ASetOnAFreePositionalChannelIsTaken := by
  refine ⟨fun p q dt h source f x sends received runs named free referenced ordered => ?free,
    fun p q dt h source f x sends received runs named sound => ?other, fun p q x first d e others => ?coast⟩
  case free =>
    have asks : p.asks h source f x.channel := ⟨sends, received, runs, named⟩
    let u : Part := p.setAdmitted dt source f x.channel
    let e : Entry := p.setAsked source f x.channel
    have commands : e.requester.commands := senderOf_commands source
    have entryU : u.entryOf x.channel = { p.entryOf x.channel with
      hold := (p.later dt).holdAfter x.channel (senderOf source).holder } := entryOf_setAdmitted p dt source f x.channel
    dsimp only
    intro away
    have within : u.clampToEnvelope x.channel (p.setTarget f x.channel) = p.setTarget f x.channel := setTarget_within ordered
    have goes := exec_set_placed asks q dt (standsFree_sound free) (standsFree_admits free _)
    have takes : (u.place x.channel e).1 = u.takeEntry x.channel e :=
      place_admitted free runs commands (readyFor_positional (.inl referenced))
    have frame : Framed x.channel (p.later dt) (u.place x.channel e).1 := (framed_setAdmitted ..).trans (place_framed u _ e)
    have quiet : Quiet u (u.place x.channel e).1 := Quiet.place .refl x.channel e
    have stands : (u.motionOf x.channel).phase ≠ .coasting := fun coasts => Phase.noConfusion (free.1.symm.trans coasts)
    have far : u.countsOf x (u.clampToEnvelope x.channel (p.setTarget f x.channel)) ≠ (u.motionOf x.channel).position := by
      rw [within]
      exact away
    obtain ⟨drives, serves, position, -, mv, moves, aims⟩ := takeEntry_set_flies (s := u) (e := e) commands rfl stands far
    obtain ⟨override, settle, louverTrim⟩ := commit_positional (s := u) commands x (p.setTarget f x.channel) (e.requester.origin e.preset)
    have entry : ((u.takeEntry x.channel e).entryOf x.channel) = { p.entryOf x.channel with
        setpoint := p.setTarget f x.channel, origin := (senderOf source).origin false
        hold := (p.later dt).holdAfter x.channel (senderOf source).holder } := by
      rw [entryOf_drives drives, entryOf_commit, entryU, within]
      rfl
    rw [within] at aims
    rw [takes] at goes frame quiet
    obtain ⟨motion', slots', rank', shifted', same⟩ := drives
    refine ⟨_, mv, goes, frame.now, fun room => set_answer_stays quiet room, ?_⟩
    rw [entry, ← holder_senderOf source, ← origin_senderOf source]
    refine ⟨rfl, rfl, rfl, free.2.2.2, moves, aims.kind, aims.target, aims.tag, aims.owner, aims.base, aims.remaining, aims.direction,
      serves.1, serves.2, position, ?_, ?_, ?_, frame.entries, frame.store, frame.capture, frame.lines, frame.power.trans received.1,
      frame.shutdown.trans runs, frame.service, frame.number, frame.history⟩
    · rw [same]; exact settle
    · rw [same]; exact louverTrim
    · rw [same]; exact override
  case other =>
    have asks : p.asks h source f x.channel := ⟨sends, received, runs, named⟩
    let u : Part := p.setAdmitted dt source f x.channel
    let e : Entry := p.setAsked source f x.channel
    have commands : e.requester.commands := senderOf_commands source
    have entryU : u.entryOf x.channel = { p.entryOf x.channel with
      hold := (p.later dt).holdAfter x.channel (senderOf source).holder } := entryOf_setAdmitted p dt source f x.channel
    have setpointU : (u.entryOf x.channel).setpoint = (p.entryOf x.channel).setpoint := by rw [entryU]
    have requestsU : (u.entryOf x.channel).requests = (p.entryOf x.channel).requests := by rw [entryU]
    have frame : Framed x.channel (p.later dt) (u.place x.channel e).1 := (framed_setAdmitted ..).trans (place_framed u _ e)
    have leads {holds : Part → Prop} (admits : p.outranks x.channel (senderOf source) = false) (meets : holds (u.place x.channel e).1) :
        ∃ t : Part, exec (.set dt h f) ⟨p, q⟩ = .next ⟨t, q⟩ ∧ t.now = p.now + dt ∧ (∀ c, c ≠ x.channel → t.entryOf c = p.entryOf c)
          ∧ t.store = p.store ∧ t.capture = p.capture ∧ t.lines = p.lines ∧ holds t :=
      ⟨_, exec_set_placed asks q dt sound admits, frame.now, frame.entries, frame.store, frame.capture, frame.lines, meets⟩
    dsimp only
    refine ⟨fun blocked empty => leads (blocked_admits blocked _) ?_, fun free lost travel => leads (standsFree_admits free _) ?_,
      fun mv moves open' => ⟨fun driving empty => ⟨fun lower => leads (admits_of_rank moves (Nat.le_of_lt lower)) ?_,
        fun own kept => leads (admits_of_rank moves (by rw [own]; rfl)) ?_⟩,
        fun way set own direction ahead ordered => leads (admits_of_rank moves (by rw [own]; rfl)) ?_⟩⟩
    · rw [show (u.place x.channel e).1 = u.listedAlone x.channel e from place_admitted_blocked blocked empty e]
      refine ⟨rfl, rfl, listedAlone_requests u _ e, ?_⟩
      rw [entryOf_listedAlone, entryU]
    · have stands : (u.motionOf x.channel).phase ≠ .coasting := fun coasts => Phase.noConfusion (free.1.symm.trans coasts)
      have list : ((u.listedAlone x.channel e).entryOf x.channel).requests = [e] := listedAlone_requests u _ e
      have places : (u.place x.channel e).1 = (u.listedAlone x.channel e).homeFirst x e :=
        (place_of_free (s := u) runs free.2.1 (admitted_free free _) (requestsU.trans free.2.2.2)).trans
          (takeHead_homes (commands.fresh _) rfl rfl lost)
      obtain ⟨-, entry, home, serves⟩ := homeFirst_takes (s := u.listedAlone x.channel e) (others := []) commands stands travel list
        (fun _ mem => absurd mem List.not_mem_nil)
      rw [places, entry, entryOf_listedAlone]
      exact ⟨rfl, setpointU, home, serves⟩
    · obtain ⟨coasts, gone, expiry, free, list, setpoint, last⟩ :=
        abort_lists (s := u) moves driving (requestsU.trans empty) .superseded e
      rw [place_supersedes (s := u) (e := e) moves open' lower]
      exact ⟨coasts, gone, expiry, free, list, setpoint.trans setpointU, last⟩
    · obtain ⟨coasts, gone, expiry, free, list, setpoint, last⟩ :=
        abort_lists (s := u) moves driving (requestsU.trans empty) .replaced e
      have stays : u.isRetargeted x.channel mv e = false := by
        rw [← Bool.not_eq_true, isRetargeted_positional (s := u) (e := e) rfl, aheadOf_iff]
        rintro ⟨set, -, way, direction, ahead⟩
        exact absurd ahead (Int.not_lt.2 (kept set way direction))
      rw [place_replaces (s := u) (e := e) moves open' own stays]
      exact ⟨coasts, gone, expiry, free, list, setpoint.trans setpointU, last⟩
    · have within : u.clampToEnvelope x.channel (p.setTarget f x.channel) = p.setTarget f x.channel := setTarget_within ordered
      have goes : u.isRetargeted x.channel mv e = true :=
        (isRetargeted_positional (s := u) (e := e) rfl).2 ⟨set, own, aheadOf_iff.2 ⟨way, direction, ahead⟩⟩
      obtain ⟨motion, slots, entry⟩ := retarget_positional (s := u) (e := e) commands rfl moves
      rw [within] at motion entry
      rw [place_retargets (s := u) (e := e) moves open' own goes, entry, ← origin_senderOf source]
      exact ⟨motion, slots, rfl, requestsU, rfl⟩
  case coast =>
    intro c m n on runs coasts still calm relief list superseded dropped
    let u : Part := (p.atTime d).rested x.channel
    have goes : exec (.coastTimerExpiry x first) ⟨p, q⟩ = .next ⟨u.take x.channel, q⟩ := by
      rw [exec_coastTimerExpiry_of_on on coasts, coastEnds_of_none (s := p.atTime d) still calm,
        preemptUnless_of_calm (reliefWaits_of_none (s := u) (by rw [motionOf_rested]; exact still))]
    have frame : Framed x.channel (p.atTime d) (u.take x.channel) :=
      ((rested_local AnyOwner True).framed).trans ((Local.refl u).take (listFits_any u _)).framed
    have takes : u.take x.channel = (u.takeHead x.channel e others).takeUpTo others.length x.channel :=
      take_of_free (s := u) runs (rested_free (s := p.atTime d) still relief _) list
    have ends : lastOf .superseded n (p.entryOf x.channel).last others = superseded := by
      dsimp only [superseded]
      cases final : others.getLast? with
      | none => exact lastOf_of_getLast.2 final
      | some y => exact lastOf_of_getLast.1 y final
    have stands : (u.motionOf x.channel).phase = .idle := by rw [motionOf_rested]
    have apart : (u.motionOf x.channel).phase ≠ .coasting := by rw [stands]; decide
    have drops {o : OutcomeCode} (alone : others = [])
        (head : u.takeHead x.channel e others = (u.modBook x.channel fun b => { b with requests := others }).endEntry x.channel o e) :
        dropped (u.take x.channel) o := by
      subst alone
      rw [takes, head]
      obtain ⟨motion, -⟩ := (notes_endEntry (u.modBook x.channel fun b => { b with requests := [] }) x.channel o e).keeps
      show ((Part.endEntry _ x.channel o e).motionOf x.channel).phase = _ ∧ ((Part.endEntry _ x.channel o e).motionOf x.channel).move = _
        ∧ ((Part.endEntry _ x.channel o e).entryOf x.channel).requests = _ ∧ ((Part.endEntry _ x.channel o e).entryOf x.channel).last = _
        ∧ ((Part.endEntry _ x.channel o e).entryOf x.channel).setpoint = _
      rw [motionOf_of_motion motion, entryOf_endEntry, entryOf_modBook_self]
      refine ⟨stands, ?_, rfl, rfl, rfl⟩
      show (u.motionOf x.channel).move = none
      rw [motionOf_rested]
      exact still
    refine ⟨u.take x.channel, goes, frame.now, frame.entries, frame.store, frame.capture, frame.lines, fun v set requester =>
      ⟨fun referenced ordered => ?taken, fun lost travel lower => ?homes⟩, fun lost alone requester kind => ?aborts,
      fun alone requester aged => ?stale⟩
    case taken =>
      have commands : e.requester.commands := requester
      let w : Part := u.cleared x.channel e others
      have head : u.takeHead x.channel e others = w.takeEntry x.channel e := takeHead_ready (commands.fresh _)
        (readyFor_positional (.inl (by rw [motionOf_rested]; exact referenced)))
      obtain ⟨motion, slots, -, window, -, -, -, store, -, -⟩ := (notes_cleared u x.channel e others).keeps
      have same : w.motionOf x.channel = u.motionOf x.channel := motionOf_of_motion motion _
      have position : (w.motionOf x.channel).position = m.position := by rw [same, motionOf_rested]; rfl
      have clamps : w.clampToEnvelope x.channel v = p.clampToEnvelope x.channel v := clampToEnvelope_of_store store _ _
      have counts : w.countsOf x (p.clampToEnvelope x.channel v) = p.countsOf x (p.clampToEnvelope x.channel v) :=
        countsOf_of_store store x _
      have cleared := entryOf_cleared u x.channel e others
      obtain ⟨last, entry⟩ := entryOf_takeEntry_set (s := w) (c := x.channel) commands set
      rw [cleared, clamps] at entry
      have empty : ((w.takeEntry x.channel e).entryOf x.channel).requests = [] := by rw [entry]
      rw [takes, head, takeUpTo_of_nil _ empty]
      refine ⟨by rw [entry], by rw [entry], empty, fun away => ?_⟩
      obtain ⟨drives, serves, -, -, mv, moves, aims⟩ := takeEntry_set_flies (s := w) (x := x) commands set (by rw [same]; exact apart)
        (by rw [clamps, counts, position]; exact away)
      rw [clamps, counts] at aims
      rw [slots] at serves
      refine ⟨?_, ⟨mv, moves, aims.kind, aims.owner, aims.tag, aims.target⟩, serves⟩
      rw [entryOf_drives drives, entryOf_commit, cleared]
      exact ends
    case homes =>
      have head : u.takeHead x.channel e others = u.homeFirst x e :=
        takeHead_homes (Requester.commands.fresh requester _) rfl set (by rw [motionOf_rested]; exact lost)
      obtain ⟨moving, entry, home, serves⟩ := homeFirst_takes (s := u) requester apart travel list lower
      rw [takes, head, takeUpTo_of_busy _ (freeFor_of_moving moving), entry]
      exact ⟨rfl, rfl, ends, home, serves⟩
    case aborts =>
      exact drops alone (takeHead_aborts (Requester.commands.fresh requester _) rfl kind (by rw [motionOf_rested]; exact lost))
    case stale =>
      have stale : e.stale u.window.number = true := by
        unfold Entry.stale
        rcases requester with is | is <;> rw [is] <;> exact decide_eq_true aged
      exact drops alone (takeHead_of_stale stale others)

end

section
/-! PROOFS. O33: a SET on a speed channel (R60, R72, R74, R123), with the commitment of FAN (R60) and of DRUM (R146, R147). -/

namespace Sys2Proof.Machine

/-! ### The commitment on a speed channel -/

/-- Plug Relief once a DRUM setpoint has been committed (R146, R147). -/
def Part.overrideAfter (s : Part) (v : Int) : Override :=
  let o := s.override
  if (s.entryOf .drum).setpoint < v ∧ (o.relief = .armed ∨ o.relief = .suspect) then
    { o with relief := .spinup, confirmAt := none, watchAt := none }
  else if 0 < v ∧ o.relief ≠ .disarmed ∧ o.relief ≠ .spinup ∧ o.relief ≠ .opening then o
  else { o with watchAt := none }

theorem watchLength_isNone_iff (s : Part) : s.watchLength.isNone = true ↔
    ¬(0 < (s.entryOf .drum).setpoint ∧ s.override.relief ≠ .disarmed ∧ s.override.relief ≠ .spinup ∧ s.override.relief ≠ .opening) := by
  have zero : (s.entryOf .drum).setpoint.toNat = 0 ↔ ¬0 < (s.entryOf .drum).setpoint := by omega
  unfold Part.watchLength Part.watchedPercent
  cases s.override.relief <;> simp [zero]

theorem override_stopIdleWatch (s : Part) : s.stopIdleWatch.override =
    if 0 < (s.entryOf .drum).setpoint ∧ s.override.relief ≠ .disarmed ∧ s.override.relief ≠ .spinup ∧ s.override.relief ≠ .opening
    then s.override else { s.override with watchAt := none } := by
  unfold Part.stopIdleWatch
  by_cases idle : s.watchLength.isNone = true
  · rw [if_pos idle, if_neg ((watchLength_isNone_iff s).1 idle)]
  · rw [if_neg idle, if_pos (not_not.1 ((watchLength_isNone_iff s).not.1 idle))]

theorem override_drumRaised (s : Part) (old : Int) : (s.drumRaised old).override =
    if old < (s.entryOf .drum).setpoint ∧ (s.override.relief = .armed ∨ s.override.relief = .suspect) then
      { s.override with relief := .spinup, confirmAt := none, watchAt := none }
    else s.override := by
  unfold Part.drumRaised
  split <;> rfl

theorem drumRaised_keeps (s : Part) (old : Int) : let t := s.drumRaised old
    t.book = s.book ∧ t.settle = s.settle ∧ t.louverTrim = s.louverTrim ∧ t.fanTarget = s.fanTarget ∧ t.fanOffset = s.fanOffset
    ∧ t.store = s.store := by
  unfold Part.drumRaised
  split <;> simp

theorem override_putDrum (s : Part) (v : Int) : (s.putSetpoint .drum v).override = s.overrideAfter v := by
  let u : Part := s.modBook .drum fun e => { e with setpoint := v }
  let w : Part := u.drumRaised (s.entryOf .drum).setpoint
  have entry : (w.entryOf .drum).setpoint = v := by
    rw [entryOf_of_book (s := u) (drumRaised_keeps u _).1, entryOf_modBook_self]
  have override : w.override = if (s.entryOf .drum).setpoint < v ∧ (s.override.relief = .armed ∨ s.override.relief = .suspect) then
      { s.override with relief := .spinup, confirmAt := none, watchAt := none } else s.override := by
    rw [override_drumRaised, show (u.entryOf .drum).setpoint = v by rw [entryOf_modBook_self]]
    rfl
  show w.stopIdleWatch.override = _
  rw [override_stopIdleWatch, entry]
  unfold Part.overrideAfter
  by_cases raised : (s.entryOf .drum).setpoint < v ∧ (s.override.relief = .armed ∨ s.override.relief = .suspect)
  · rw [if_pos raised] at override
    rw [override]
    simp [raised]
  · rw [if_neg raised] at override
    rw [override, if_neg raised]

section

variable {s : Part} {r : Requester}

theorem commit_drum (commands : r.commands) (v : Int) (origin : Origin) : let t := s.commit .drum v r origin
    t.override = s.overrideAfter (s.clampToEnvelope .drum v) ∧ t.settle = max s.settle s.store.activePreset.settleCount
    ∧ t.louverTrim = s.louverTrim ∧ t.fanTarget = s.fanTarget ∧ t.fanOffset = s.fanOffset := by
  let u : Part := s.modBook .drum fun e => { e with origin := origin }
  let w : Part := u.putSetpoint .drum (s.clampToEnvelope .drum v)
  have override : w.override = s.overrideAfter (s.clampToEnvelope .drum v) := override_putDrum u _
  have rest : w.settle = s.settle ∧ w.louverTrim = s.louverTrim ∧ w.fanTarget = s.fanTarget ∧ w.fanOffset = s.fanOffset
      ∧ w.store = s.store := by
    have puts : w = (Part.drumRaised (u.modBook .drum fun e => { e with setpoint := s.clampToEnvelope .drum v })
        (u.entryOf .drum).setpoint).stopIdleWatch := rfl
    obtain ⟨-, keeps⟩ := drumRaised_keeps (u.modBook .drum fun e => { e with setpoint := s.clampToEnvelope .drum v })
      (u.entryOf .drum).setpoint
    simp only [puts, stopIdleWatch_fields]
    exact keeps
  obtain ⟨settle, louverTrim, fanTarget, fanOffset, store⟩ := rest
  have commits : s.commit .drum v r origin = { w with settle := max w.settle w.store.activePreset.settleCount } := by
    rcases commands with rfl | rfl <;> rfl
  dsimp only
  rw [commits]
  exact ⟨override, by rw [← settle, ← store], louverTrim, fanTarget, fanOffset⟩

theorem commit_fan (commands : r.commands) (v : Int) (origin : Origin) : let t := s.commit .fan v r origin
    t.override = s.override ∧ t.settle = max s.settle s.store.activePreset.settleCount ∧ t.louverTrim = s.louverTrim
    ∧ t.fanTarget = s.clampToEnvelope .fan (s.clampToEnvelope .fan v + s.fanOffset) ∧ t.fanOffset = s.fanOffset := by
  rcases commands with rfl | rfl <;> exact ⟨rfl, rfl, rfl, rfl, rfl⟩

end

/-! ### A SET driven on a speed channel (R123) -/

section

variable {s : Part} {v : SpeedChannel} {mv : Move} {t : Int}

/-- A speed move with a target is off at its grant within the approach band, or with its drive time used up (R123). -/
theorem goesOff_speed (jog : mv.kind ≠ .jog) (aimed : mv.target = some t) : s.goesOff v.channel mv =
    (decide (s.maxDriveTime v ≤ mv.driveTime) || decide (distance t (s.rpmOf v) ≤ (s.params.bands.get v).approach)) := by
  have ends : s.rpmEndsDrive v (s.speedAtGrant v mv) (s.rpmOf v) = decide (distance t (s.rpmOf v) ≤ (s.params.bands.get v).approach) := by
    have direction : (s.speedAtGrant v mv).direction = speedDirection t (s.rpmOf v) mv.direction := by
      unfold Part.speedAtGrant
      cases kind : mv.kind <;> simp_all
    have kind : (s.speedAtGrant v mv).kind = mv.kind := rfl
    have target : (s.speedAtGrant v mv).target = some t := aimed
    have zero (there : t = s.rpmOf v) : distance t (s.rpmOf v) = 0 := distance_eq_zero_iff.2 there
    unfold speedDirection at direction
    unfold Part.rpmEndsDrive
    rw [target, direction, kind]
    rcases lt_trichotomy (s.rpmOf v) t with up | there | down
    · rw [if_pos up]
      have short : decide (t ≤ s.rpmOf v) = false := decide_eq_false (not_le.2 up)
      cases kind : mv.kind <;> simp_all
    · have within : decide (distance t (s.rpmOf v) ≤ (s.params.bands.get v).approach) = true := by
        rw [zero there.symm]
        exact decide_eq_true (Nat.zero_le _)
      rw [if_neg (by omega), if_neg (by omega), within]
      cases kind : mv.kind <;> cases mv.direction with
      | none => simp_all
      | some d => cases d <;> simp_all
    · rw [if_neg (by omega), if_pos down]
      have short : decide (s.rpmOf v ≤ t) = false := decide_eq_false (not_le.2 down)
      cases kind : mv.kind <;> simp_all
  unfold Part.goesOff Part.granted
  rw [kind_speedChannel]
  dsimp only
  rw [ends]

end

end Sys2Proof.Machine
end

section
/-! PROOFS. O33, continued: a SET placed on a speed channel that stands free, its retarget in place, and the statement. -/

namespace Sys2Proof.Machine

/-- What a commitment has written beside the book stands. -/
structure Committed (u t : Part) : Prop where
  settle : t.settle = u.settle
  louverTrim : t.louverTrim = u.louverTrim
  override : t.override = u.override
  fanTarget : t.fanTarget = u.fanTarget
  fanOffset : t.fanOffset = u.fanOffset

theorem Drives.committed {u t : Part} (h : Drives u t) : Committed u t := by
  obtain ⟨motion, slots, rankOrder, shifted, rfl⟩ := h
  exact ⟨rfl, rfl, rfl, rfl, rfl⟩

theorem Notes.committed {u t : Part} (h : Notes u t) : Committed u t := by
  obtain ⟨book, bus, rfl⟩ := h
  exact ⟨rfl, rfl, rfl, rfl, rfl⟩

section

variable {s : Part} {v : SpeedChannel} {e : Entry} {r : Requester} {w : Int}

/-- The part with the target of a speed channel's SET committed. -/
theorem commit_speed (commands : r.commands) (v : SpeedChannel) (w : Int) (origin : Origin) : let t := s.commit v.channel w r origin
    t.settle = max s.settle s.store.activePreset.settleCount ∧ t.louverTrim = s.louverTrim ∧ t.fanOffset = s.fanOffset
    ∧ t.fanTarget = (if v = .fan then s.clampToEnvelope .fan (s.clampToEnvelope .fan w + s.fanOffset) else s.fanTarget)
    ∧ (v = .fan → t.override = s.override)
    ∧ (v = .drum → t.override = s.overrideAfter (s.clampToEnvelope .drum w)) := by
  cases v with
  | drum =>
    obtain ⟨override, settle, louverTrim, fanTarget, fanOffset⟩ := commit_drum (s := s) commands w origin
    exact ⟨settle, louverTrim, fanOffset, fanTarget, fun is => absurd is (by decide), fun _ => override⟩
  | fan =>
    obtain ⟨override, settle, louverTrim, fanTarget, fanOffset⟩ := commit_fan (s := s) commands w origin
    exact ⟨settle, louverTrim, fanOffset, fanTarget, fun _ => override, fun is => absurd is (by decide)⟩

theorem driveTarget_speed (s : Part) (v : SpeedChannel) :
    s.driveTarget v.channel = if v = .fan then s.fanTarget else (s.entryOf v.channel).setpoint := by
  cases v <;> rfl

/-- A SET of a speed channel as it is handed over. -/
def newSpeedSet (r : Requester) (target : Int) (tag : Option Byte) : Move :=
  { Move.blank (.request r) .set .whole tag with target := some target }

theorem handSet_speed (s : Part) (v : SpeedChannel) (r : Requester) (target : Int) (tag : Option Byte) :
    s.handSet v.channel (.request r) .set .whole target tag = s.hand v.channel (newSpeedSet r target tag) := by
  cases v <;> rfl

theorem speed_not_positional (v : SpeedChannel) (x : PosChannel) : v.channel ≠ x.channel := by
  cases v <;> cases x <;> decide

/-- A SET placed on a speed channel that stands free: taken, or deferred while the separator is DISENGAGED. -/
theorem place_speed_set (free : s.standsFree v.channel) (runs : s.shutdown = none) (commands : e.requester.commands)
    (set : e.kind = .set (some w)) :
    let u := s.commit v.channel w e.requester (e.requester.origin e.preset)
    let t := (s.place v.channel e).1
    Committed u t ∧ (∃ last, t.entryOf v.channel = { u.entryOf v.channel with last := last })
    ∧ (s.capture.engaged = false → t.motion = s.motion ∧ t.slots = s.slots
      ∧ (t.entryOf v.channel).last = some ⟨.deferred, .request e.requester, s.window.number⟩)
    ∧ (s.capture.engaged = true → ∃ mv, (t.motionOf v.channel).move = some mv ∧ mv.kind = .set ∧ mv.tag = e.tag
      ∧ mv.target = some (u.driveTarget v.channel) ∧ mv.owner = .request e.requester
      ∧ (2 ≤ s.slots.length → (t.motionOf v.channel).phase = .waiting)
      ∧ (s.slots.length < 2 → (t.motionOf v.channel).phase =
          if decide (s.maxDriveTime v ≤ 0) ||
            decide (distance (u.driveTarget v.channel) (s.rpmOf v) ≤ (s.params.bands.get v).approach) then .coasting else .driving)) := by
  let u : Part := s.commit v.channel w e.requester (e.requester.origin e.preset)
  have places := place_of_free runs free.2.1 (freeFor_of_standsFree free e.kind) free.2.2.2
  have framed : Framed v.channel s u := ((Local.refl (P := AnyOwner) s).commit w e.requester _ trivial).framed
  obtain ⟨motion, slots, -, -⟩ := commit_keeps s v.channel w e.requester (e.requester.origin e.preset)
  have stands : (u.motionOf v.channel).phase ≠ .coasting := fun coasts =>
    Phase.noConfusion ((free.1.symm.trans (congrArg Motion.phase (motionOf_of_motion motion _)).symm).trans coasts)
  have commits : s.commitEntry v.channel e = u := commitEntry_set commands set
  dsimp only
  cases engaged : s.capture.engaged with
  | false =>
    have defers : (s.place v.channel e).1 = u.recordOutcome v.channel .deferred (.request e.requester) e.tag := by
      rw [places, takeHead_defers (s := s.listedAlone v.channel e) (commands.fresh _) rfl set engaged,
        cleared_alone free.2.2.2]
      unfold Part.deferEntry
      rw [if_pos commands.commits, commits]
    have notes := notes_recordOutcome u v.channel .deferred (.request e.requester) e.tag
    obtain ⟨motion', slots', -⟩ := notes.keeps
    rw [defers]
    refine ⟨notes.committed, ⟨_, entryOf_recordOutcome u v.channel _ _ _⟩, fun _ => ⟨motion'.trans motion, slots'.trans slots, ?_⟩,
      fun on => Bool.noConfusion on⟩
    rw [entryOf_recordOutcome, framed.number]
  | true =>
    have takes : (s.place v.channel e).1 = u.hand v.channel (newSpeedSet e.requester (u.driveTarget v.channel) e.tag) := by
      rw [places, takeHead_ready (s := s.listedAlone v.channel e) (commands.fresh _) (readyFor_speed engaged), cleared_alone free.2.2.2,
        takeEntry_set commands set]
      exact handSet_speed ..
    let mv : Move := newSpeedSet e.requester (u.driveTarget v.channel) e.tag
    obtain ⟨drives, -, full, room, -, move⟩ := hand_in_flight (s := u) (mv := mv) (.inl commands.rank) stands
      fun x is => absurd is (speed_not_positional v x)
    have off : u.goesOff v.channel mv = (decide (s.maxDriveTime v ≤ 0) ||
        decide (distance (u.driveTarget v.channel) (s.rpmOf v) ≤ (s.params.bands.get v).approach)) := by
      rw [goesOff_congr framed.store framed.capture (congrArg Motion.position (motionOf_of_motion motion _)),
        goesOff_speed (t := u.driveTarget v.channel) MoveKind.noConfusion rfl]
      rfl
    rw [takes]
    rw [slots] at full room
    rw [off] at room
    refine ⟨drives.committed, ⟨_, entryOf_drives drives _⟩, fun apart => Bool.noConfusion apart, fun _ => ?_⟩
    rcases move with ⟨-, waits⟩ | ⟨-, d, n, runs⟩
    · exact ⟨mv, waits, rfl, rfl, rfl, rfl, full, room⟩
    · refine ⟨_, runs, ?_, ?_, ?_, ?_, full, room⟩
      all_goals
        unfold Part.granted
        rw [kind_speedChannel]
        rfl

/-! ### The retarget in place (R70) -/

theorem isRetargeted_speed {mv : Move} (set : e.kind = .set (some w)) : s.isRetargeted v.channel mv e = true ↔
    mv.kind = .set ∧ mv.owner = .request e.requester
      ∧ aheadOf (testDirection mv (s.rpmOf v)) (s.rpmOf v) (s.retargetValue v.channel w) = true := by
  unfold Part.isRetargeted Part.arrivalTarget Part.retargets
  rw [set, kind_speedChannel]
  simp [and_assoc]

/-- A SET retargeted in place on a speed channel. -/
theorem retarget_speed {mv : Move} (commands : e.requester.commands) (set : e.kind = .set (some w))
    (moves : (s.motionOf v.channel).move = some mv) : let t := s.retarget v.channel e
    let u := s.commit v.channel w e.requester (e.requester.origin e.preset)
    t.motion = s.motion.set v.channel { s.motionOf v.channel with move := some { mv with
      target := some (u.driveTarget v.channel), tag := e.tag } }
    ∧ t.slots = s.slots
    ∧ t.entryOf v.channel = { s.entryOf v.channel with
        setpoint := s.clampToEnvelope v.channel w, origin := e.requester.origin e.preset } := by
  let u : Part := s.commit v.channel w e.requester (e.requester.origin e.preset)
  obtain ⟨motion, slots, -, -⟩ := commit_keeps s v.channel w e.requester (e.requester.origin e.preset)
  have same : u.motionOf v.channel = s.motionOf v.channel := motionOf_of_motion motion _
  have retargets : s.retarget v.channel e = u.modMotion v.channel fun m => { m with move := m.move.map fun mv => { mv with
      target := some (u.driveTarget v.channel), tag := e.tag } } := by
    unfold Part.retarget
    dsimp only
    rw [commitEntry_set commands set, kind_speedChannel]
  dsimp only
  rw [retargets]
  refine ⟨?_, slots, entryOf_commit ..⟩
  show u.motion.set v.channel _ = _
  rw [show u.motion.get v.channel = s.motionOf v.channel from same, motion]
  refine congrArg (s.motion.set v.channel) ?_
  dsimp only
  rw [moves]
  rfl

end

end Sys2Proof.Machine
end

section
/-! PROOFS. O33: a SET on a speed channel, assembled. -/

namespace Sys2Proof.Machine

theorem overrideAfter_congr {s t : Part} (override : t.override = s.override)
    (setpoint : (t.entryOf .drum).setpoint = (s.entryOf .drum).setpoint) (v : Int) : t.overrideAfter v = s.overrideAfter v := by
  unfold Part.overrideAfter
  rw [override, setpoint]

/-- The direction of a speed move for the test of R70, in the words of the statement. -/
theorem testDirection_eq (mv : Move) (rpm : Int) : testDirection mv rpm = if mv.granted = true then mv.direction
    else mv.target.bind fun w => if rpm < w then some .up else if w < rpm then some .down else none := by
  unfold testDirection
  split
  · rfl
  · cases mv.target <;> rfl

end Sys2Proof.Machine

open Sys2Proof Sys2Proof.Machine

/-- Settles O33: the SET of a channel that stands free, then the other conditions of the channel one by one. -/
theorem aSetOnAFreeSpeedChannelIsTakenOrDeferred : Obligations.ASetOnAFreeSpeedChannelIsTakenOrDeferred := by
  refine ⟨fun p q dt h source f v sends received runs named free ordered => ?free,
    fun p q dt h source f v sends received runs named sound => ?other⟩
  case free =>
    have asks : p.asks h source f v.channel := ⟨sends, received, runs, named⟩
    let u : Part := p.setAdmitted dt source f v.channel
    let e : Entry := p.setAsked source f v.channel
    have commands : e.requester.commands := senderOf_commands source
    have entryU : u.entryOf v.channel = { p.entryOf v.channel with
      hold := (p.later dt).holdAfter v.channel (senderOf source).holder } := entryOf_setAdmitted p dt source f v.channel
    have requestsU : (u.entryOf v.channel).requests = (p.entryOf v.channel).requests := by rw [entryU]
    have within : u.clampToEnvelope v.channel (p.setTarget f v.channel) = p.setTarget f v.channel := setTarget_within ordered
    have goes := exec_set_placed asks q dt (standsFree_sound free) (standsFree_admits free _)
    have frame : Framed v.channel (p.later dt) (u.place v.channel e).1 := (framed_setAdmitted ..).trans (place_framed u _ e)
    have quiet : Quiet u (u.place v.channel e).1 := Quiet.place .refl v.channel e
    have freeU : u.standsFree v.channel := ⟨free.1, free.2.1, free.2.2.1, requestsU.trans free.2.2.2⟩
    obtain ⟨settle, louverTrim, fanOffset, fanTarget, fan, drum⟩ :=
      commit_speed (s := u) commands v (p.setTarget f v.channel) (e.requester.origin e.preset)
    obtain ⟨stands, ⟨last, entry⟩, apart, turns⟩ := place_speed_set (s := u) (e := e) freeU runs commands rfl
    have target := driveTarget_speed (u.commit v.channel (p.setTarget f v.channel) e.requester (e.requester.origin e.preset)) v
    rw [entryOf_commit, entryU, within] at entry
    rw [entryOf_commit, within, ← stands.fanTarget] at target
    dsimp only
    refine ⟨(u.place v.channel e).1, goes, frame.now, fun room => set_answer_stays quiet room, ?_⟩
    rw [entry, ← origin_senderOf source]
    refine ⟨rfl, rfl, free.2.2.2, ?fanTarget, fun off => ?deferred, fun on => ?driven, stands.settle.trans settle,
      stands.louverTrim.trans louverTrim, fun is => stands.override.trans (fan is), fun is => ?drum, frame.entries, frame.store,
      frame.capture, frame.lines, frame.power.trans received.1, frame.shutdown.trans runs, frame.service, frame.number, frame.history⟩
    case fanTarget =>
      rw [stands.fanTarget, fanTarget]
      cases v with
      | fan => rw [if_pos rfl, if_pos rfl, stands.fanOffset, fanOffset, clampToEnvelope_of_store frame.store,
          show u.clampToEnvelope .fan _ = _ from within]; rfl
      | drum => rw [if_neg (by decide), if_neg (by decide)]; rfl
    case deferred =>
      obtain ⟨motion, slots, outcome⟩ := apart off
      rw [entry] at outcome
      exact ⟨motion, slots, outcome⟩
    case driven =>
      obtain ⟨mv, moves, kind, tag, aimed, owner, full, room⟩ := turns on
      rw [target] at aimed room
      refine ⟨mv, moves, kind, tag, aimed, owner, full, fun less w is => ?_⟩
      obtain rfl := Option.some.inj (aimed.symm.trans is)
      refine ⟨fun beyond time => (room less).trans (if_neg ?_), fun near => (room less).trans (if_pos ?_)⟩
      · have early : ¬u.maxDriveTime v ≤ 0 := by
          show ¬(p.store.activeCal.figures.speed.get v).maxDriveTime * 1000 ≤ 0
          omega
        have far : ¬distance (if v = .fan then (u.place v.channel e).1.fanTarget else p.setTarget f v.channel) (u.rpmOf v) ≤
          (u.params.bands.get v).approach := Nat.not_le.2 beyond
        simp only [decide_eq_false early, decide_eq_false far]
        decide
      · have close : distance (if v = .fan then (u.place v.channel e).1.fanTarget else p.setTarget f v.channel) (u.rpmOf v) ≤
          (u.params.bands.get v).approach := near
        rw [decide_eq_true close, Bool.or_true]
    case drum =>
      subst is
      have override : (u.place SpeedChannel.drum.channel e).1.override = p.overrideAfter (p.setTarget f SpeedChannel.drum.channel) := by
        refine (stands.override.trans (drum rfl)).trans ?_
        rw [show u.clampToEnvelope .drum _ = _ from within]
        exact overrideAfter_congr rfl (by rw [show u.entryOf .drum = _ from entryU]) _
      rw [override]
      unfold Part.overrideAfter
      exact ⟨fun raised => if_pos raised, fun low watches => (if_neg low).trans (if_pos watches),
        fun low idle => (if_neg low).trans (if_neg idle)⟩
  case other =>
    have asks : p.asks h source f v.channel := ⟨sends, received, runs, named⟩
    let u : Part := p.setAdmitted dt source f v.channel
    let e : Entry := p.setAsked source f v.channel
    have commands : e.requester.commands := senderOf_commands source
    have entryU : u.entryOf v.channel = { p.entryOf v.channel with
      hold := (p.later dt).holdAfter v.channel (senderOf source).holder } := entryOf_setAdmitted p dt source f v.channel
    have setpointU : (u.entryOf v.channel).setpoint = (p.entryOf v.channel).setpoint := by rw [entryU]
    have requestsU : (u.entryOf v.channel).requests = (p.entryOf v.channel).requests := by rw [entryU]
    have frame : Framed v.channel (p.later dt) (u.place v.channel e).1 := (framed_setAdmitted ..).trans (place_framed u _ e)
    have leads {holds : Part → Prop} (admits : p.outranks v.channel (senderOf source) = false) (meets : holds (u.place v.channel e).1) :
        ∃ t : Part, exec (.set dt h f) ⟨p, q⟩ = .next ⟨t, q⟩ ∧ t.now = p.now + dt ∧ (∀ c, c ≠ v.channel → t.entryOf c = p.entryOf c)
          ∧ t.store = p.store ∧ t.capture = p.capture ∧ t.lines = p.lines ∧ holds t :=
      ⟨_, exec_set_placed asks q dt sound admits, frame.now, frame.entries, frame.store, frame.capture, frame.lines, meets⟩
    have value : u.retargetValue v.channel (p.setTarget f v.channel) =
        if v = .fan then p.clampToEnvelope v.channel (p.setTarget f v.channel +
          if p.startsHold v.channel (if source = cabAddress then .operator else .service) = true then 0 else p.fanOffset)
        else p.setTarget f v.channel := by
      rw [← holder_senderOf source]
      cases v with
      | drum => rfl
      | fan =>
        have offset : u.fanOffset = if p.startsHold .fan (senderOf source).holder = true then 0 else p.fanOffset := by
          show (if Channel.fan = .fan ∧ p.startsHold .fan (senderOf source).holder = true then 0 else p.fanOffset) = _
          simp
        refine (if_pos rfl).trans ?_
        exact congrArg (fun o : Int => p.clampToEnvelope .fan (p.setTarget f .fan + o)) offset
    dsimp only
    refine ⟨fun blocked empty => leads (blocked_admits blocked _) ?_,
      fun mv moves open' => ⟨fun driving empty => ⟨fun lower => leads (admits_of_rank moves (Nat.le_of_lt lower)) ?_,
        fun own kept => leads (admits_of_rank moves (by rw [own]; rfl)) ?_⟩,
        fun set own ahead ordered => leads (admits_of_rank moves (by rw [own]; rfl)) ?_⟩⟩
    · rw [show (u.place v.channel e).1 = u.listedAlone v.channel e from place_admitted_blocked blocked empty e]
      refine ⟨rfl, rfl, listedAlone_requests u _ e, ?_⟩
      rw [entryOf_listedAlone, entryU]
    · obtain ⟨coasts, gone, expiry, free, list, setpoint, last⟩ :=
        abort_lists (s := u) moves driving (requestsU.trans empty) .superseded e
      rw [place_supersedes (s := u) (e := e) moves open' lower]
      exact ⟨coasts, gone, expiry, free, list, setpoint.trans setpointU, last⟩
    · obtain ⟨coasts, gone, expiry, free, list, setpoint, last⟩ :=
        abort_lists (s := u) moves driving (requestsU.trans empty) .replaced e
      have stays : u.isRetargeted v.channel mv e = false := by
        rw [← Bool.not_eq_true, isRetargeted_speed (s := u) (e := e) rfl, aheadOf_iff, testDirection_eq, value]
        rintro ⟨set, -, ahead⟩
        exact kept.elim (fun other => other set) fun behind => behind ahead
      rw [place_replaces (s := u) (e := e) moves open' own stays]
      exact ⟨coasts, gone, expiry, free, list, setpoint.trans setpointU, last⟩
    · have within : u.clampToEnvelope v.channel (p.setTarget f v.channel) = p.setTarget f v.channel := setTarget_within ordered
      have goes : u.isRetargeted v.channel mv e = true := by
        rw [isRetargeted_speed (s := u) (e := e) rfl, aheadOf_iff, testDirection_eq, value]
        exact ⟨set, own, ahead⟩
      obtain ⟨motion, slots, entry⟩ := retarget_speed (s := u) (e := e) commands rfl moves
      obtain ⟨-, -, -, fanTarget, -, -⟩ :=
        commit_speed (s := u) commands v (p.setTarget f v.channel) (e.requester.origin e.preset)
      have target : (u.commit v.channel (p.setTarget f v.channel) e.requester (e.requester.origin e.preset)).driveTarget v.channel =
          u.retargetValue v.channel (p.setTarget f v.channel) := by
        rw [driveTarget_speed, fanTarget, entryOf_commit, within]
        cases v with
        | drum => rfl
        | fan => rw [if_pos rfl, if_pos rfl, show u.clampToEnvelope .fan _ = _ from within]; rfl
      rw [target, value] at motion
      rw [within] at entry
      rw [place_retargets (s := u) (e := e) moves open' own goes, entry, ← origin_senderOf source]
      exact ⟨motion, slots, rfl, requestsU, rfl⟩

end

section
/-! PROOFS. The end of a coast or settle (R104, R107 to R109, R112, R113, R116): which step it is, that it is work on one channel, and
what a move that ends, or a fault, leaves. -/

namespace Sys2Proof.Machine

/-! ### The coast expiry as work on one channel -/

section

variable {P : Owner → Prop} {W : Prop} {d : Channel} {s0 s : Part}

/-- Another move of the same owner for d. -/
theorem Local.setMove (h : Local P W d s0 s) {mv mv' : Move} (moves : (s.motionOf d).move = some mv) (owner : mv'.owner = mv.owner) :
    Local P W d s0 (s.modMotion d fun m => { m with move := some mv' }) := by
  refine h.trans ⟨rfl, .inl rfl, id, fun _ _ => rfl, fun c ne => .of_eq (motionOf_modMotion_of_ne s ne _), rfl, rfl, id, ?_,
    fun _ => ⟨rfl, rfl⟩⟩
  intro allowed given is
  rw [motionOf_modMotion_self] at is
  obtain rfl := Option.some.inj is
  exact owner ▸ allowed mv moves

theorem Local.stallMove (h : Local P W d s0 s) : Local P W d s0 (s.stallMove d) := by
  unfold Part.stallMove
  have counted := h.modMotion_move (fun m => { m with stallCount := (s.motionOf d).stallCount + 1 }) fun _ => rfl
  dsimp only
  split
  · exact counted.fault _ _
  · exact counted.endMove _

section

variable {x : PosChannel} {mv : Move}

theorem Local.judgeTarget (h : Local P W x.channel s0 s) (moves : (s.motionOf x.channel).move = some mv) (t : Int) :
    Local P W x.channel s0 (s.judgeTarget x mv t) := by
  unfold Part.judgeTarget
  dsimp only
  split
  · exact h.completeMove _
  · split
    · exact h.completeMove _
    · exact Local.enterWaiting (h.setMove moves rfl)

theorem Local.targetCoastEnds (h : Local P W x.channel s0 s) (moves : (s.motionOf x.channel).move = some mv) :
    Local P W x.channel s0 (s.targetCoastEnds x mv) := by
  unfold Part.targetCoastEnds
  dsimp only
  split
  · exact h.stallMove
  · split
    · exact h.judgeTarget moves _
    · split
      · exact h.completeMove _
      · exact h.enterWaiting

theorem Local.shakeCoastEnds (h : Local P W x.channel s0 s) (moves : (s.motionOf x.channel).move = some mv) :
    Local P W x.channel s0 (s.shakeCoastEnds x mv) := by
  unfold Part.shakeCoastEnds
  dsimp only
  split
  · exact Local.enterWaiting (h.setMove moves rfl)
  · exact h.targetCoastEnds moves

theorem Local.jogCoastEnds (h : Local P W x.channel s0 s) (writes : W) : Local P W x.channel s0 (s.jogCoastEnds x mv) := by
  unfold Part.jogCoastEnds
  dsimp only
  split
  · exact (h.commitJog mv writes).stallMove
  · split
    · exact h.endJogMove mv writes
    · exact h.enterWaiting

theorem Local.homeSucceeds (h : Local P W x.channel s0 s) : Local P W x.channel s0 (s.homeSucceeds x) := by
  unfold Part.homeSucceeds
  extract_lets c before t1 t2
  have taken : Local P W x.channel s0 t1 := h.modMotion_move _ fun _ => rfl
  have ended : Local P W x.channel s0 t2 := (taken.raise _ _ _ _).endMove _
  split
  · exact ended.judgeRelief
  · exact ended

theorem Local.homeCoastEnds (h : Local P W x.channel s0 s) : Local P W x.channel s0 (s.homeCoastEnds x mv) := by
  unfold Part.homeCoastEnds
  split
  · exact h.homeSucceeds
  · split
    · exact h.fault _ _
    · exact h.enterWaiting

theorem Local.begunCoastEnds (h : Local P W x.channel s0 s) (moves : (s.motionOf x.channel).move = some mv) :
    Local P W x.channel s0 (s.begunCoastEnds x mv) := by
  unfold Part.begunCoastEnds
  extract_lets c taken aimed t
  have owner : aimed.owner = mv.owner := by
    simp only [aimed]
    split <;> rfl
  have given : Local P W x.channel s0 t := h.setMove moves owner
  split
  · exact given.completeMove _
  · exact given.enterWaiting

/-- A coast expiry commits a setpoint for a JOG alone. -/
theorem Local.coastEnds (h : Local P W x.channel s0 s) (jog : ∀ mv, (s.motionOf x.channel).move = some mv → mv.kind = .jog → W) :
    Local P W x.channel s0 (s.coastEnds x) := by
  unfold Part.coastEnds
  extract_lets c t
  have rolled : Local P W x.channel s0 t := h.modMotion_move _ fun _ => rfl
  split
  · exact rolled.comeToRest _
  case h_2 mv moves =>
    split
    · exact rolled.begunCoastEnds moves
    · split
      · exact rolled.homeCoastEnds
      case h_2 kind =>
        rw [motionOf_modMotion_self] at moves
        exact rolled.jogCoastEnds (jog mv moves kind)
      · exact rolled.shakeCoastEnds moves
      all_goals exact rolled.targetCoastEnds moves

end

theorem Local.settleEnds {v : SpeedChannel} (h : Local P True v.channel s0 s) : Local P True v.channel s0 (s.settleEnds v) := by
  unfold Part.settleEnds
  extract_lets c t
  have rolled : Local P True v.channel s0 t := h.modMotion_move _ fun _ => rfl
  split
  · exact rolled.comeToRest _
  · split
    · split
      · split
        · exact rolled.endJogMove _ trivial
        · exact rolled.enterWaiting
      · split
        · exact rolled.endMove _
        · exact rolled.enterWaiting
      · exact rolled.enterWaiting
    · split
      · exact rolled.endJogMove _ trivial
      · exact rolled.endMove _

/-- The preemption of a RELIEF move is the Drive Arbiter's work (R140). -/
theorem Drives.preemptUnless (h : Drives s0 s) (first : Bool) (c : Channel) : Drives s0 (s.preemptUnless first c) := by
  unfold Part.preemptUnless Part.preempt
  split
  · exact h
  · split
    · split
      · exact ((h.driveOff _ _).grant _).regrant
      · exact h
    · exact h

theorem requests_of_local {t : Part} (local' : Local Nobody True d s t) (empty : (s.entryOf d).requests = []) :
    (t.entryOf d).requests = [] := by
  have fits : t.listFits Nobody True d := local'.lists fun e mem => by
    rw [empty] at mem
    exact absurd mem List.not_mem_nil
  exact List.eq_nil_iff_forall_not_mem.2 fun e mem => (fits e mem).1

end

/-- A coast expiry on a channel without requests, after which nothing is taken. -/
theorem exec_coastTimerExpiry_of_nil {p : Part} (on : p.power = .on) {x : PosChannel} {d : Nat}
    (coasts : (p.motionOf x.channel).coastEndsAt = some d) (empty : (p.entryOf x.channel).requests = []) (q : List Instr) (first : Bool) :
    exec (.coastTimerExpiry x first) ⟨p, q⟩ = .next ⟨((p.atTime d).coastEnds x).preemptUnless first x.channel, q⟩ := by
  have ends : Local Nobody True x.channel (p.atTime d) ((p.atTime d).coastEnds x) := (Local.refl _).coastEnds fun _ _ _ => trivial
  have none : ((((p.atTime d).coastEnds x).preemptUnless first x.channel).entryOf x.channel).requests = [] := by
    rw [entryOf_drives ((Drives.refl _).preemptUnless first x.channel)]
    exact requests_of_local ends empty
  rw [exec_coastTimerExpiry_of_on on coasts, take_of_nil none]

theorem exec_settleTimerExpiry_of_nil {p : Part} (on : p.power = .on) {v : SpeedChannel} {d : Nat}
    (coasts : (p.motionOf v.channel).coastEndsAt = some d) (empty : (p.entryOf v.channel).requests = []) (q : List Instr) :
    exec (.settleTimerExpiry v) ⟨p, q⟩ = .next ⟨(p.atTime d).settleEnds v, q⟩ := by
  have ends : Local Nobody True v.channel (p.atTime d) ((p.atTime d).settleEnds v) := (Local.refl _).settleEnds
  refine congrArg (fun t => Host.Outcome.next (State.mk t q)) ((Part.onExpiry_of_on on coasts _).trans ?_)
  exact take_of_nil (requests_of_local ends empty)

theorem framed_coastEnds (s : Part) (x : PosChannel) (first : Bool) :
    Framed x.channel s ((s.coastEnds x).preemptUnless first x.channel) :=
  ((Local.refl (P := Nobody) s).coastEnds fun _ _ _ => trivial).framed.trans (((Drives.refl _).preemptUnless first _).framed _)

theorem framed_settleEnds (s : Part) (v : SpeedChannel) : Framed v.channel s (s.settleEnds v) :=
  ((Local.refl (P := Nobody) s).settleEnds).framed

/-! ### The step that a coast expiry is -/

/-- The part with a coast timer run out. -/
def Part.coasted (s : Part) (c : Channel) : Part := s.modMotion c fun m => { m with coastEndsAt := none }

section

variable {s : Part} {c : Channel} {x : PosChannel} {mv : Move}

theorem motionOf_coasted : (s.coasted c).motionOf c = { s.motionOf c with coastEndsAt := none } := motionOf_modMotion_self _ _ _

theorem coasted_move (moves : (s.motionOf c).move = some mv) : ((s.coasted c).motionOf c).move = some mv := by
  rw [motionOf_coasted]
  exact moves

theorem Drives.coasted {s0 : Part} (h : Drives s0 s) (c : Channel) : Drives s0 (s.coasted c) := h.modMotion c _

theorem coastEnds_of_move (moves : (s.motionOf x.channel).move = some mv) (own : mv.begunCoasting = false) :
    (mv.kind = .home → s.coastEnds x = (s.coasted x.channel).homeCoastEnds x mv)
    ∧ (mv.kind = .jog → s.coastEnds x = (s.coasted x.channel).jogCoastEnds x mv)
    ∧ (mv.kind = .shake → s.coastEnds x = (s.coasted x.channel).shakeCoastEnds x mv)
    ∧ (mv.kind ∈ [.set, .relief, .returning, .park] → s.coastEnds x = (s.coasted x.channel).targetCoastEnds x mv) := by
  have moves' := coasted_move moves
  have apart : ¬mv.begunCoasting = true := by rw [own]; decide
  unfold Part.coasted at *
  unfold Part.coastEnds
  dsimp only
  rewrite [moves']
  dsimp only
  rewrite [if_neg apart]
  refine ⟨fun kind => ?_, fun kind => ?_, fun kind => ?_, fun kind => ?_⟩
  · rewrite [kind]
    rfl
  · rewrite [kind]
    rfl
  · rewrite [kind]
    rfl
  · simp only [List.mem_cons, List.not_mem_nil, or_false] at kind
    rcases kind with kind | kind | kind | kind <;> rewrite [kind] <;> rfl

theorem coastEnds_of_begun (moves : (s.motionOf x.channel).move = some mv) (begun : mv.begunCoasting = true) :
    s.coastEnds x = (s.coasted x.channel).begunCoastEnds x mv := by
  have moves' := coasted_move moves
  unfold Part.coasted at *
  unfold Part.coastEnds
  dsimp only
  rewrite [moves']
  exact if_pos begun

/-! ### A move that ends (R104, R112) -/

/-- A move that ends COMPLETE or COMPLETE_OFF. -/
theorem completeMove_leaves (moves : (s.motionOf c).move = some mv) (plain : mv.kind.plain) (o : OutcomeCode) :
    let t := s.completeMove c o
    t.motionOf c = { (s.motionOf c).ended with stallCount := 0 }
    ∧ t.entryOf c = { s.entryOf c with last := some ⟨o, mv.owner, s.window.number⟩ }
    ∧ t.bus.jogTimers = s.timersAfter c mv ∧ t.slots = s.slots ∧ t.override = s.override := by
  let u : Part := s.modMotion c fun m => { m with stallCount := 0 }
  have moves' : (u.motionOf c).move = some mv := by
    rw [motionOf_modMotion_self]
    exact moves
  obtain ⟨rests, entry, timers, slots, override⟩ := endMove_leaves moves' plain o
  refine ⟨rests.trans ?_, entry, timers, slots, override⟩
  rw [motionOf_modMotion_self]
  rfl

/-- A list without entries has none to discard. -/
theorem discardEntries_of_nil (empty : (s.entryOf c).requests = []) (o : OutcomeCode) (gone : Entry → Bool) :
    s.discardEntries c o gone = s := by
  have kept : (s.modBook c fun e => { e with requests := [] }) = s := by
    refine modBook_of_same ?_
    show ({ s.entryOf c with requests := [] } : BookEntry) = s.entryOf c
    rw [← empty]
  unfold Part.discardEntries
  rw [empty]
  exact kept

/-- A channel as a fault leaves it. -/
def Motion.faulted (m : Motion) (cause : FaultCause) : Motion :=
  { m with phase := .faulted cause, move := none, referenced := false, standing := none, coastEndsAt := none, stallAt := none }

/-- The part as a fault with an outcome leaves it, before Plug Relief is judged. -/
def Part.faultNoted (s : Part) (c : Channel) (cause : FaultCause) (o : OutcomeCode) (mv : Move) : Part :=
  (((s.modMotion c fun m => m.faulted cause).raise .channelFaulted (some c) cause.code 0).stopJogTimerOf c mv).recordOutcome c o mv.owner
    mv.tag

theorem fault_eq (moves : (s.motionOf c).move = some mv) (empty : (s.entryOf c).requests = []) (cause : FaultCause) (o : OutcomeCode) :
    s.fault c cause (some o) = if c = .concave then (s.faultNoted c cause o mv).judgeRelief else s.faultNoted c cause o mv := by
  have list : ((s.faultNoted c cause o mv).entryOf c).requests = [] := by
    unfold Part.faultNoted
    rw [entryOf_recordOutcome, entryOf_stopJogTimerOf, entryOf_of_book (s := s) (by simp)]
    exact empty
  unfold Part.fault
  dsimp only
  rewrite [moves]
  dsimp only
  show (if c = .concave then ((s.faultNoted c cause o mv).discardEntries c .faulted fun _ => true).judgeRelief
    else (s.faultNoted c cause o mv).discardEntries c .faulted fun _ => true) = _
  rw [discardEntries_of_nil list]

theorem notes_raise (s : Part) (e : Event) (c : Option Channel) (d8 d16 : Nat) : Notes s (s.raise e c d8 d16) := by
  unfold Part.raise Part.raiseIn Part.send
  dsimp only
  split <;> exact ⟨s.book, _, rfl⟩

theorem notes_stopJogTimerOf (s : Part) (c : Channel) (m : Move) : Notes s (s.stopJogTimerOf c m) := by
  rw [stopJogTimerOf_eq]
  exact ⟨s.book, _, rfl⟩

theorem notes_faultNoted (s : Part) (c : Channel) (cause : FaultCause) (o : OutcomeCode) (mv : Move) :
    Notes (s.modMotion c fun m => m.faulted cause) (s.faultNoted c cause o mv) :=
  ((notes_raise _ _ _ _ _).trans (notes_stopJogTimerOf _ c mv)).trans (notes_recordOutcome _ c o _ _)

theorem jogTimers_judgeRelief (s : Part) : s.judgeRelief.bus.jogTimers = s.bus.jogTimers := by
  have disarms (s : Part) : s.disarm.bus.jogTimers = s.bus.jogTimers := by
    unfold Part.disarm Part.announceRestrain Part.sendRestrain Part.send
    dsimp only
    split
    · split
      · exact jogTimers_push _ _
      · rfl
    · rfl
  unfold Part.judgeRelief
  split
  · split
    · rfl
    · exact disarms s
  · split
    · unfold Part.setRelief
      dsimp only
      split <;> rfl
    · rfl

/-- A barred Plug Relief is DISARMED (R145). -/
theorem override_judgeRelief_barred (barred : s.reliefBarred = true) (active : s.override.relief ≠ .disarmed) :
    s.judgeRelief = s.disarm := by
  unfold Part.judgeRelief
  rw [if_pos barred, if_neg active]

theorem barred_of_unreferenced (lost : (s.motionOf .concave).referenced = false) : s.reliefBarred = true := by
  unfold Part.reliefBarred
  simp [lost]

/-- What a fault leaves of a channel whose list is empty. -/
theorem fault_leaves (moves : (s.motionOf c).move = some mv) (empty : (s.entryOf c).requests = []) (cause : FaultCause) (o : OutcomeCode) :
    let t := s.fault c cause (some o)
    t.motionOf c = (s.motionOf c).faulted cause
    ∧ t.entryOf c = { s.entryOf c with last := some ⟨o, mv.owner, s.window.number⟩ }
    ∧ t.bus.jogTimers = s.timersAfter c mv
    ∧ (s.bus.queue.length < 24 → t.notified .channelFaulted (some c) cause.code 0 s.window.number)
    ∧ (c ≠ .concave → t.override = s.override)
    ∧ (c = .concave → s.override.relief ≠ .disarmed → t.override = Override.reset) := by
  let u : Part := s.modMotion c fun m => m.faulted cause
  let w : Part := u.raise .channelFaulted (some c) cause.code 0
  let n : Part := s.faultNoted c cause o mv
  obtain ⟨motion, slots, override, window, -⟩ := (notes_faultNoted s c cause o mv).keeps
  have rests : n.motionOf c = (s.motionOf c).faulted cause := (motionOf_of_motion motion c).trans (motionOf_modMotion_self _ _ _)
  have entry : n.entryOf c = { s.entryOf c with last := some ⟨o, mv.owner, s.window.number⟩ } := by
    show ((w.stopJogTimerOf c mv).recordOutcome c o mv.owner mv.tag).entryOf c = _
    rw [entryOf_recordOutcome, entryOf_stopJogTimerOf, number_stopJogTimerOf, entryOf_of_book (s := s) (by simp [w, u])]
    simp [w, u]
  have gone : (w.motionOf c).move = none := by
    rw [motionOf_of_motion (s := u) (by simp [w]), motionOf_modMotion_self]
    rfl
  have list : (w.entryOf c).requests = [] := by
    rw [entryOf_of_book (s := s) (by simp [w, u])]
    exact empty
  have timers : n.bus.jogTimers = s.timersAfter c mv := by
    obtain ⟨bus, same, records⟩ := recordOutcome_eq (w.stopJogTimerOf c mv) c o mv.owner mv.tag
    have jogs : w.hasJog c = false := by
      have apart : w.jogging c = false := by
        unfold Part.jogging
        rw [gone]
      unfold Part.hasJog
      rw [apart, list]
      rfl
    have raised : w.bus.jogTimers = s.bus.jogTimers := jogTimers_raise _ _ _ _ _
    show ((w.stopJogTimerOf c mv).recordOutcome c o mv.owner mv.tag).bus.jogTimers = _
    rw [records, same, stopJogTimerOf_eq, jogs, raised]
    unfold Part.timersAfter
    rw [empty]
    rfl
  have judges : s.fault c cause (some o) = if c = .concave then n.judgeRelief else n := fault_eq moves empty cause o
  have queued : Quiet w (s.fault c cause (some o)) := by
    rw [judges]
    have noted : Quiet w n := (Quiet.stopJogTimerOf .refl c mv).recordOutcome c o mv.owner mv.tag
    split
    · exact noted.judgeRelief
    · exact noted
  have raised (room : s.bus.queue.length < 24) : w.notified .channelFaulted (some c) cause.code 0 s.window.number :=
    raiseIn_notified u u.window.number .channelFaulted (some c) cause.code 0 room
  dsimp only
  refine ⟨?_, ?_, ?_, fun room => queued.notified (raised room), fun other => ?_, fun concave active => ?_⟩
  · rw [judges]
    split
    · rw [motionOf_of_motion (motion_judgeRelief n), rests]
    · exact rests
  · rw [judges]
    split
    · rw [entryOf_judgeRelief, entry]
    · exact entry
  · rw [judges]
    split
    · rw [jogTimers_judgeRelief, timers]
    · exact timers
  · rw [judges, if_neg other]
    exact override
  · have barred : n.reliefBarred = true := barred_of_unreferenced (by rw [← concave, rests]; rfl)
    rw [judges, if_pos concave, override_judgeRelief_barred barred (by rw [override]; exact active)]
    exact disarm_override n

/-- A move that ends STALLED: the count rises, and the third faults the channel (R112). -/
theorem stallMove_leaves (moves : (s.motionOf c).move = some mv) (plain : mv.kind.plain) (empty : (s.entryOf c).requests = []) :
    let t := s.stallMove c
    let stalls := (s.motionOf c).stallCount + 1
    t.entryOf c = { s.entryOf c with last := some ⟨.stalled, mv.owner, s.window.number⟩ }
    ∧ t.bus.jogTimers = s.timersAfter c mv
    ∧ (stalls < 3 → t.motionOf c = { (s.motionOf c).ended with stallCount := stalls } ∧ t.override = s.override)
    ∧ (3 ≤ stalls → t.motionOf c = { (s.motionOf c).faulted .stall with stallCount := stalls }
        ∧ (s.bus.queue.length < 24 → t.notified .channelFaulted (some c) 1 0 s.window.number)
        ∧ (c ≠ .concave → t.override = s.override)
        ∧ (c = .concave → s.override.relief ≠ .disarmed → t.override = Override.reset)) := by
  let u : Part := s.modMotion c fun m => { m with stallCount := (s.motionOf c).stallCount + 1 }
  have motion : u.motionOf c = { s.motionOf c with stallCount := (s.motionOf c).stallCount + 1 } := motionOf_modMotion_self _ _ _
  have moves' : (u.motionOf c).move = some mv := by rw [motion]; exact moves
  dsimp only
  unfold Part.stallMove
  by_cases third : 3 ≤ (s.motionOf c).stallCount + 1
  · obtain ⟨rests, entry, timers, notified, other, concave⟩ := fault_leaves (s := u) moves' empty .stall .stalled
    rw [motion] at rests
    dsimp only
    rw [if_pos third]
    exact ⟨entry, timers, fun few => absurd third (Nat.not_le.2 few), fun _ => ⟨rests, notified, other, concave⟩⟩
  · obtain ⟨rests, entry, timers, -, override⟩ := endMove_leaves (s := u) moves' plain .stalled
    rw [motion] at rests
    dsimp only
    rw [if_neg third]
    exact ⟨entry, timers, fun _ => ⟨rests, override⟩, fun many => absurd many third⟩

end

end Sys2Proof.Machine
end

section
/-! PROOFS. O36: HOME and SHAKE placed (R66, R115, R121), and their coast expiries (R109, R112, R116, R117, R122). -/

namespace Sys2Proof.Machine

/-! ### A move asked for a slot again (R108, R109) -/

section

variable {s : Part} {x : PosChannel} {mv : Move} {t : Int}

/-- A HOME with counts to go asks for a slot again and keeps them. -/
theorem enterWaiting_home (moves : (s.motionOf x.channel).move = some mv) (home : mv.kind = .home) (left : mv.remaining ≠ 0) :
    let u := s.enterWaiting x.channel
    u.drivesOrWaits x.channel s.slots.length
    ∧ ∃ (i : Nat) (g : Bool) (e : DriveEnd) (n : Nat), (u.motionOf x.channel).move =
        some { mv with stintCount := i, granted := g, driveEnd := e, driveTime := n } := by
  have on : s.goesOff x.channel mv = false := by
    rw [goesOff_of_home home]
    exact decide_eq_false left
  refine ⟨enterWaiting_serves_of_on moves on, ?_⟩
  rcases enterWaiting_move moves with ⟨-, waits⟩ | ⟨-, e, n, runs⟩
  · exact ⟨_, _, _, _, waits⟩
  · rw [granted_of_home home] at runs
    exact ⟨_, _, e, n, runs⟩

/-- A move with a target that enters WAITING keeps what it is and where it goes. -/
theorem enterWaiting_target (moves : (s.motionOf x.channel).move = some mv) (jog : mv.kind ≠ .jog) (home : mv.kind ≠ .home)
    (aimed : mv.target = some t) : ∃ (i k : Nat) (w : Option Direction) (g : Bool) (e : DriveEnd) (n : Nat),
    ((s.enterWaiting x.channel).motionOf x.channel).move =
      some { mv with stintCount := i, remaining := k, direction := w, granted := g, driveEnd := e, driveTime := n } := by
  rcases enterWaiting_move moves with ⟨-, waits⟩ | ⟨-, e, n, runs⟩
  · exact ⟨_, _, _, _, _, _, waits⟩
  · rw [granted_of_target jog home aimed] at runs
    exact ⟨_, _, _, _, e, n, runs⟩

/-- What a move stopped with work left, away from its target, is while it goes on. -/
theorem enterWaiting_left (moves : (s.motionOf x.channel).move = some mv) (jog : mv.kind ≠ .jog) (home : mv.kind ≠ .home)
    (aimed : mv.target = some t) (base : mv.base ≠ 0) (away : t ≠ (s.motionOf x.channel).position) :
    let u := s.enterWaiting x.channel
    u.drivesOrWaits x.channel s.slots.length
    ∧ ∃ (i k : Nat) (w : Option Direction) (g : Bool) (e : DriveEnd) (n : Nat), (u.motionOf x.channel).move =
        some { mv with stintCount := i, remaining := k, direction := w, granted := g, driveEnd := e, driveTime := n }
      ∧ k = (if s.slots.length < 2 then min mv.base (distance t (s.motionOf x.channel).position) else mv.remaining) := by
  obtain ⟨serves, move⟩ := enterWaiting_aimed moves jog home aimed base away
  refine ⟨serves, ?_⟩
  rcases move with ⟨full, waits⟩ | ⟨room, e, n, runs⟩
  · exact ⟨_, _, _, _, _, _, waits, (if_neg (Nat.not_lt.2 full)).symm⟩
  · exact ⟨_, _, _, _, e, n, runs, (if_pos room).symm⟩

/-! ### The judgement of a target (R108, R109, R112) -/

theorem targetCoastEnds_stalled (stalled : mv.driveEnd = .stall) : s.targetCoastEnds x mv = s.stallMove x.channel := if_pos stalled

theorem targetCoastEnds_terminal (free : mv.driveEnd ≠ .stall) (done : mv.remaining = 0) (aimed : mv.target = some t) :
    s.targetCoastEnds x mv = s.judgeTarget x mv t := by
  unfold Part.targetCoastEnds
  dsimp only
  rw [if_neg free, if_pos done, aimed]
  rfl

theorem targetCoastEnds_left (free : mv.driveEnd ≠ .stall) (left : mv.remaining ≠ 0) (aimed : mv.target = some t) :
    s.targetCoastEnds x mv = if distance t (s.motionOf x.channel).position ≤ s.deadbandCounts x then s.completeMove x.channel .complete
      else s.enterWaiting x.channel := by
  unfold Part.targetCoastEnds
  dsimp only
  rw [if_neg free, if_neg left, aimed]
  rfl

theorem judgeTarget_within (within : distance t (s.motionOf x.channel).position ≤ s.deadbandCounts x) :
    s.judgeTarget x mv t = s.completeMove x.channel .complete := if_pos within

theorem judgeTarget_off (beyond : s.deadbandCounts x < distance t (s.motionOf x.channel).position) (corrected : mv.corrected = true) :
    s.judgeTarget x mv t = s.completeMove x.channel .completeOff :=
  (if_neg (Nat.not_le.2 beyond)).trans (if_pos corrected)

/-- The one correction of a move off its target. -/
theorem judgeTarget_again (jog : mv.kind ≠ .jog) (home : mv.kind ≠ .home)
    (beyond : s.deadbandCounts x < distance t (s.motionOf x.channel).position) (first : mv.corrected = false) :
    let u := s.judgeTarget x mv t
    let off := distance t (s.motionOf x.channel).position
    Drives s u ∧ u.drivesOrWaits x.channel s.slots.length
    ∧ ∃ mv', (u.motionOf x.channel).move = some mv' ∧ mv'.kind = mv.kind ∧ mv'.corrected = true ∧ mv'.target = some t
      ∧ mv'.base = off ∧ mv'.remaining = off := by
  let again : Move := { mv.aim (s.motionOf x.channel).position t with corrected := true }
  have judges : s.judgeTarget x mv t = (s.holding x.channel again).enterWaiting x.channel :=
    (if_neg (Nat.not_le.2 beyond)).trans (if_neg (by rw [first]; decide))
  have away : t ≠ (s.motionOf x.channel).position := fun there => by
    rw [distance_eq_zero_iff.2 there] at beyond
    exact absurd beyond (Nat.not_lt_zero _)
  have position := holding_position s x.channel again
  obtain ⟨serves, i, k, w, g, e, n, moves, least⟩ := enterWaiting_left (s := s.holding x.channel again) (mv := again) (t := t)
    (holding_move s x.channel again) jog home rfl (distance_ne_zero away) (by rw [position]; exact away)
  have counts : k = distance t (s.motionOf x.channel).position := by
    rw [least, position, show again.base = distance t _ from rfl, min_self]
    exact ite_self _
  dsimp only
  rw [judges]
  exact ⟨((Drives.refl s).holding x.channel again).enterWaiting _, serves, _, moves, rfl, rfl, rfl, rfl, counts⟩

end

/-! ### The end of a HOME (R116, R117) -/

/-- A HOME that has found its stop. -/
theorem homeSucceeds_leaves {s : Part} {x : PosChannel} {mv : Move} (moves : (s.motionOf x.channel).move = some mv)
    (plain : mv.kind.plain) : let t := s.homeSucceeds x
    t.motionOf x.channel = { (s.motionOf x.channel).ended with
      position := s.countsOf x (s.cal.pos.get x).homeValue, referenced := true, strayCount := 0, stallCount := 0, standing := none }
    ∧ t.entryOf x.channel = { s.entryOf x.channel with last := some ⟨.complete, mv.owner, s.window.number⟩ }
    ∧ (s.bus.queue.length < 24 →
        t.notified .homed (some x.channel) 0 (BitVec.ofInt 16 (s.motionOf x.channel).position).toNat s.window.number) := by
  let u : Part := s.modMotion x.channel fun m => { m with
    position := s.countsOf x (s.cal.pos.get x).homeValue, referenced := true, strayCount := 0, stallCount := 0, standing := none }
  let w : Part := u.raise .homed (some x.channel) 0 (detail16 (s.motionOf x.channel).position)
  let n : Part := w.endMove x.channel .complete
  have motion : w.motionOf x.channel = u.motionOf x.channel := motionOf_of_motion (by simp [w]) _
  have moves' : (w.motionOf x.channel).move = some mv := by
    rw [motion, motionOf_modMotion_self]
    exact moves
  obtain ⟨rests, entry, -⟩ := endMove_leaves moves' plain .complete
  have book : w.entryOf x.channel = s.entryOf x.channel := entryOf_of_book (by simp [w, u]) _
  have number : w.window.number = s.window.number := by simp [w, u]
  rw [motion, motionOf_modMotion_self] at rests
  rw [book, number] at entry
  have succeeds : s.homeSucceeds x = if x.channel = .concave then n.judgeRelief else n := rfl
  have queued : Quiet w (s.homeSucceeds x) := by
    rw [succeeds]
    have ended : Quiet w n := Quiet.endMove .refl x.channel .complete
    split
    · exact ended.judgeRelief
    · exact ended
  dsimp only
  refine ⟨?_, ?_, fun room => queued.notified (raiseIn_notified u u.window.number .homed (some x.channel) 0 _ room)⟩
  · rw [succeeds]
    split
    · rw [motionOf_of_motion (motion_judgeRelief n)]
      exact rests
    · exact rests
  · rw [succeeds]
    split
    · rw [entryOf_judgeRelief]
      exact entry
    · exact entry

end Sys2Proof.Machine
end

section
/-! PROOFS. O36, assembled. -/

namespace Sys2Proof.Machine

section

variable {p : Part} {h : FrameHeader} {source : Byte} {f : SettingFields} {c : Channel}

/-- The part as an accepted HOME or SHAKE finds it when it is placed. -/
def Part.replied (p : Part) (dt : Nat) (source : Byte) (f : SettingFields) (r : Result) (v : Word) : Part :=
  (p.later dt).answered source 0x01 f.tag r f.channel v

theorem framed_replied (p : Part) (dt : Nat) (source : Byte) (f : SettingFields) (r : Result) (v : Word) (c : Channel) :
    Framed c (p.later dt) (p.replied dt source f r v) := framed_answered _ c _ _ _ _ _ _

/-- A HOME that passes its checks on a channel without a move. -/
theorem exec_home_placed (asks : p.asks h source f c) (q : List Instr) (dt : Nat) (passes : p.refusalOf c .home f.value.toInt = none)
    (admitted : p.outranks c (senderOf source) = false) : exec (.home dt h f) ⟨p, q⟩ =
      .next ⟨((p.replied dt source f .accepted f.value).place c (p.asked source f .home)).1, q⟩ := by
  refine (exec_settingCommand_of_asks (k := .home) asks q dt (.inr passes)).trans ?_
  unfold Part.placeSetting Part.placeHome
  dsimp only
  rewrite [placeRequest_accepted (s := p.later dt) (senderOf_commands source) admitted _ _ _ _ (reply_setting _ _ _ _ _)]
  rfl

/-- The answer to a SHAKE (R66). -/
def Part.shakeReplied (p : Part) (dt : Nat) (source : Byte) (f : SettingFields) : Part :=
  let amplitude := clamp 5 100 f.value.toInt
  let cycles := clampNat 1 15 f.cycles.toNat
  if amplitude ≠ f.value.toInt then p.replied dt source f .acceptedClamped (BitVec.ofInt 16 amplitude)
  else if cycles ≠ f.cycles.toNat then p.replied dt source f .acceptedClamped (BitVec.ofNat 16 cycles)
  else p.replied dt source f .accepted f.value

/-- The entry that a SHAKE is taken as. -/
def Part.shakeAsked (p : Part) (source : Byte) (f : SettingFields) : Entry :=
  p.asked source f (.shake (clamp 5 100 f.value.toInt).toNat (clampNat 1 15 f.cycles.toNat))

theorem shakeReplied_cases (p : Part) (dt : Nat) (source : Byte) (f : SettingFields) :
    ∃ (r : Result) (v : Word), p.shakeReplied dt source f = p.replied dt source f r v := by
  unfold Part.shakeReplied
  dsimp only
  split
  · exact ⟨_, _, rfl⟩
  · split <;> exact ⟨_, _, rfl⟩

theorem exec_shake_placed (asks : p.asks h source f c) (q : List Instr) (dt : Nat) (passes : p.refusalOf c .shake f.value.toInt = none)
    (admitted : p.outranks c (senderOf source) = false) : exec (.shake dt h f) ⟨p, q⟩ =
      .next ⟨((p.shakeReplied dt source f).place c (p.shakeAsked source f)).1, q⟩ := by
  refine (exec_settingCommand_of_asks (k := .shake) asks q dt (.inr passes)).trans ?_
  unfold Part.placeSetting Part.placeShake
  dsimp only
  have answers : (p.later dt).replyAccepted (settingAsked source f) f.value
      (if clamp 5 100 f.value.toInt ≠ f.value.toInt then BitVec.ofInt 16 (clamp 5 100 f.value.toInt)
        else BitVec.ofNat 16 (clampNat 1 15 f.cycles.toNat))
      (clamp 5 100 f.value.toInt ≠ f.value.toInt || clampNat 1 15 f.cycles.toNat ≠ f.cycles.toNat) = p.shakeReplied dt source f := by
    unfold Part.replyAccepted Part.shakeReplied Part.replied
    simp only [reply_setting]
    by_cases amplitude : clamp 5 100 f.value.toInt = f.value.toInt
    · by_cases cycles : clampNat 1 15 f.cycles.toNat = f.cycles.toNat <;> simp [amplitude, cycles]
    · simp [amplitude]
  rewrite [placeRequest_accepted (s := p.later dt) (senderOf_commands source) admitted _ _ _ _ answers]
  obtain ⟨r, v, is⟩ := shakeReplied_cases p dt source f
  rw [is]
  rfl

theorem admits_of_none (still : (p.motionOf c).move = none) (r : Requester) : p.outranks c r = false := by
  rw [outranks_eq_false_iff]
  intro _ mv moves
  rw [still] at moves
  exact absurd moves (by simp)

theorem refusalOf_home {x : PosChannel} (valid : p.store.activeCal.valid = true) (v : Int) : p.refusalOf x.channel .home v = none := by
  rw [refusalOf_of_sound (fun bad => channel_mem_positional x bad.2) (by simp [Part.refusesFaulted, valid])]
  simp

theorem refusalOf_shake {x : PosChannel} (sound : ∀ cause, (p.motionOf x.channel).phase ≠ .faulted cause)
    (referenced : (p.motionOf x.channel).referenced = true) (v : Int) : p.refusalOf x.channel .shake v = none := by
  rw [refusalOf_of_sound (fun bad => channel_mem_positional x bad.2) (by simpa [Part.refusesFaulted] using sound)]
  simp [referenced]

/-- An entry that the take rule hands at once, placed on a channel without a move. -/
theorem place_ready {s : Part} {e : Entry} (runs : s.shutdown = none) (still : (s.motionOf c).move = none)
    (free : s.freeFor c e.kind = true) (empty : (s.entryOf c).requests = []) (commands : e.requester.commands)
    (ready : s.readyFor c e) : (s.place c e).1 = s.takeEntry c e := by
  rw [place_of_free runs still free empty]
  exact (takeHead_ready (s := s.listedAlone c e) (commands.fresh _) ready).trans (congrArg (·.takeEntry c e) (cleared_alone empty e))

theorem takeEntry_home {s : Part} {e : Entry} (x : PosChannel) (home : e.kind = .home) :
    s.takeEntry x.channel e = s.handHome x e.requester e.tag := by
  unfold Part.takeEntry
  rewrite [home, kind_channel]
  rfl

theorem takeEntry_shake {s : Part} {e : Entry} (x : PosChannel) {a n : Nat} (shake : e.kind = .shake a n) :
    s.takeEntry x.channel e = s.handShake x e.requester a n e.tag := by
  unfold Part.takeEntry
  rewrite [shake, kind_channel]
  rfl

/-- A channel FAULTED without a move is free for a HOME (R68). -/
theorem freeFor_home_of_faulted {s : Part} {c : Channel} {cause : FaultCause} (faulted : (s.motionOf c).phase = .faulted cause)
    (still : (s.motionOf c).move = none) (relief : c = .concave → s.override.relief.blocks = false) : s.freeFor c .home = true := by
  have apart : s.blocked c = false := by
    unfold Part.blocked
    rewrite [faulted, still]
    by_cases concave : c = .concave
    · simp [concave, relief concave]
    · simp [concave]
  unfold Part.freeFor Part.isFaulted
  rw [apart, faulted]
  rfl

end

/-! ### A SHAKE handed over (R121) -/

/-- The way of a SHAKE's first half: outward, away from the envelope's maximum where it does not fit. -/
def Part.shakeWay (s : Part) (x : PosChannel) (counts : Nat) : Direction :=
  if unitsToCounts (s.cal.pos.get x).cal16 (s.envelope x.channel).max < (s.motionOf x.channel).position + (counts : Int) then .down else .up

/-- A SHAKE as it is handed over. -/
def Part.newShake (s : Part) (x : PosChannel) (r : Requester) (counts cycles : Nat) (tag : Option Byte) : Move :=
  let start := (s.motionOf x.channel).position
  let half := clampCount (start + (s.shakeWay x counts).sign * (counts : Int))
  { Move.blank (.request r) .shake .whole tag with
    target := some half, direction := some (s.shakeWay x counts), base := counts, remaining := counts
    shakeStart := start, shakeOut := half, shakeAmplitude := counts, halfMoves := 2 * cycles }

theorem clampNat_pos (n : Nat) : 1 ≤ clampNat 1 65535 n := by
  unfold clampNat
  split_ifs <;> omega

theorem newShake_flies {s : Part} {x : PosChannel} {r : Requester} (commands : r.commands)
    (still : (s.motionOf x.channel).phase ≠ .coasting) (a cycles : Nat) (tag : Option Byte) :
    let counts := clampNat 1 65535 (unitsToCounts (s.cal.pos.get x).cal16 (a : Int)).toNat
    let start := (s.motionOf x.channel).position
    let out := start + (s.shakeWay x counts).sign * (counts : Int)
    clampCount out = out →
    let t := s.handShake x r a cycles tag
    Drives s t ∧ t.drivesOrWaits x.channel s.slots.length
    ∧ ∃ mv, (t.motionOf x.channel).move = some mv ∧ mv.kind = .shake ∧ mv.owner = .request r ∧ mv.tag = tag ∧ mv.target = some out
      ∧ mv.remaining = counts ∧ mv.halfMoves = 2 * cycles ∧ mv.shakeStart = start := by
  intro counts start out within t
  let mv : Move := s.newShake x r counts cycles tag
  have positive : 1 ≤ counts := clampNat_pos _
  have target : mv.target = some out := congrArg some within
  have far : distance out start = counts := by
    unfold distance
    show (start + (s.shakeWay x counts).sign * (counts : Int) - start).natAbs = counts
    cases s.shakeWay x counts <;> simp only [Direction.sign] <;> omega
  have away : out ≠ start := fun there => by
    rw [distance_eq_zero_iff.2 there] at far
    omega
  have hands : t = (s.holding x.channel mv).enterWaiting x.channel :=
    hand_waits (s := s) (mv := mv) (.inl commands.rank) still fun _ _ => Nat.pos_iff_ne_zero.1 positive
  have position := holding_position s x.channel mv
  obtain ⟨serves, i, k, w, g, e, n, moves, least⟩ := enterWaiting_left (s := s.holding x.channel mv) (holding_move s x.channel mv)
    MoveKind.noConfusion MoveKind.noConfusion target (Nat.pos_iff_ne_zero.1 positive) (by rw [position]; exact away)
  have remaining : k = counts := by
    rw [least, position, show distance out (s.motionOf x.channel).position = counts from far]
    exact (ite_congr rfl (fun _ => min_self counts) fun _ => rfl).trans (ite_self counts)
  rw [hands]
  exact ⟨((Drives.refl s).holding x.channel mv).enterWaiting _, serves, _, moves, rfl, rfl, rfl, target, remaining, rfl, rfl⟩

end Sys2Proof.Machine
end

section
/-! PROOFS. O36: HOME and SHAKE start, and end at their coast expiries. -/

namespace Sys2Proof.Machine

theorem shakeWay_out (s : Part) (x : PosChannel) (counts : Nat) :
    (s.motionOf x.channel).position + (s.shakeWay x counts).sign * (counts : Int) =
      if unitsToCounts (s.cal.pos.get x).cal16 (s.envelope x.channel).max < (s.motionOf x.channel).position + (counts : Int) then
        (s.motionOf x.channel).position - counts
      else (s.motionOf x.channel).position + counts := by
  unfold Part.shakeWay
  split <;> simp only [Direction.sign] <;> omega

theorem clampCount_of_range {n : Int} (high : n ≤ 32767) (low : -32768 ≤ n) : clampCount n = n := clamp_of_range ⟨low, high⟩

theorem plain_of_home_or_shake {mv : Move} (kind : mv.kind = .home ∨ mv.kind = .shake) : mv.kind.plain := by
  rcases kind with kind | kind <;> rw [kind] <;> exact ⟨by decide, by decide⟩

theorem reliefWaits_of_kind {s : Part} {c : Channel} {mv : Move} (moves : (s.motionOf c).move = some mv) (kind : mv.kind ≠ .relief) :
    s.reliefWaits c = false := by
  unfold Part.reliefWaits
  rw [moves]
  simp [kind]

theorem Drives.book {s t : Part} (h : Drives s t) : t.book = s.book := by
  obtain ⟨motion, slots, rankOrder, shifted, rfl⟩ := h
  rfl

theorem shakeCoastEnds_next {s : Part} {x : PosChannel} {mv : Move} (free : mv.driveEnd ≠ .stall) (done : mv.remaining = 0)
    (more : 1 < mv.halfMoves) : s.shakeCoastEnds x mv = (s.holding x.channel { mv with
      halfMoves := mv.halfMoves - 1
      direction := mv.direction.map Direction.flip
      target := some (if mv.halfMoves % 2 = 0 then mv.shakeStart else mv.shakeOut)
      base := mv.shakeAmplitude
      remaining := mv.shakeAmplitude }).enterWaiting x.channel := if_pos ⟨free, done, more⟩

theorem shakeCoastEnds_judged {s : Part} {x : PosChannel} {mv : Move} (last : ¬(mv.driveEnd ≠ .stall ∧ mv.remaining = 0 ∧ 1 < mv.halfMoves)) :
    s.shakeCoastEnds x mv = s.targetCoastEnds x mv := if_neg last

end Sys2Proof.Machine

open Sys2Proof Sys2Proof.Machine

/-- Settles O36: the two placed, and the coast expiry of each case by case. -/
theorem homeAndShakeStartTheirMoves : Obligations.HomeAndShakeStartTheirMoves := by
  refine ⟨fun p q dt h source f x sends received runs named => ?start, fun p q x first d mv => ?coast⟩
  case start =>
    have asks : p.asks h source f x.channel := ⟨sends, received, runs, named⟩
    dsimp only
    refine ⟨fun valid travel stands => ?home, fun free referenced high low => ?shake⟩
    case home =>
      let s : Part := p.replied dt source f .accepted f.value
      let e : Entry := p.asked source f .home
      have commands : e.requester.commands := senderOf_commands source
      have ready : (p.motionOf x.channel).move = none ∧ (p.motionOf x.channel).phase ≠ .coasting ∧ p.freeFor x.channel .home = true
          ∧ (p.entryOf x.channel).requests = [] := by
        rcases stands with free | ⟨cause, faulted, still, relief, empty⟩
        · exact ⟨free.2.1, by rw [free.1]; decide, freeFor_of_standsFree free _, free.2.2.2⟩
        · exact ⟨still, by rw [faulted]; exact Phase.noConfusion, freeFor_home_of_faulted faulted still relief, empty⟩
      obtain ⟨still, apart, free, empty⟩ := ready
      have takes : (s.place x.channel e).1 = s.handHome x (senderOf source) (some f.tag) :=
        (place_ready (s := s) (e := e) runs still free empty commands (readyFor_positional (.inr rfl))).trans (takeEntry_home x rfl)
      obtain ⟨drives, serves, body, -, i, g, d, n, moves⟩ := handHome_flies (s := s) (x := x) (tag := some f.tag)
        (senderOf_commands source) apart travel
      have goes := exec_home_placed asks q dt (refusalOf_home valid _) (admits_of_none still _)
      have frame : Framed x.channel (p.later dt) (s.place x.channel e).1 := (framed_replied ..).trans (place_framed s _ e)
      have quiet : Quiet s (s.place x.channel e).1 := Quiet.place .refl x.channel e
      rw [motionOf_homing] at body
      obtain ⟨-, -, position, referenced, standing⟩ := Motion.body_eq_iff.1 body
      have entry : (s.handHome x (senderOf source) (some f.tag)).entryOf x.channel = p.entryOf x.channel := by
        rw [entryOf_drives drives, entryOf_homing]
        rfl
      rw [takes] at goes frame quiet
      refine ⟨_, _, goes, ⟨frame.now, frame.entries, by rw [entry], by rw [entry]; exact empty, frame.store, frame.capture, frame.lines,
        frame.power.trans received.1, frame.service, frame.number, frame.history⟩, referenced, position, fun cause faulted => ?_, moves,
        rfl, rfl, rfl, rfl, rfl, rfl, serves.1, serves.2, fun room => reply_stays (s := p.later dt) quiet room⟩
      rw [standing]
      unfold Motion.homing
      rw [show (s.motionOf x.channel).phase = .faulted cause from faulted]
    case shake =>
      obtain ⟨r, v, is⟩ := shakeReplied_cases p dt source f
      let s : Part := p.replied dt source f r v
      let e : Entry := p.shakeAsked source f
      have commands : e.requester.commands := senderOf_commands source
      have apart : (s.motionOf x.channel).phase ≠ .coasting := fun coasts => Phase.noConfusion (free.1.symm.trans coasts)
      have takes : (s.place x.channel e).1 = s.handShake x (senderOf source) (clamp 5 100 f.value.toInt).toNat
          (clampNat 1 15 f.cycles.toNat) (some f.tag) :=
        (place_ready (s := s) (e := e) runs free.2.1 (freeFor_of_standsFree (s := p) free _) free.2.2.2 commands
          (readyFor_positional (.inl referenced))).trans (takeEntry_shake x rfl)
      have amplitude : (((clamp 5 100 f.value.toInt).toNat : Nat) : Int) = clamp 5 100 f.value.toInt :=
        Int.toNat_of_nonneg (by have least := (clamp_range (a := 5) (b := 100) (by decide) f.value.toInt).1; omega)
      have goes := exec_shake_placed asks q dt (refusalOf_shake (standsFree_sound free) referenced _) (standsFree_admits free _)
      have flies := newShake_flies (s := s) (x := x) (senderOf_commands source) apart (clamp 5 100 f.value.toInt).toNat
        (clampNat 1 15 f.cycles.toNat) (some f.tag)
      dsimp only at flies
      rw [shakeWay_out, amplitude] at flies
      obtain ⟨drives, serves, mv, moves, kind, owner, tag, target, remaining, halves, start⟩ := flies (clampCount_of_range high low)
      have frame : Framed x.channel (p.later dt) (s.place x.channel e).1 := (framed_replied ..).trans (place_framed s _ e)
      rw [is] at goes
      rw [takes] at frame
      have entry : (s.handShake x (senderOf source) (clamp 5 100 f.value.toInt).toNat (clampNat 1 15 f.cycles.toNat)
          (some f.tag)).entryOf x.channel = p.entryOf x.channel := entryOf_drives drives _
      refine ⟨_, mv, goes.trans (congrArg (fun t => Host.Outcome.next (State.mk t q)) takes), ⟨frame.now, frame.entries, by rw [entry],
        by rw [entry]; exact free.2.2.2, frame.store, frame.capture, frame.lines, frame.power.trans received.1, frame.service,
        frame.number, frame.history⟩, drives.bus.trans (congrArg Part.bus is.symm), moves, kind, owner, tag, target, remaining, halves,
        start, serves.1, serves.2⟩
  case coast =>
    intro c m on coasts moves own empty kind ended
    let u : Part := (p.atTime d).coasted x.channel
    let t : Part := ((p.atTime d).coastEnds x).preemptUnless first x.channel
    have plain := plain_of_home_or_shake kind
    have frame : Framed x.channel (p.atTime d) t := framed_coastEnds ..
    have movesU : (u.motionOf x.channel).move = some mv := coasted_move (s := p.atTime d) moves
    have motionU : u.motionOf x.channel = { m with coastEndsAt := none } := motionOf_coasted
    obtain ⟨homes, -, shakes, -⟩ := coastEnds_of_move (s := p.atTime d) moves own
    have setpoint : (t.entryOf x.channel).setpoint = (p.entryOf x.channel).setpoint := by
      have silent : Local Nobody False x.channel (p.atTime d) ((p.atTime d).coastEnds x) := (Local.refl _).coastEnds fun mv' moves' jog => by
        obtain rfl := Option.some.inj (moves.symm.trans moves')
        rcases kind with kind | kind <;> exact absurd (kind.symm.trans jog) (by decide)
      rw [entryOf_drives ((Drives.refl _).preemptUnless first x.channel)]
      exact (silent.setpoint id).1
    have steps {v : Part} (is : (p.atTime d).coastEnds x = v) (calm : v.reliefWaits x.channel = false) : t = v := by
      rw [← is] at calm
      exact (preemptUnless_of_calm calm first).trans is
    have closes {v : Part} {o : OutcomeCode} (gone : (v.motionOf x.channel).move = none)
        (entry : v.entryOf x.channel = { p.entryOf x.channel with last := some ⟨o, mv.owner, p.window.number⟩ }) : ended v o :=
      ⟨gone, congrArg BookEntry.last entry⟩
    have position : (u.motionOf x.channel).position = m.position := by rw [motionU]
    refine ⟨t, exec_coastTimerExpiry_of_nil on coasts empty q first, frame.now, frame.entries, setpoint, frame.store, frame.capture,
      frame.lines, frame.number, frame.history, fun home stalled => ?found, fun home free done => ?failed, fun home free left => ?again,
      fun shake free done more => ?next, fun target shake free done last aimed => ?judged, fun shake stalled => ?stalled,
      fun target shake free left aimed => ?left⟩
    case found =>
      obtain ⟨rests, entry, notified⟩ := homeSucceeds_leaves (s := u) movesU plain
      rw [motionU] at rests notified
      have gone : ((u.homeSucceeds x).motionOf x.channel).move = none := by rw [rests]; rfl
      rw [steps ((homes home).trans (if_pos stalled)) (reliefWaits_of_none gone), rests]
      exact ⟨closes gone entry, rfl, rfl, rfl, rfl, rfl, rfl, notified⟩
    case failed =>
      obtain ⟨rests, entry, -, notified, -⟩ := fault_leaves (s := u) movesU empty .homeFailed .faulted
      have gone : ((u.fault x.channel .homeFailed (some .faulted)).motionOf x.channel).move = none := by rw [rests]; rfl
      rw [steps ((homes home).trans ((if_neg free).trans (if_pos done))) (reliefWaits_of_none gone), rests]
      exact ⟨closes gone entry, rfl, rfl, notified⟩
    case again =>
      obtain ⟨serves, i, g, e, n, moves'⟩ := enterWaiting_home movesU home left
      rw [steps ((homes home).trans ((if_neg free).trans (if_neg left))) (reliefWaits_of_kind moves' (by rw [home]; decide))]
      exact ⟨serves, ((Drives.refl u).enterWaiting x.channel).book, _, moves', home, rfl, rfl⟩
    case next =>
      let half : Move := { mv with
        halfMoves := mv.halfMoves - 1
        direction := mv.direction.map Direction.flip
        target := some (if mv.halfMoves % 2 = 0 then mv.shakeStart else mv.shakeOut)
        base := mv.shakeAmplitude
        remaining := mv.shakeAmplitude }
      obtain ⟨i, k, w, g, e, n, moves'⟩ := enterWaiting_target (holding_move u x.channel half) (by rw [show half.kind = _ from shake]; decide)
        (by rw [show half.kind = _ from shake]; decide) rfl
      rw [steps ((shakes shake).trans (shakeCoastEnds_next free done more)) (reliefWaits_of_kind moves' (by rw [shake]; decide))]
      exact ⟨(((Drives.refl u).holding x.channel half).enterWaiting x.channel).book, (enterWaiting_phase (holding_move u x.channel half)).1,
        _, moves', shake, rfl, rfl, rfl⟩
    case judged =>
      have judges : (p.atTime d).coastEnds x = u.judgeTarget x mv target := (shakes shake).trans
        ((shakeCoastEnds_judged (fun more => absurd more.2.2 (Nat.not_lt.2 last))).trans (targetCoastEnds_terminal free done aimed))
      have completes (o : OutcomeCode) (is : u.judgeTarget x mv target = u.completeMove x.channel o) :
          ended t o ∧ (t.motionOf x.channel).phase = .idle := by
        obtain ⟨rests, entry, -⟩ := completeMove_leaves (s := u) movesU plain o
        have gone : ((u.completeMove x.channel o).motionOf x.channel).move = none := by rw [rests]; rfl
        rw [steps (judges.trans is) (reliefWaits_of_none gone), rests]
        exact ⟨closes gone entry, rfl⟩
      have jog : mv.kind ≠ .jog := by rw [shake]; decide
      have home : mv.kind ≠ .home := by rw [shake]; decide
      dsimp only
      rw [← position]
      refine ⟨fun within => completes .complete (judgeTarget_within within),
        fun beyond corrected => completes .completeOff (judgeTarget_off beyond corrected), fun beyond fresh => ?_⟩
      obtain ⟨-, serves, mv', moves', same, corrected, target', -⟩ := judgeTarget_again (s := u) jog home beyond fresh
      rw [steps judges (reliefWaits_of_kind moves' (by rw [same, shake]; decide))]
      exact ⟨serves, mv', moves', target', corrected⟩
    case stalled =>
      obtain ⟨entry, -, few, many⟩ := stallMove_leaves (s := u) movesU plain empty
      have is : (p.atTime d).coastEnds x = u.stallMove x.channel := (shakes shake).trans
        ((shakeCoastEnds_judged (fun more => absurd stalled more.1)).trans (targetCoastEnds_stalled stalled))
      rw [motionU] at few many
      refine ⟨fun less => ?_, fun third => ?_⟩
      · obtain ⟨rests, override⟩ := few less
        have gone : ((u.stallMove x.channel).motionOf x.channel).move = none := by rw [rests]; rfl
        rw [steps is (reliefWaits_of_none gone), rests]
        exact ⟨closes gone entry, rfl, rfl, rfl, rfl, override⟩
      · obtain ⟨rests, notified, other, concave⟩ := many third
        have gone : ((u.stallMove x.channel).motionOf x.channel).move = none := by rw [rests]; rfl
        rw [steps is (reliefWaits_of_none gone), rests]
        exact ⟨closes gone entry, rfl, rfl, rfl, notified, other, concave⟩
    case left =>
      have judges := (shakes shake).trans ((shakeCoastEnds_judged (fun more => absurd more.2.1 left)).trans
        (targetCoastEnds_left (s := u) free left aimed))
      dsimp only
      rw [← position]
      refine ⟨fun within => ?_, fun beyond base => ?_⟩
      · obtain ⟨rests, entry, -⟩ := completeMove_leaves (s := u) movesU plain .complete
        have gone : ((u.completeMove x.channel .complete).motionOf x.channel).move = none := by rw [rests]; rfl
        rw [steps (judges.trans (if_pos within)) (reliefWaits_of_none gone), rests]
        exact ⟨closes gone entry, rfl, rfl⟩
      · have away : target ≠ (u.motionOf x.channel).position := fun there => by
          rw [distance_eq_zero_iff.2 there] at beyond
          exact absurd beyond (Nat.not_lt_zero _)
        obtain ⟨serves, i, k, w, g, e, n, moves', least⟩ := enterWaiting_left (s := u) movesU (by rw [shake]; decide)
          (by rw [shake]; decide) aimed (Nat.pos_iff_ne_zero.1 base) away
        rw [steps (judges.trans (if_neg (Nat.not_le.2 beyond))) (reliefWaits_of_kind moves' (by rw [shake]; decide))]
        exact ⟨serves, ((Drives.refl u).enterWaiting x.channel).book, _, moves', shake, aimed, rfl, rfl, rfl,
          fun room => least.trans (if_pos room)⟩

end

section
/-! PROOFS. What the take rule cannot do to a channel: list an entry, or start its jog refresh timer (R72, R175). -/

namespace Sys2Proof.Machine

/-- Work on a channel that lists nothing new and starts no refresh timer: its timer, once stopped, stays so. -/
structure Sheds (c : Channel) (s t : Part) : Prop where
  timers : s.bus.jogTimers.get c = none → t.bus.jogTimers = s.bus.jogTimers
  requests : ∀ e ∈ (t.entryOf c).requests, e ∈ (s.entryOf c).requests

section

variable {c : Channel} {s0 s t : Part}

theorem Sheds.refl (c : Channel) (s : Part) : Sheds c s s := ⟨fun _ => rfl, fun _ mem => mem⟩

theorem Sheds.trans (h : Sheds c s0 s) (k : Sheds c s t) : Sheds c s0 t where
  timers stopped := by
    have same := h.timers stopped
    rw [k.timers (by rw [same]; exact stopped), same]
  requests e mem := h.requests e (k.requests e mem)

theorem Sheds.other (h : Sheds c s0 s) (timers : t.bus.jogTimers = s.bus.jogTimers)
    (requests : (t.entryOf c).requests = (s.entryOf c).requests) : Sheds c s0 t :=
  h.trans ⟨fun _ => timers, fun e mem => by rw [← requests]; exact mem⟩

theorem Sheds.drives (h : Sheds c s0 s) (drives : Drives s t) : Sheds c s0 t :=
  h.other (congrArg Bus.jogTimers drives.bus) (congrArg BookEntry.requests (entryOf_drives drives c))

theorem Sheds.modMotion (h : Sheds c s0 s) (f : Motion → Motion) : Sheds c s0 (s.modMotion c f) := h.other rfl rfl

/-- A list written with entries of the list it replaces. -/
theorem Sheds.list (h : Sheds c s0 s) {l : List Entry} (fewer : ∀ e ∈ l, e ∈ (s.entryOf c).requests) :
    Sheds c s0 (s.modBook c fun b => { b with requests := l }) :=
  h.trans ⟨fun _ => rfl, fun e mem => fewer e (by rw [entryOf_modBook_self] at mem; exact mem)⟩

theorem Sheds.raise (h : Sheds c s0 s) (e : Event) (d : Option Channel) (d8 d16 : Nat) : Sheds c s0 (s.raise e d d8 d16) :=
  h.other (jogTimers_raise s e d d8 d16) (by rw [entryOf_of_book (s := s) (by simp)])

theorem Sheds.judgeRelief (h : Sheds c s0 s) : Sheds c s0 s.judgeRelief :=
  h.other (jogTimers_judgeRelief s) (by rw [entryOf_judgeRelief])

/-! ### Outcomes and setpoints -/

theorem Sheds.recordOutcome (h : Sheds c s0 s) (o : OutcomeCode) (owner : Owner) (tag : Option Byte) :
    Sheds c s0 (s.recordOutcome c o owner tag) := by
  obtain ⟨bus, timers, is⟩ := recordOutcome_eq s c o owner tag
  refine h.other ?_ (by rw [entryOf_recordOutcome])
  rw [is]
  exact timers

theorem Sheds.stopJogTimer (h : Sheds c s0 s) : Sheds c s0 (s.stopJogTimer c) := by
  refine h.trans ⟨fun stopped => ?_, fun e mem => by rw [entryOf_stopJogTimer] at mem; exact mem⟩
  unfold Part.stopJogTimer
  split
  · rfl
  · refine PerChannel.ext_get fun d => ?_
    show (s.bus.jogTimers.set c none).get d = _
    rw [PerChannel.get_set]
    split
    case isTrue same => rw [same, stopped]
    case isFalse => rfl

theorem Sheds.stopJogTimerOf (h : Sheds c s0 s) (m : Move) : Sheds c s0 (s.stopJogTimerOf c m) := by
  unfold Part.stopJogTimerOf
  split
  · exact h.stopJogTimer
  · exact h

theorem Sheds.endEntry (h : Sheds c s0 s) (o : OutcomeCode) (e : Entry) : Sheds c s0 (s.endEntry c o e) := by
  unfold Part.endEntry
  split
  · exact h.stopJogTimer.recordOutcome _ _ _
  · exact h.recordOutcome _ _ _

theorem Sheds.endEntries (o : OutcomeCode) (l : List Entry) : ∀ {s : Part}, Sheds c s0 s →
    Sheds c s0 (l.foldl (fun s e => s.endEntry c o e) s) := by
  induction l with
  | nil => exact fun h => h
  | cons e rest ih => exact fun h => ih (h.endEntry o e)

theorem Sheds.discardEntries (h : Sheds c s0 s) (o : OutcomeCode) (gone : Entry → Bool) : Sheds c s0 (s.discardEntries c o gone) :=
  (h.list fun _ mem => (List.mem_filter.1 mem).1).endEntries o _

theorem Sheds.commit (h : Sheds c s0 s) (v : Int) (r : Requester) (origin : Origin) : Sheds c s0 (s.commit c v r origin) := by
  obtain ⟨-, -, bus, -⟩ := commit_keeps s c v r origin
  exact h.other (congrArg Bus.jogTimers bus) (by rw [entryOf_commit])

/-! ### Moves ended and handed -/

theorem Sheds.reliefOutcome (h : Sheds c s0 s) (k : MoveKind) (o : OutcomeCode) : Sheds c s0 (s.reliefOutcome k o) := by
  refine h.other ?_ (by rw [entryOf_of_book (book_reliefOutcome s k o)])
  unfold Part.reliefOutcome
  extract_lets code
  split
  · simp +zetaDelta
  · rw [jogTimers_raise]
    simp
  · rfl

theorem Sheds.endMove (h : Sheds c s0 s) (o : OutcomeCode) : Sheds c s0 (s.endMove c o) := by
  unfold Part.endMove
  split
  · exact h
  · exact (((h.modMotion _).stopJogTimerOf _).recordOutcome _ _ _).reliefOutcome _ _

theorem Sheds.completeMove (h : Sheds c s0 s) (o : OutcomeCode) : Sheds c s0 (s.completeMove c o) := (h.modMotion _).endMove o

theorem Sheds.endJogMove (h : Sheds c s0 s) (mv : Move) : Sheds c s0 (s.endJogMove c mv) := by
  unfold Part.endJogMove
  extract_lets t
  have committed : Sheds c s0 t := by
    show Sheds c s0 (s.commitJog c mv)
    unfold Part.commitJog
    split
    · exact h.commit _ _ _
    · exact h
  split
  · exact committed.endMove _
  · exact committed.completeMove _

theorem Sheds.stopJog (h : Sheds c s0 s) : Sheds c s0 (s.stopJog c) := by
  unfold Part.stopJog
  split
  · exact h
  · split
    · exact h.drives ((Drives.refl s).endDrive c _)
    · split
      · exact h.modMotion _
      · exact h
    · exact h.endJogMove _
    all_goals exact h

theorem Sheds.hand (h : Sheds c s0 s) (mv : Move) : Sheds c s0 (s.hand c mv) := by
  unfold Part.hand
  split
  · exact h.recordOutcome _ _ _
  · split
    · exact h.drives (((Drives.refl s).modMotion c _).markShifted c mv)
    · extract_lets t
      have held : Sheds c s0 t := h.modMotion _
      split
      · split
        · split
          · exact held.endJogMove mv
          · exact held.completeMove _
        · exact held.drives ((Drives.refl t).enterWaiting c)
      · exact held.drives ((Drives.refl t).enterWaiting c)

theorem Sheds.handHome {x : PosChannel} (h : Sheds x.channel s0 s) (r : Requester) (tag : Option Byte) :
    Sheds x.channel s0 (s.handHome x r tag) := by
  unfold Part.handHome
  extract_lets c cal t u
  have judged : Sheds x.channel s0 u := by
    show Sheds x.channel s0 (if c = .concave then t.judgeRelief else t)
    split
    · exact Sheds.judgeRelief (h.modMotion _)
    · exact h.modMotion _
  exact judged.hand _

/-! ### The take rule -/

theorem Sheds.commitEntry (h : Sheds c s0 s) (e : Entry) : Sheds c s0 (s.commitEntry c e) := by
  unfold Part.commitEntry
  split
  · split
    · exact h.commit _ _ _
    · exact h
  all_goals exact h

theorem Sheds.takeEntry (h : Sheds c s0 s) (e : Entry) : Sheds c s0 (s.takeEntry c e) := by
  unfold Part.takeEntry
  split
  · unfold Part.handSet
    extract_lets t mv
    split <;> exact (h.commitEntry e).hand _
  · rw [handJog_eq]
    exact h.hand _
  case h_3 p _ positional =>
    obtain rfl := channel_of_kind_positional positional
    exact h.handHome _ _
  case h_4 p _ positional =>
    obtain rfl := channel_of_kind_positional positional
    exact h.hand _
  all_goals exact h

theorem Sheds.deferEntry (h : Sheds c s0 s) (e : Entry) : Sheds c s0 (s.deferEntry c e) := by
  unfold Part.deferEntry
  split
  · exact (h.commitEntry e).recordOutcome _ _ _
  · exact h.recordOutcome _ _ _

theorem Sheds.homeFirst {x : PosChannel} (h : Sheds x.channel s0 s) (e : Entry) : Sheds x.channel s0 (s.homeFirst x e) := by
  unfold Part.homeFirst
  extract_lets c t
  have homes : Sheds x.channel s0 t := (h.discardEntries _ _).handHome _ _
  split
  · exact homes.discardEntries _ _
  · exact homes

theorem Sheds.takeHead (h : Sheds c s0 s) {e : Entry} {others : List Entry} (list : (s.entryOf c).requests = e :: others) :
    Sheds c s0 (s.takeHead c e others) := by
  unfold Part.takeHead
  extract_lets dropHead alone taken
  have dropped : Sheds c s0 dropHead := h.list fun x mem => by rw [list]; exact List.mem_cons_of_mem _ mem
  have first : Sheds c s0 alone := h.list fun x mem => by rw [list, List.mem_singleton.1 mem]; exact List.mem_cons_self
  have bare : Sheds c s0 taken := (first.endEntries _ _).list fun x mem => absurd mem List.not_mem_nil
  split
  · exact dropped.endEntry _ _
  · split
    case h_1 p positional =>
      obtain rfl := channel_of_kind_positional positional
      split
      · exact bare.takeEntry e
      · split
        · exact bare.takeEntry e
        · exact dropped.endEntry _ _
        · exact dropped.endEntry _ _
        · exact h.homeFirst e
    · split
      · split
        · exact bare.takeEntry e
        · exact bare.deferEntry e
      · split
        · exact bare.takeEntry e
        · exact dropped.endEntry _ _
      all_goals exact bare.takeEntry e

theorem Sheds.take (h : Sheds c s0 s) : Sheds c s0 (s.take c) := by
  have upTo (n : Nat) : ∀ {s : Part}, Sheds c s0 s → Sheds c s0 (s.takeUpTo n c) := by
    induction n with
    | zero => exact fun h => h
    | succ n ih =>
      intro s h
      unfold Part.takeUpTo
      split
      · exact h
      case h_2 e others list =>
        split
        · exact ih (h.takeHead list)
        · exact h
  exact upTo _ h

end

end Sys2Proof.Machine
end

section
/-! PROOFS. O35: a JOG_STOP and the refresh expiry (R71, R107, R119, R120, R175); the coast or settle expiry of a jog (R58, R109, R112,
R118 to R120, R141). -/

namespace Sys2Proof.Machine

section

variable {s : Part} {c : Channel} {mv : Move} {r : Requester}

/-! ### A jog told to end -/

theorem Requester.same_eq (commands : r.commands) {r' : Requester} (same : r'.same r = true) : r' = r := by
  cases r' with
  | operator => exact commands.elim (fun is => is.symm) fun is => absurd (is ▸ same) (by decide)
  | service => exact commands.elim (fun is => absurd (is ▸ same) (by decide)) fun is => is.symm
  | automatic cause => rcases commands with rfl | rfl <;> exact absurd same (by cases cause <;> decide)

theorem ownJog_eq_none (commands : r.commands)
    (other : ∀ mv, (s.motionOf c).move = some mv → mv.kind ≠ .jog ∨ mv.owner ≠ .request r) : s.ownJog c r = none := by
  unfold Part.ownJog
  cases moves : (s.motionOf c).move with
  | none => rfl
  | some mv =>
    dsimp only
    split
    case h_1 r' jog owner =>
      refine if_neg fun same => ?_
      rw [Requester.same_eq commands same] at owner
      exact (other mv moves).elim (fun apart => apart jog) fun apart => apart owner
    case h_2 => rfl

/-- A drive turned off at the end of its jog: COASTING, and nothing else but the slots. -/
structure Part.jogStopped (s t : Part) (c : Channel) : Prop where
  drives : Drives s t
  phase : (t.motionOf c).phase = .coasting
  coasts : (t.motionOf c).coastEndsAt = some (s.now + s.coastTime c * 1000)
  position : (t.motionOf c).position = (s.motionOf c).position
  move : ∃ mv, (t.motionOf c).move = some mv ∧ mv.kind = .jog ∧ mv.driveEnd = .jogEnd
  slots : ∀ x ∈ t.slots, x.channel ≠ c

theorem jogStopped_endDrive (moves : (s.motionOf c).move = some mv) (jog : mv.kind = .jog) :
    s.jogStopped (s.endDrive c .jogEnd) c := by
  have motion := motionOf_endDrive_self s c .jogEnd
  rw [motionOf_driveOff, if_pos rfl, moves] at motion
  have move : ∃ n, ((s.endDrive c .jogEnd).motionOf c).move = some { mv with driveEnd := .jogEnd, driveTime := n } :=
    ⟨_, by rw [motion]; rfl⟩
  obtain ⟨n, stopped⟩ := move
  exact ⟨(Drives.refl s).endDrive c _, by rw [motion], by rw [motion]; rfl, by rw [motion], ⟨_, stopped, jog, rfl⟩,
    endDrive_slots s c _⟩

theorem stopJog_of_driving (moves : (s.motionOf c).move = some mv) (driving : (s.motionOf c).phase = .driving) :
    s.stopJog c = s.endDrive c .jogEnd := by
  unfold Part.stopJog
  rewrite [moves, driving]
  rfl

/-- What a stopped jog leaves, in the words of the statement. -/
theorem Part.jogStopped.leaves {t : Part} (h : s.jogStopped t c) : (t.motionOf c).phase = .coasting
    ∧ (t.motionOf c).coastEndsAt = some (s.now + s.coastTime c * 1000) ∧ (t.motionOf c).position = (s.motionOf c).position
    ∧ (∃ mv, (t.motionOf c).move = some mv ∧ mv.kind = .jog ∧ mv.driveEnd = .jogEnd) ∧ (∀ x ∈ t.slots, x.channel ≠ c)
    ∧ t.bus = s.bus ∧ t.book = s.book ∧ t.store = s.store ∧ t.capture = s.capture ∧ t.lines = s.lines ∧ t.now = s.now
    ∧ t.power = s.power ∧ t.window.number = s.window.number ∧ t.window.history = s.window.history :=
  have frame := h.drives.framed c
  ⟨h.phase, h.coasts, h.position, h.move, h.slots, h.drives.bus, h.drives.book, frame.store, frame.capture, frame.lines, frame.now,
    frame.power, frame.number, frame.history⟩

theorem take_of_jogStopped {t : Part} (h : s.jogStopped t c) : t.take c = t :=
  take_of_moving (by rw [h.phase]; simp)

/-- Entries of which none is to be discarded stay. -/
theorem discardEntries_of_none {gone : Entry → Bool} (none : ∀ e ∈ (s.entryOf c).requests, gone e = false) (o : OutcomeCode) :
    s.discardEntries c o gone = s := by
  have keeps : (s.entryOf c).requests.filter (!gone ·) = (s.entryOf c).requests :=
    List.filter_eq_self.2 fun e mem => by rw [none e mem]; rfl
  have ends : (s.entryOf c).requests.filter gone = [] :=
    List.filter_eq_nil_iff.2 fun e mem => by rw [none e mem]; decide
  unfold Part.discardEntries
  dsimp only
  rw [keeps, ends]
  exact modBook_of_same rfl

theorem isJog_eq_false_iff (e : Entry) : e.isJog = false ↔ ∀ way, e.kind ≠ .jog way := by
  unfold Entry.isJog
  cases e.kind <;> simp

/-! ### A jog at its coast or settle expiry -/

theorem commitJog_eq (owner : mv.owner = .request r) : s.commitJog c mv = s.commit c (s.jogValue c) r (r.origin false) := by
  unfold Part.commitJog
  rw [owner]

/-- A jog that ends STALLED commits first (R112, R119). -/
theorem stalledJog_leaves (moves : (s.motionOf c).move = some mv) (jog : mv.kind = .jog) (owner : mv.owner = .request r)
    (empty : (s.entryOf c).requests = []) : let t := (s.commitJog c mv).stallMove c
    let stalls := (s.motionOf c).stallCount + 1
    t.entryOf c = { s.entryOf c with
      setpoint := s.clampToEnvelope c (s.jogValue c), origin := r.origin false
      last := some ⟨.stalled, mv.owner, s.window.number⟩ }
    ∧ t.bus.jogTimers = s.bus.jogTimers.set c none
    ∧ (stalls < 3 → t.motionOf c = { (s.motionOf c).ended with stallCount := stalls })
    ∧ (3 ≤ stalls → t.motionOf c = { (s.motionOf c).faulted .stall with stallCount := stalls }) := by
  let u : Part := s.commit c (s.jogValue c) r (r.origin false)
  have plain : mv.kind.plain := by
    rw [jog]
    exact ⟨by decide, by decide⟩
  obtain ⟨motion, -, -, -⟩ := commit_keeps s c (s.jogValue c) r (r.origin false)
  have still : u.motionOf c = s.motionOf c := motionOf_of_motion motion c
  have entry : u.entryOf c = { s.entryOf c with setpoint := s.clampToEnvelope c (s.jogValue c), origin := r.origin false } :=
    entryOf_commit s c _ r _
  have number : u.window.number = s.window.number := ((Local.refl (P := AnyOwner) s).commit _ r _ trivial).framed.number
  have timers : u.timersAfter c mv = s.bus.jogTimers.set c none := (commit_timers s c _ r _ mv).trans (timersAfter_of_nil empty jog)
  obtain ⟨ends, stops, few, many⟩ := stallMove_leaves (s := u) (by rw [still]; exact moves) plain (by rw [entry]; exact empty)
  dsimp only
  rw [commitJog_eq owner]
  rw [still] at few many
  rw [entry, number] at ends
  exact ⟨ends, stops.trans timers, fun less => (few less).1, fun third => (many third).1⟩

theorem jogCoastEnds_stalled {x : PosChannel} (stalled : mv.driveEnd = .stall) :
    s.jogCoastEnds x mv = (s.commitJog x.channel mv).stallMove x.channel := if_pos stalled

theorem jogCoastEnds_done {x : PosChannel} (free : mv.driveEnd ≠ .stall)
    (done : mv.driveEnd = .jogEnd ∨ mv.remaining = 0 ∨ mv.atEdge (s.motionOf x.channel).position) :
    s.jogCoastEnds x mv = s.endJogMove x.channel mv := (if_neg free).trans (if_pos done)

theorem jogCoastEnds_left {x : PosChannel} (free : mv.driveEnd ≠ .stall)
    (left : ¬(mv.driveEnd = .jogEnd ∨ mv.remaining = 0 ∨ mv.atEdge (s.motionOf x.channel).position)) :
    s.jogCoastEnds x mv = s.enterWaiting x.channel := (if_neg free).trans (if_neg left)

theorem atEdge_iff (mv : Move) (present : Int) :
    mv.atEdge present = true ↔ ∃ way, mv.direction = some way ∧ distanceToEdge way present mv.edge = 0 := by
  unfold Move.atEdge
  cases mv.direction <;> simp

/-- A jog with its edge short of it waits again. -/
theorem enterWaiting_jog (moves : (s.motionOf c).move = some mv) (jog : mv.kind = .jog) : let t := s.enterWaiting c
    (∃ mv', (t.motionOf c).move = some mv' ∧ mv'.kind = .jog ∧ mv'.owner = mv.owner ∧ mv'.direction = mv.direction)
    ∧ t.entryOf c = s.entryOf c ∧ t.bus = s.bus ∧ (2 ≤ s.slots.length → (t.motionOf c).phase = .waiting) := by
  have drives := (Drives.refl s).enterWaiting c
  refine ⟨?_, entryOf_drives drives c, drives.bus, (enterWaiting_phase moves).1⟩
  rcases enterWaiting_move moves with ⟨-, waits⟩ | ⟨-, e, n, runs⟩
  · exact ⟨mv, waits, jog, rfl, rfl⟩
  · obtain ⟨identity, direction⟩ := granted_keeps s c mv
    have owner : (s.granted c mv).owner = mv.owner := congrArg Prod.fst identity
    have kind : (s.granted c mv).kind = mv.kind := congrArg (·.2.1) identity
    exact ⟨_, runs, kind.trans jog, owner, direction jog⟩

/-- The settle expiry of a jog: preempted short of its edge it waits again, otherwise it ends. -/
theorem settleEnds_jog {v : SpeedChannel} (moves : (s.motionOf v.channel).move = some mv) (jog : mv.kind = .jog) :
    s.settleEnds v = if mv.driveEnd = .workLeft ∧ mv.atEdge (s.rpmOf v) = false then (s.coasted v.channel).enterWaiting v.channel
      else (s.coasted v.channel).endJogMove v.channel mv := by
  have moves' := coasted_move moves
  unfold Part.coasted at *
  unfold Part.settleEnds
  dsimp only
  rewrite [moves']
  dsimp only
  rewrite [jog]
  by_cases left : mv.driveEnd = .workLeft
  · refine (if_pos left).trans ?_
    cases there : mv.atEdge (s.rpmOf v) with
    | true => exact (if_pos there).trans (if_neg fun short => Bool.noConfusion short.2).symm
    | false => exact (if_neg fun edge => Bool.noConfusion (there.symm.trans edge)).trans (if_pos ⟨left, rfl⟩).symm
  · exact (if_neg left).trans ((if_pos rfl).trans (if_neg fun both => left both.1).symm)

end

end Sys2Proof.Machine

open Sys2Proof Sys2Proof.Machine

/-- Settles O35: the drive turned off by JOG_STOP or the refresh expiry, then the expiry of the coast case by case. -/
theorem aJogEndsAtItsStopOrRefreshExpiry : Obligations.AJogEndsAtItsStopOrRefreshExpiry := by
  intro p q c
  dsimp only
  refine ⟨fun dt h source f sends received runs named => ?stop, fun d on runs => ?refresh,
    fun d mv r on coasts moves jog owner own empty => ?coast⟩
  case stop =>
    have asks : p.asks h source f c := ⟨sends, received, runs, named⟩
    let s : Part := (p.later dt).answered source 0x01 f.tag .accepted f.channel f.value
    have goes : exec (.jogStop dt h f) ⟨p, q⟩ = .next ⟨s.endJogOf c (senderOf source), q⟩ :=
      (exec_settingCommand_of_asks (k := .jogStop) asks q dt (.inl rfl)).trans
        (congrArg (fun t => Host.Outcome.next (State.mk (Part.endJogOf t c (senderOf source)) q)) (reply_setting _ _ _ _ _))
    refine ⟨fun mv way moves jog owner direction driving => ?_, fun other empty => ?_⟩
    · have mine : (s.ownJog c (senderOf source)).isSome = true := by
        rw [ownJog_of_jog (s := s) (r := senderOf source) moves jog owner, direction]
        rfl
      have stopped := jogStopped_endDrive (s := s) moves jog
      have ends : s.endJogOf c (senderOf source) = s.endDrive c .jogEnd := by
        unfold Part.endJogOf
        rw [if_pos mine, stopJog_of_driving (s := s) moves driving, take_of_jogStopped stopped]
      rw [ends] at goes
      exact ⟨_, goes, stopped.leaves⟩
    · have apart : ¬(s.ownJog c (senderOf source)).isSome = true := by
        rw [ownJog_eq_none (s := s) (senderOf_commands source) other]
        decide
      have ends : s.endJogOf c (senderOf source) = s := by
        unfold Part.endJogOf
        rw [if_neg apart, discardEntries_of_nil (s := s) empty, take_of_nil (s := s) empty]
      rw [ends] at goes
      exact goes
  case refresh =>
    let s : Part := { p.atTime d with bus := { (p.atTime d).bus with jogTimers := (p.atTime d).bus.jogTimers.set c none } }
    let u : Part := if s.jogging c then s.stopJog c else s
    have goes : exec (.jogRefreshExpiry c) ⟨p, q⟩ = .next ⟨s.endJogs c, q⟩ :=
      congrArg (fun t => Host.Outcome.next (State.mk t q)) (Part.onExpiry_of_on on runs _)
    have stopped : s.bus.jogTimers.get c = none := PerChannel.get_set_self _ _ _
    have sheds : Sheds c s u := by
      show Sheds c s (if s.jogging c then s.stopJog c else s)
      split
      · exact (Sheds.refl c s).stopJog
      · exact .refl c s
    refine ⟨s.endJogs c, goes, congrArg Still.now (Quiet.endJogs .refl c : Quiet s (s.endJogs c)).still_eq,
      (sheds.discardEntries .aborted Entry.isJog).take.timers stopped, fun e mem => ?_, fun mv moves jog driving unlisted => ?_⟩
    · have listed := (Sheds.refl c (u.discardEntries c .aborted Entry.isJog)).take.requests e mem
      rw [discardEntries_requests] at listed
      exact (isJog_eq_false_iff e).1 (by simpa using (List.mem_filter.1 listed).2)
    · have jogging : s.jogging c = true := by
        have moves' : (s.motionOf c).move = some mv := moves
        unfold Part.jogging
        rw [moves']
        exact decide_eq_true jog
      have ended := jogStopped_endDrive (s := s) moves jog
      have ends : s.endJogs c = s.endDrive c .jogEnd := by
        have none : ∀ e ∈ ((s.endDrive c .jogEnd).entryOf c).requests, e.isJog = false := fun e mem =>
          (isJog_eq_false_iff e).2 (unlisted e (by rw [entryOf_drives ended.drives] at mem; exact mem))
        unfold Part.endJogs
        rw [if_pos jogging, stopJog_of_driving (s := s) moves driving]
        dsimp only
        rw [discardEntries_of_none none, take_of_jogStopped ended]
      rw [ends]
      exact ended.leaves
  case coast =>
    let u : Part := (p.atTime d).coasted c
    have movesU : (u.motionOf c).move = some mv := coasted_move (s := p.atTime d) moves
    have motionU : u.motionOf c = { p.motionOf c with coastEndsAt := none } := motionOf_coasted
    have committed {v : Int} (is : u.jogValue c = v) : u.clampToEnvelope c (u.jogValue c) = p.clampToEnvelope c v := congrArg (p.clampToEnvelope c) is
    obtain ⟨idle, gone, entry, timers⟩ := endJogMove_leaves (s := u) movesU jog owner
    rw [timersAfter_of_nil (s := u) empty jog] at timers
    obtain ⟨stays, book, bus, waits⟩ := enterWaiting_jog movesU jog
    refine ⟨fun x first at' => ?_, fun v at' => ?_⟩
    · subst at'
      let t : Part := ((p.atTime d).coastEnds x).preemptUnless first x.channel
      have frame : Framed x.channel (p.atTime d) t := framed_coastEnds ..
      obtain ⟨-, jogs, -, -⟩ := coastEnds_of_move (s := p.atTime d) moves own
      have steps {w : Part} (is : u.jogCoastEnds x mv = w) (calm : w.reliefWaits x.channel = false) : t = w := by
        rw [← is, ← jogs jog] at calm
        exact (preemptUnless_of_calm calm first).trans ((jogs jog).trans is)
      have value : u.jogValue x.channel = p.unitsOf x (p.motionOf x.channel).position := by
        rw [jogValue_positional, motionU]
        rfl
      have edge : mv.atEdge (u.motionOf x.channel).position = true ↔
          ∃ way, mv.direction = some way ∧ distanceToEdge way (p.motionOf x.channel).position mv.edge = 0 := by
        rw [motionU]
        exact atEdge_iff mv _
      rw [← edge]
      refine ⟨t, exec_coastTimerExpiry_of_nil on coasts empty q first, ⟨frame.now, frame.entries, frame.store, frame.capture,
        frame.lines, frame.power.trans on, frame.number, frame.history, frame.service, frame.shutdown⟩, fun stalled => ?_,
        fun free done => ?_, fun free left => ?_⟩
      · obtain ⟨ends, stops, few, many⟩ := stalledJog_leaves (s := u) movesU jog owner empty
        have still : (((u.commitJog x.channel mv).stallMove x.channel).motionOf x.channel).move = none := by
          by_cases third : 3 ≤ (u.motionOf x.channel).stallCount + 1
          · rw [many third]
            rfl
          · rw [few (Nat.not_le.1 third)]
            rfl
        rw [steps (jogCoastEnds_stalled stalled) (reliefWaits_of_none still), ends]
        rw [motionU] at few many
        refine ⟨⟨still, stops, committed value, rfl, rfl, empty⟩, fun less => ?_, fun third => ?_⟩
        · rw [few (Nat.succ_lt_succ less)]
          exact ⟨rfl, rfl⟩
        · rw [many (Nat.succ_le_succ third)]
          exact ⟨rfl, rfl⟩
      · rw [steps (jogCoastEnds_done free done) (reliefWaits_of_none gone), entry]
        exact ⟨⟨gone, timers, committed value, rfl, rfl, empty⟩, idle⟩
      · have waiting := stays
        obtain ⟨mv', moves', kind, -⟩ := waiting
        rw [steps (jogCoastEnds_left free left) (reliefWaits_of_kind moves' (by rw [kind]; decide))]
        exact ⟨stays, book, bus, waits⟩
    · subst at'
      have frame : Framed v.channel (p.atTime d) ((p.atTime d).settleEnds v) := framed_settleEnds ..
      have settles := settleEnds_jog (s := p.atTime d) (v := v) moves jog
      have edge : mv.atEdge ((p.atTime d).rpmOf v) = true ↔
          ∃ way, mv.direction = some way ∧ distanceToEdge way (p.rpmOf v) mv.edge = 0 := atEdge_iff mv _
      have value : u.jogValue v.channel = p.rpmOf v := by
        unfold Part.jogValue
        rw [kind_speedChannel]
        rfl
      rw [← edge]
      refine ⟨_, exec_settleTimerExpiry_of_nil on coasts empty q, ⟨frame.now, frame.entries, frame.store, frame.capture,
        frame.lines, frame.power.trans on, frame.number, frame.history, frame.service, frame.shutdown⟩, fun done => ?_,
        fun left short => ?_⟩
      · rw [settles, if_neg fun waits => done.elim (fun apart => apart waits.1) fun there => Bool.noConfusion (waits.2.symm.trans there),
          entry]
        exact ⟨⟨gone, timers, committed value, rfl, rfl, empty⟩, idle⟩
      · rw [settles, if_pos ⟨left, Bool.eq_false_iff.2 short⟩]
        exact ⟨stays, book, bus, waits⟩

end

section
/-! PROOFS. O38: ENTER, with service mode entered channel by channel (R79, R97). -/

namespace Sys2Proof.Machine

/-! ### The holds of service mode -/

/-- The hold that service mode puts on every channel. -/
def serviceHold : Hold := ⟨.service, .untilRelease⟩

theorem putHold_leaves (s : Part) (d : Channel) (k : Hold) : ∃ (book : PerChannel BookEntry) (offset target : Int),
    s.putHold d k = { s with book := book, fanOffset := offset, fanTarget := target }
    ∧ (∀ c, (s.putHold d k).entryOf c = if c = d then { s.entryOf c with hold := some k } else s.entryOf c)
    ∧ (d = .fan → offset = 0) ∧ (d ≠ .fan → offset = s.fanOffset) := by
  have entries (c : Channel) : (s.modBook d fun e => { e with hold := some k }).entryOf c =
      if c = d then { s.entryOf c with hold := some k } else s.entryOf c := by
    rw [entryOf_modBook]
    split
    case isTrue same => rw [same]
    case isFalse => rfl
  unfold Part.putHold
  by_cases fan : d = .fan
  · dsimp only
    rw [if_pos fan, setFanOffset_zero]
    exact ⟨_, 0, _, rfl, entries, fun _ => rfl, fun other => absurd fan other⟩
  · dsimp only
    rw [if_neg fan]
    exact ⟨_, s.fanOffset, s.fanTarget, rfl, entries, fun is => absurd is fan, fun _ => rfl⟩

/-- A hold put on several channels: their entries have it, the pitch offset is 0 once FAN is among them, the rest stands. -/
theorem putHolds_leave (k : Hold) (l : List Channel) : ∀ s : Part, let t := l.foldl (fun s c => s.putHold c k) s
    ∃ (book : PerChannel BookEntry) (offset target : Int), t = { s with book := book, fanOffset := offset, fanTarget := target }
      ∧ (∀ c, t.entryOf c = if c ∈ l then { s.entryOf c with hold := some k } else s.entryOf c)
      ∧ (.fan ∈ l → offset = 0) ∧ (.fan ∉ l → offset = s.fanOffset) := by
  induction l with
  | nil => exact fun s => ⟨s.book, s.fanOffset, s.fanTarget, rfl, fun _ => rfl, fun mem => absurd mem List.not_mem_nil, fun _ => rfl⟩
  | cons d rest ih =>
    intro s
    obtain ⟨book, offset, target, first, entry, zero, kept⟩ := putHold_leaves s d k
    obtain ⟨book', offset', target', others, entries, zeros, keeps⟩ := ih (s.putHold d k)
    refine ⟨book', offset', target', others.trans (by rw [first]), fun c => ?_, fun mem => ?_, fun apart => ?_⟩
    · rw [List.foldl_cons, entries, entry]
      by_cases at' : c = d <;> by_cases among : c ∈ rest <;> simp [at', among]
    · by_cases among : Channel.fan ∈ rest
      · exact zeros among
      · rw [keeps among, first]
        exact zero ((List.mem_cons.1 mem).resolve_right among).symm
    · rw [List.mem_cons, not_or] at apart
      rw [keeps apart.2, first]
      exact kept fun fan => apart.1 fan.symm

/-- The part in service mode, with its holds, before anything is aborted. -/
def Part.served (s : Part) (o : Order) : Part :=
  (arrange o.channels Channel.all).foldl (fun s c => s.putHold c serviceHold) ({ s with service := true } : Part)

theorem served_leaves (s : Part) (o : Order) : ∃ (book : PerChannel BookEntry) (target : Int),
    s.served o = { s with service := true, book := book, fanOffset := 0, fanTarget := target }
    ∧ ∀ c, (s.served o).entryOf c = { s.entryOf c with hold := some serviceHold } := by
  obtain ⟨book, offset, target, is, entries, zero, -⟩ := putHolds_leave serviceHold (arrange o.channels Channel.all)
    ({ s with service := true } : Part)
  have all (c : Channel) : c ∈ arrange o.channels Channel.all := (mem_arrange _ _ c).2 (Channel.mem_all c)
  refine ⟨book, target, is.trans (by rw [zero (all .fan)]), fun c => (entries c).trans (if_pos (all c))⟩

/-! ### What is not SERVICE's, aborted -/

/-- The owners that service mode leaves. -/
def OfService (w : Owner) : Prop := w = .override ∨ w = .request .service

/-- A move of another than the Override Unit aborted. -/
def Part.abortRequested (s : Part) (c : Channel) : Part :=
  match (s.motionOf c).move with
  | some mv => if mv.owner = .override then s else s.abort c .aborted
  | none => s

/-- The entries of other requesters discarded. -/
def Part.dropOthers (s : Part) (c : Channel) : Part := s.discardEntries c .aborted fun e => e.requester ≠ .service

section

variable {s : Part} {c : Channel} {mv : Move}

theorem abortRequested_of_override (moves : (s.motionOf c).move = some mv) (owner : mv.owner = .override) : s.abortRequested c = s := by
  unfold Part.abortRequested
  rw [moves]
  exact if_pos owner

theorem abortRequested_of_request (moves : (s.motionOf c).move = some mv) (owner : mv.owner ≠ .override) :
    s.abortRequested c = s.abort c .aborted := by
  unfold Part.abortRequested
  rw [moves]
  exact if_neg owner

theorem abortRequested_of_none (still : (s.motionOf c).move = none) : s.abortRequested c = s := by
  unfold Part.abortRequested
  rw [still]

theorem Local.abortRequested (P : Owner → Prop) (W : Prop) (s : Part) (c : Channel) : Local P W c s (s.abortRequested c) := by
  cases moves : (s.motionOf c).move with
  | none =>
    rw [abortRequested_of_none moves]
    exact .refl s
  | some mv =>
    by_cases owner : mv.owner = .override
    · rw [abortRequested_of_override moves owner]
      exact .refl s
    · rw [abortRequested_of_request moves owner]
      exact (Local.refl s).abort _

theorem abortRequested_owned (s : Part) (c : Channel) : (s.abortRequested c).owned OfService c := by
  intro mv' moves'
  cases moves : (s.motionOf c).move with
  | none =>
    rw [abortRequested_of_none moves, moves] at moves'
    cases moves'
  | some mv =>
    by_cases owner : mv.owner = .override
    · rw [abortRequested_of_override moves owner, moves] at moves'
      exact .inl (Option.some.inj moves' ▸ owner)
    · rw [abortRequested_of_request moves owner, abort_move] at moves'
      cases moves'

/-- The abort leaves a list as it is, where the channel is not about to fault. -/
theorem abortRequested_requests (calm : (s.motionOf c).standing = none) :
    ((s.abortRequested c).entryOf c).requests = (s.entryOf c).requests := by
  cases moves : (s.motionOf c).move with
  | none => rw [abortRequested_of_none moves]
  | some mv =>
    by_cases owner : mv.owner = .override
    · rw [abortRequested_of_override moves owner]
    · rw [abortRequested_of_request moves owner, abort_entry moves (.inl calm)]

theorem Local.dropOthers (P : Owner → Prop) (W : Prop) (s : Part) (c : Channel) : Local P W c s (s.dropOthers c) :=
  (Local.refl s).discardEntries _ _

theorem dropOthers_service (s : Part) (c : Channel) : ∀ e ∈ ((s.dropOthers c).entryOf c).requests, e.requester = .service := by
  intro e mem
  unfold Part.dropOthers at mem
  rw [discardEntries_requests] at mem
  simpa using (List.mem_filter.1 mem).2

theorem take_of_barred (barred : s.blocked c = true) : s.take c = s :=
  takeUpTo_of_busy _ fun k => by
    unfold Part.freeFor
    rw [barred]
    rfl

theorem blocked_of_move (moves : (s.motionOf c).move = some mv) (blocks : mv.kind.blocks = true) : s.blocked c = true := by
  unfold Part.blocked
  rw [moves]
  simp [blocks]

end

theorem abortMoves_requested (s : Part) (o : Order) : s.abortMoves o (fun w => w ≠ .override) =
    (arrange o.channels Channel.all).foldl Part.abortRequested s := by
  unfold Part.abortMoves
  congr 1
  funext t c
  unfold Part.abortRequested
  split <;> simp [*]

/-! ### Service mode entered, seen from one channel -/

section

variable (s : Part) (o : Order)

theorem enterService_channel (c : Channel) : ∃ u v x : Part, Aside c (s.served o) u ∧ Aside c (u.abortRequested c) v
    ∧ Aside c (v.dropOthers c) x ∧ Aside c (x.take c) (s.enterService o) := by
  let aborted : Part := (arrange o.channels Channel.all).foldl Part.abortRequested (s.served o)
  let dropped : Part := (arrange o.channels Channel.all).foldl Part.dropOthers aborted
  have entered : s.enterService o = dropped.takeAll o := by
    show (((s.served o).abortMoves o fun w => w ≠ .override).abortEntries o fun r => r ≠ .service).takeAll o = _
    rw [abortMoves_requested]
    rfl
  obtain ⟨u, beforeU, afterU⟩ := Aside.foldl_arrange (c := c)
    (fun s d ne => (Local.abortRequested AnyOwner True s d).aside ne) o (s.served o)
  obtain ⟨v, beforeV, afterV⟩ := Aside.foldl_arrange (c := c) (fun s d ne => (Local.dropOthers AnyOwner True s d).aside ne) o aborted
  obtain ⟨x, beforeX, afterX⟩ := Aside.foldl_arrange (c := c) (f := fun s d => s.take d) (fun s d ne => Aside.take ne) o dropped
  rw [entered]
  exact ⟨u, v, x, beforeU, afterU.trans beforeV, afterV.trans beforeX, afterX⟩

theorem enterService_pinned : (s.enterService o).pinned = { s.pinned with service := true, fanOffset := 0 } := by
  obtain ⟨u, v, x, su, uv, vx, xt⟩ := enterService_channel s o .drum
  obtain ⟨book, target, is, -⟩ := served_leaves s o
  rw [xt.pinned, ((Local.refl (P := AnyOwner) (W := True) x).take fun _ _ => ⟨trivial, .inl trivial⟩).pinned, vx.pinned,
    (Local.dropOthers AnyOwner True v .drum).pinned, uv.pinned, (Local.abortRequested AnyOwner True u .drum).pinned, su.pinned, is]
  rfl

theorem enterService_book (c : Channel) : ((s.enterService o).entryOf c).hold = some serviceHold
    ∧ ((s.enterService o).entryOf c).mode = (s.entryOf c).mode := by
  obtain ⟨u, v, x, su, uv, vx, xt⟩ := enterService_channel s o c
  obtain ⟨-, -, -, entries⟩ := served_leaves s o
  have taken : Local AnyOwner True c x (x.take c) := (Local.refl x).take fun _ _ => ⟨trivial, .inl trivial⟩
  have dropped := Local.dropOthers AnyOwner True v c
  have aborted := Local.abortRequested AnyOwner True u c
  rw [xt.entry, taken.hold, taken.mode, vx.entry, dropped.hold, dropped.mode, uv.entry, aborted.hold, aborted.mode, su.entry, entries]
  exact ⟨rfl, rfl⟩

/-- Neither a move nor an entry is left that is not SERVICE's, but for the moves of the Override Unit. -/
theorem enterService_leaves (c : Channel) : (s.enterService o).owned OfService c
    ∧ ∀ e ∈ ((s.enterService o).entryOf c).requests, e.requester = .service := by
  obtain ⟨u, v, x, su, uv, vx, xt⟩ := enterService_channel s o c
  have service : ∀ e ∈ (x.entryOf c).requests, e.requester = .service := by
    rw [vx.entry]
    exact dropOthers_service v c
  have fit : x.listFits OfService True c := fun e mem => ⟨.inr (congrArg Owner.request (service e mem)), .inl trivial⟩
  have owned : x.owned OfService c :=
    vx.owned ((Local.dropOthers OfService True v c).owners (uv.owned (abortRequested_owned u c)))
  refine ⟨xt.owned (((Local.refl x).take fit).owners owned), fun e mem => ?_⟩
  rw [xt.entry] at mem
  exact service e ((Sheds.refl c x).take.requests e mem)

section

variable {c : Channel} {mv : Move}

/-- A move of a requester on a channel with nothing listed ends ABORTED. -/
theorem enterService_aborts_move (moves : (s.motionOf c).move = some mv) (requested : mv.owner ≠ .override)
    (empty : (s.entryOf c).requests = []) : ((s.enterService o).motionOf c).move = none
      ∧ ((s.enterService o).entryOf c).last = some ⟨.aborted, mv.owner, s.window.number⟩ := by
  obtain ⟨u, v, x, su, uv, vx, xt⟩ := enterService_channel s o c
  obtain ⟨book, target, is, entries⟩ := served_leaves s o
  obtain ⟨mv', moves', owner, -⟩ := su.motion.move (mv := mv) (by rw [is]; exact moves)
  have stepped := abortRequested_of_request moves' (owner ▸ requested)
  have emptyU : (u.entryOf c).requests = [] := by rw [su.entry, entries]; exact empty
  have number : u.window.number = s.window.number := (number_of_pinned su.pinned).trans (by rw [is])
  have entryV : v.entryOf c = { u.entryOf c with last := some ⟨.aborted, mv.owner, s.window.number⟩ } := by
    rw [uv.entry, stepped, abort_entry moves' (.inr emptyU), owner, number]
  have emptyV : (v.entryOf c).requests = [] := by rw [entryV]; exact emptyU
  have dropped : v.dropOthers c = v := discardEntries_of_nil emptyV _ _
  rw [dropped] at vx
  have untaken : x.take c = x := take_of_nil (by rw [vx.entry]; exact emptyV)
  rw [untaken] at xt
  have gone := (uv.motion.trans (vx.motion.trans xt.motion)).identity
  rw [stepped, abort_move] at gone
  exact ⟨Option.map_eq_none_iff.1 gone, by rw [xt.entry, vx.entry, entryV]⟩

/-- A list without an entry of SERVICE ends ABORTED, its last entry last. -/
theorem enterService_aborts_entries {before : List Entry} {e : Entry} (list : (s.entryOf c).requests = before ++ [e])
    (others : ∀ x ∈ before ++ [e], x.requester ≠ .service) (calm : (s.motionOf c).standing = none) :
    ((s.enterService o).entryOf c).requests = []
      ∧ ((s.enterService o).entryOf c).last = some ⟨.aborted, .request e.requester, s.window.number⟩ := by
  obtain ⟨u, v, x, su, uv, vx, xt⟩ := enterService_channel s o c
  obtain ⟨book, target, is, entries⟩ := served_leaves s o
  have calmU : (u.motionOf c).standing = none := su.motion.standing.trans (by rw [is]; exact calm)
  have listV : (v.entryOf c).requests = before ++ [e] := by
    rw [uv.entry, abortRequested_requests calmU, su.entry, entries]
    exact list
  have number : v.window.number = s.window.number := by
    rw [number_of_pinned uv.pinned, number_of_pinned (Local.abortRequested AnyOwner True u c).pinned, number_of_pinned su.pinned, is]
  have gone : (before ++ [e]).filter (fun x => decide (x.requester ≠ .service)) = before ++ [e] :=
    List.filter_eq_self.2 fun x mem => decide_eq_true (others x mem)
  have left : (before ++ [e]).filter (fun x => !decide (x.requester ≠ .service)) = [] :=
    List.filter_eq_nil_iff.2 fun x mem => by rw [decide_eq_true (others x mem)]; decide
  have entryX : x.entryOf c =
      { v.entryOf c with requests := [], last := some ⟨.aborted, .request e.requester, s.window.number⟩ } := by
    rw [vx.entry]
    unfold Part.dropOthers
    rw [entryOf_discardEntries, listV, gone, left, lastOf_concat, number]
  have untaken : x.take c = x := take_of_nil (by rw [entryX])
  rw [untaken] at xt
  rw [xt.entry, entryX]
  exact ⟨rfl, rfl⟩

/-- A RELIEF, RETURN or PARK move goes on. -/
theorem enterService_spares (moves : (s.motionOf c).move = some mv) (owner : mv.owner = .override) (blocks : mv.kind.blocks = true) :
    ∃ mv', ((s.enterService o).motionOf c).move = some mv' ∧ mv'.owner = .override ∧ mv'.kind = mv.kind ∧ mv'.target = mv.target := by
  obtain ⟨u, v, x, su, uv, vx, xt⟩ := enterService_channel s o c
  obtain ⟨book, target, is, -⟩ := served_leaves s o
  obtain ⟨mv', moves', owner', -⟩ := su.motion.move (mv := mv) (by rw [is]; exact moves)
  have spared := abortRequested_of_override moves' (owner'.trans owner)
  rw [spared] at uv
  have after := vx.motion
  unfold Part.dropOthers at after
  rw [motionOf_discardEntries] at after
  have follows : (s.motionOf c).Follows (x.motionOf c) := by
    have first := su.motion
    rw [is] at first
    exact first.trans (uv.motion.trans after)
  obtain ⟨mvX, movesX, -, kindX, -⟩ := follows.move moves
  have untaken : x.take c = x := take_of_barred (blocked_of_move movesX (by rw [kindX]; exact blocks))
  rw [untaken] at xt
  obtain ⟨mvT, movesT, ownerT, kindT, targetT, -⟩ := (follows.trans xt.motion).move moves
  exact ⟨mvT, movesT, ownerT.trans owner, kindT, targetT⟩

end

end

/-! ### ENTER (R79) -/

theorem exec_enter_of_received {p : Part} {h : FrameHeader} (received : p.receives h serviceAddress 2) (runs : p.shutdown = none)
    (q : List Instr) (dt : Nat) (tag : Byte) (o : Order) : exec (.enter dt h tag o) ⟨p, q⟩ = .next ⟨
      if p.stationary = true then
        let s := (p.later dt).answered serviceAddress 0x05 tag .accepted 0xFF 0
        if p.service = true then s else s.enterService o
      else (p.later dt).answered serviceAddress 0x05 tag .notStationary 0xFF 0, q⟩ := by
  have allowed : serves h 1 false = true := by
    obtain ⟨-, -, -, source, -, -⟩ := received
    simp [serves, source]
  have open' : ¬(p.later dt).shutdown.isSome = true := by rw [show (p.later dt).shutdown = none from runs]; decide
  refine congrArg (fun t => Host.Outcome.next (State.mk t q)) ((Part.onEvent_of_on received.1 dt _).trans ?_)
  rw [onService_of_received (s := p.later dt) received allowed, if_neg open']
  simp only [reply_service]
  rfl

theorem stationary_iff (s : Part) : s.stationary = true ↔
    s.bus.speedKnown = true ∧ s.bus.groundSpeed = 0 ∧ s.capture.engaged = false := by
  simp [Part.stationary, and_assoc]

end Sys2Proof.Machine

open Sys2Proof Sys2Proof.Machine

/-- Settles O38: the answers, then service mode entered, seen from one channel at a time. -/
theorem enterStartsServiceMode : Obligations.EnterStartsServiceMode := by
  intro p q dt h tag o received runs
  have goes := exec_enter_of_received received runs q dt tag o
  dsimp only
  rw [← stationary_iff]
  refine ⟨fun moving => ?_, fun stands on => ?_, fun stands off => ?_⟩
  · rw [goes, if_neg moving]
  · rw [goes, if_pos stands, if_pos on]
  · let s : Part := (p.later dt).answered serviceAddress 0x05 tag .accepted 0xFF 0
    let t : Part := s.enterService o
    have pinned : t.pinned = { s.pinned with service := true, fanOffset := 0 } := enterService_pinned s o
    have quiet : Quiet s t := Quiet.enterService .refl o
    rw [if_pos stands, if_neg (by rw [off]; decide)] at goes
    exact ⟨t, goes, congrArg Pinned.now pinned, fun room => reply_stays (s := p.later dt) quiet room, congrArg Pinned.service pinned,
      congrArg Pinned.fanOffset pinned, fun c => (enterService_book s o c).1, fun c mv moves => (enterService_leaves s o c).1 mv moves,
      fun c => (enterService_leaves s o c).2, fun c mv moves requested empty => enterService_aborts_move s o moves requested empty,
      fun c before e list others calm => enterService_aborts_entries s o list others calm,
      fun c mv moves owner blocks => enterService_spares s o moves owner blocks, fun c => (enterService_book s o c).2,
      congrArg Pinned.capture pinned, congrArg Pinned.lines pinned, (congrArg Pinned.power pinned).trans received.1,
      (congrArg Pinned.shutdown pinned).trans runs, congrArg Pinned.store pinned, congrArg (·.window.number) pinned,
      congrArg (·.window.history) pinned⟩

end

section
/-! PROOFS. A feedback pulse in each state of its channel (R106, R110, R111), and what the take rule does on an unreferenced channel
(R72, R73). -/

namespace Sys2Proof.Machine

theorem exec_feedbackPulse_of_on {p : Part} (on : p.power = .on) (q : List Instr) (dt : Nat) (x : PosChannel) :
    exec (.feedbackPulse dt x) ⟨p, q⟩ = .next ⟨((p.later dt).pulse x).take x.channel, q⟩ :=
  congrArg (fun t => Host.Outcome.next (State.mk t q)) (Part.onEvent_of_on on dt _)

/-! ### Counted pulses -/

/-- A move with a pulse counted. -/
def Move.counted (mv : Move) : Move := { mv with
  remaining := mv.remaining - 1
  stintCount := mv.stintCount + if mv.scheduling = .stepwise then 1 else 0 }

/-- The part with a pulse counted for a driven move. -/
def Part.pulsed (s : Part) (x : PosChannel) (mv : Move) : Part := s.modMotion x.channel fun m => { m with
  position := stepPosition m.position mv.direction
  move := some mv.counted
  stallAt := some (s.now + ms (s.cal.pos.get x).stallTime) }

section

variable {s : Part} {x : PosChannel} {mv : Move}

theorem pulse_driving (driving : (s.motionOf x.channel).phase = .driving) (moves : (s.motionOf x.channel).move = some mv) :
    s.pulse x = if mv.remaining - 1 = 0 then (s.pulsed x mv).endDrive x.channel .ownEnd
      else if mv.scheduling = .stepwise ∧ s.params.stint ≤ mv.counted.stintCount then (s.pulsed x mv).endDrive x.channel .workLeft
      else s.pulsed x mv := by
  have counts : (if mv.scheduling = .stepwise then mv.stintCount + 1 else mv.stintCount) = mv.counted.stintCount := by
    unfold Move.counted
    split <;> rfl
  unfold Part.pulse
  dsimp only
  rewrite [driving, moves]
  dsimp only
  rewrite [counts]
  rfl

theorem pulse_coasting (coasting : (s.motionOf x.channel).phase = .coasting) : s.pulse x = s.modMotion x.channel fun m => { m with
    position := stepPosition m.position m.lastDirection
    move := m.move.map fun mv => if mv.kind = .home ∨ mv.kind = .jog then { mv with remaining := mv.remaining - 1 } else mv } := by
  unfold Part.pulse
  dsimp only
  rewrite [coasting]
  rfl

theorem pulse_stray (stands : (s.motionOf x.channel).phase = .idle ∨ (s.motionOf x.channel).phase = .waiting
    ∨ ∃ cause, (s.motionOf x.channel).phase = .faulted cause) : s.pulse x = s.strayPulse x.channel := by
  unfold Part.pulse
  dsimp only
  rcases stands with phase | phase | ⟨cause, phase⟩ <;> rewrite [phase] <;> rfl

end

/-! ### Stray pulses (R110) -/

section

variable {s : Part} {c : Channel} {mv : Move}

theorem strayPulse_few (few : (s.motionOf c).strayCount < 7 ∨ (s.motionOf c).referenced = false) :
    s.strayPulse c = s.modMotion c fun m => { m with strayCount := min 255 (m.strayCount + 1) } := by
  unfold Part.strayPulse
  refine if_neg ?_
  rw [motionOf_modMotion_self]
  rintro ⟨eighth, referenced⟩
  rcases few with few | lost
  · omega
  · exact Bool.noConfusion (lost.symm.trans referenced)

/-- A channel as its eighth stray leaves it, before its move ends. -/
def Motion.astray (m : Motion) : Motion := { m with strayCount := 8, referenced := false }

/-- The part with the reference of a channel lost and POSITION_LOST raised. -/
def Part.astray (s : Part) (c : Channel) : Part :=
  (s.modMotion c Motion.astray).raise .positionLost (some c) 0 (BitVec.ofInt 16 (s.motionOf c).position).toNat

theorem motionOf_astray : (s.astray c).motionOf c = (s.motionOf c).astray := by
  unfold Part.astray
  rw [motionOf_of_motion (s := s.modMotion c Motion.astray) (by simp), motionOf_modMotion_self]

/-- The eighth stray of a channel whose move, if any, is no HOME. -/
theorem strayPulse_eighth (seven : (s.motionOf c).strayCount = 7) (referenced : (s.motionOf c).referenced = true)
    (homes : ∀ mv, (s.motionOf c).move = some mv → mv.kind ≠ .home) : s.strayPulse c =
      if c = .concave then ((s.astray c).abort c .aborted).judgeRelief else (s.astray c).abort c .aborted := by
  let u : Part := s.modMotion c fun m => { m with strayCount := min 255 ((s.motionOf c).strayCount + 1) }
  have counted : u.motionOf c = { s.motionOf c with strayCount := 8 } := by
    rw [motionOf_modMotion_self, seven]
    rfl
  have goes : s.strayPulse c = u.losePosition c := by
    unfold Part.strayPulse
    refine if_pos ⟨by rw [seven]; decide, ?_⟩
    exact (congrArg Motion.referenced counted).trans referenced
  let w : Part := u.modMotion c fun m => { m with referenced := false }
  have lost : w = s.modMotion c Motion.astray := by
    show (s.modMotion c fun m => { m with strayCount := min 255 ((s.motionOf c).strayCount + 1) }).modMotion c _ = _
    rw [modMotion_modMotion, seven]
    rfl
  have moving : (((s.modMotion c Motion.astray).raise .positionLost (some c) 0
      (BitVec.ofInt 16 (s.motionOf c).position).toNat).motionOf c).move = (s.motionOf c).move :=
    (congrArg Motion.move (motionOf_astray (s := s) (c := c))).trans rfl
  have position : (w.motionOf c).position = (s.motionOf c).position := by rw [lost, motionOf_modMotion_self]; rfl
  rw [goes]
  unfold Part.losePosition detail16
  dsimp only
  rewrite [show (u.modMotion c fun m => { m with referenced := false }) = w from rfl, position, lost, moving]
  cases moves : (s.motionOf c).move with
  | none => rfl
  | some mv =>
    have apart : ¬decide (mv.kind = .home) = true := by simp [homes mv moves]
    dsimp only
    rewrite [if_neg apart]
    rfl

theorem Local.strayPulse {P : Owner → Prop} {W : Prop} {s0 : Part} (h : Local P W c s0 s) : Local P W c s0 (s.strayPulse c) := by
  unfold Part.strayPulse
  extract_lets count t
  have counted : Local P W c s0 t := h.modMotion_move _ fun _ => rfl
  split
  · unfold Part.losePosition
    extract_lets t1 t2 homing t3
    have raised : Local P W c s0 t2 := Local.raise (counted.modMotion_move (fun m => { m with referenced := false }) fun _ => rfl) _ _ _ _
    have ended : Local P W c s0 t3 := by
      show Local P W c s0 (if homing = true then t2 else t2.abort c .aborted)
      split
      · exact raised
      · exact raised.abort _
    split
    · exact ended.judgeRelief
    · exact ended
  · exact counted

/-! ### A waiting move aborted (R137) -/

/-- A channel at rest after an abort. -/
def Motion.stopped (m : Motion) : Motion := { m with phase := .idle, coastShifts := false, move := none, coastEndsAt := none }

theorem reliefOutcome_aborted (s : Part) (k : MoveKind) : s.reliefOutcome k .aborted = s := rfl

theorem abort_of_still (still : (s.motionOf c).move = none) (o : OutcomeCode) : s.abort c o = s := by
  unfold Part.abort
  rw [still]

/-- A move aborted in WAITING on a channel that is not about to fault. -/
theorem abort_waiting (moves : (s.motionOf c).move = some mv) (waiting : (s.motionOf c).phase = .waiting)
    (calm : (s.motionOf c).standing = none) : s.abort c .aborted =
      ((s.modMotion c Motion.stopped).stopJogTimerOf c mv).recordOutcome c .aborted mv.owner mv.tag := by
  let u : Part := s.modMotion c fun m => { m with phase := .idle, coastShifts := false }
  have moves' : (u.motionOf c).move = some mv := by
    rw [motionOf_modMotion_self]
    exact moves
  have rests : u.modMotion c (fun m => { m with phase := .idle, move := none, coastEndsAt := none }) = s.modMotion c Motion.stopped :=
    modMotion_modMotion s c _ _
  have aborts : s.abort c .aborted = u.endMove c .aborted := by
    unfold Part.abort
    rewrite [moves, waiting]
    show s.comeToRest c (some .aborted) = _
    unfold Part.comeToRest
    rewrite [calm]
    rfl
  rw [aborts]
  unfold Part.endMove
  rewrite [moves']
  rw [← rests]
  exact reliefOutcome_aborted _ mv.kind

theorem notes_abort_waiting (moves : (s.motionOf c).move = some mv) (waiting : (s.motionOf c).phase = .waiting)
    (calm : (s.motionOf c).standing = none) : Notes (s.modMotion c Motion.stopped) (s.abort c .aborted) := by
  rw [abort_waiting moves waiting calm]
  exact (notes_stopJogTimerOf _ c mv).trans (notes_recordOutcome _ c _ _ _)

/-- An outcome recorded while the queue has room is notified. -/
theorem recordOutcome_notified (room : s.bus.queue.length < 24) (o : OutcomeCode) (owner : Owner) (tag : Option Byte) :
    (s.recordOutcome c o owner tag).notified .moveDone (some c) o.code (tagDetail tag) s.window.number :=
  raiseIn_notified (s.modBook c fun e => { e with last := some ⟨o, owner, s.window.number⟩ }) s.window.number .moveDone (some c) o.code
    (tagDetail tag) room

theorem queue_raise (s : Part) (e : Event) (d : Option Channel) (d8 d16 : Nat) :
    (s.raise e d d8 d16).bus.queue.length ≤ s.bus.queue.length + 1 := by
  unfold Part.raise Part.raiseIn
  dsimp only
  split <;> exact (Bus.push_queue _ _).2.2

theorem queue_stopJogTimerOf (s : Part) (c : Channel) (mv : Move) : (s.stopJogTimerOf c mv).bus.queue = s.bus.queue := by
  rw [stopJogTimerOf_eq]

theorem abort_waiting_notified (moves : (s.motionOf c).move = some mv) (waiting : (s.motionOf c).phase = .waiting)
    (calm : (s.motionOf c).standing = none) (room : s.bus.queue.length < 24) :
    (s.abort c .aborted).notified .moveDone (some c) 4 (tagDetail mv.tag) s.window.number := by
  have number : ((s.modMotion c Motion.stopped).stopJogTimerOf c mv).window.number = s.window.number := number_stopJogTimerOf _ c mv
  rw [abort_waiting moves waiting calm, ← number]
  exact recordOutcome_notified (by rw [queue_stopJogTimerOf]; exact room) .aborted mv.owner mv.tag

/-! ### The eighth stray on a channel that stands or waits -/

theorem judgeRelief_of_disarmed (barred : s.reliefBarred = true) (disarmed : s.override.relief = .disarmed) : s.judgeRelief = s := by
  unfold Part.judgeRelief
  rw [if_pos barred, if_pos disarmed]

/-- Plug Relief judged where the reference of the concave is lost: DISARMED. -/
theorem judgeRelief_of_lost (lost : (s.motionOf .concave).referenced = false) :
    s.judgeRelief.override = if s.override.relief = .disarmed then s.override else Override.reset := by
  have barred := barred_of_unreferenced lost
  split
  case isTrue disarmed => rw [judgeRelief_of_disarmed barred disarmed]
  case isFalse active => rw [override_judgeRelief_barred barred active, disarm_override]

end

/-- What an eighth stray leaves of the part, where the channel's motion is then m and its last outcome. -/
structure Part.loses (s t : Part) (c : Channel) (m : Motion) (last : Option LastOutcome) : Prop where
  motion : t.motion = s.motion.set c m
  slots : t.slots = s.slots
  entry : t.entryOf c = { s.entryOf c with last := last }
  others : c ≠ .concave → t.override = s.override
  concave : c = .concave → t.override = if s.override.relief = .disarmed then s.override else Override.reset
  notified : s.bus.queue.length < 24 →
    t.notified .positionLost (some c) 0 (BitVec.ofInt 16 (s.motionOf c).position).toNat s.window.number

section

variable {s : Part} {c : Channel} {mv : Move}

/-- Plug Relief judged after the abort of an eighth stray. -/
theorem loses_judged {u : Part} {m : Motion} {last : Option LastOutcome} (motion : u.motion = s.motion.set c m) (slots : u.slots = s.slots)
    (entry : u.entryOf c = { s.entryOf c with last := last }) (override : u.override = s.override) (lost : m.referenced = false)
    (quiet : Quiet (s.astray c) u) : s.loses (if c = .concave then u.judgeRelief else u) c m last := by
  have notified (room : s.bus.queue.length < 24) :
      (s.astray c).notified .positionLost (some c) 0 (BitVec.ofInt 16 (s.motionOf c).position).toNat s.window.number :=
    raiseIn_notified (s.modMotion c Motion.astray) s.window.number .positionLost (some c) 0 _ room
  by_cases concave : c = .concave
  · rw [if_pos concave]
    have unreferenced : (u.motionOf .concave).referenced = false := by
      rw [← concave, motionOf_of_motion (s := { s with motion := s.motion.set c m }) motion]
      exact (congrArg Motion.referenced (PerChannel.get_set_self _ _ _)).trans lost
    exact ⟨(motion_judgeRelief u).trans motion, (slots_judgeRelief u).trans slots, (entryOf_judgeRelief u c).trans entry,
      fun other => absurd concave other, fun _ => by rw [judgeRelief_of_lost unreferenced, override],
      fun room => quiet.judgeRelief.notified (notified room)⟩
  · rw [if_neg concave]
    exact ⟨motion, slots, entry, fun _ => override, fun is => absurd is concave, fun room => quiet.notified (notified room)⟩

theorem notes_astray (s : Part) (c : Channel) : Notes (s.modMotion c Motion.astray) (s.astray c) := notes_raise _ _ _ _ _

theorem entryOf_astray (s : Part) (c : Channel) : (s.astray c).entryOf c = s.entryOf c := by
  rw [entryOf_of_book (s := s) (by simp [Part.astray])]

theorem eighth_still (seven : (s.motionOf c).strayCount = 7) (referenced : (s.motionOf c).referenced = true)
    (still : (s.motionOf c).move = none) : s.loses (s.strayPulse c) c (s.motionOf c).astray (s.entryOf c).last
    ∧ (s.strayPulse c).book = s.book := by
  have gone : ((s.astray c).motionOf c).move = none := by rw [motionOf_astray]; exact still
  have goes := strayPulse_eighth seven referenced (fun mv moves => absurd (still.symm.trans moves) (by simp))
  rw [abort_of_still gone] at goes
  obtain ⟨motion, slots, override, -⟩ := (notes_astray s c).keeps
  have book : (s.astray c).book = s.book := by simp [Part.astray]
  rw [goes]
  refine ⟨loses_judged motion slots (entryOf_astray s c) override rfl .refl, ?_⟩
  split
  · exact PerChannel.ext_get fun d => (entryOf_judgeRelief _ d).trans (entryOf_of_book book d)
  · exact book

theorem eighth_waiting (seven : (s.motionOf c).strayCount = 7) (referenced : (s.motionOf c).referenced = true)
    (moves : (s.motionOf c).move = some mv) (home : mv.kind ≠ .home) (waiting : (s.motionOf c).phase = .waiting)
    (calm : (s.motionOf c).standing = none) :
    s.loses (s.strayPulse c) c (s.motionOf c).astray.stopped (some ⟨.aborted, mv.owner, s.window.number⟩)
    ∧ (s.bus.queue.length < 23 → (s.strayPulse c).notified .moveDone (some c) 4 (tagDetail mv.tag) s.window.number) := by
  let u : Part := s.astray c
  let w : Part := u.abort c .aborted
  have motionU : u.motionOf c = (s.motionOf c).astray := motionOf_astray
  have movesU : (u.motionOf c).move = some mv := by rw [motionU]; exact moves
  have waitingU : (u.motionOf c).phase = .waiting := by rw [motionU]; exact waiting
  have calmU : (u.motionOf c).standing = none := by rw [motionU]; exact calm
  have goes := strayPulse_eighth seven referenced (fun mv' moves' => Option.some.inj (moves.symm.trans moves') ▸ home)
  obtain ⟨motion, slots, override, window, -⟩ := (notes_astray s c).keeps
  obtain ⟨motion', slots', override', -⟩ := (notes_abort_waiting movesU waitingU calmU).keeps
  have number : u.window.number = s.window.number := congrArg (·.number) window
  have entry : w.entryOf c = { s.entryOf c with last := some ⟨.aborted, mv.owner, s.window.number⟩ } := by
    show (u.abort c .aborted).entryOf c = _
    rw [abort_entry movesU (.inl calmU), number, entryOf_astray]
  have twice : w.motion = s.motion.set c (s.motionOf c).astray.stopped := by
    rw [motion']
    show u.motion.set c ((u.motionOf c).stopped) = _
    rw [motionU, motion]
    refine PerChannel.ext_get fun d => ?_
    rw [PerChannel.get_set, PerChannel.get_set]
    split
    · rfl
    · exact PerChannel.get_set_ne _ _ ‹_›
  have quiet : Quiet u w := Quiet.abort .refl c .aborted
  rw [goes]
  refine ⟨loses_judged twice (slots'.trans slots) entry (override'.trans override) rfl quiet, fun room => ?_⟩
  have told : w.notified .moveDone (some c) 4 (tagDetail mv.tag) s.window.number := by
    rw [← number]
    refine abort_waiting_notified movesU waitingU calmU (Nat.lt_of_le_of_lt (queue_raise _ _ _ _ _) ?_)
    show s.bus.queue.length + 1 < 24
    omega
  split
  · exact (Quiet.judgeRelief .refl).notified told
  · exact told

end

end Sys2Proof.Machine
end

section
/-! PROOFS. O40: what the take rule does on an unreferenced channel (R72, R73), then the feedback pulse in each state of its channel. -/

namespace Sys2Proof.Machine

/-! ### The take rule on an unreferenced channel -/

/-- A channel without a reference, Plug Relief DISARMED where it is CONCAVE. -/
def Part.lacksReference (s : Part) (c : Channel) : Prop :=
  (s.motionOf c).referenced = false ∧ (c = .concave → s.override.relief = .disarmed)

/-- What nothing taken on an unreferenced channel changes. -/
structure Adrift (c : Channel) (s t : Part) : Prop where
  strays : (t.motionOf c).strayCount = (s.motionOf c).strayCount
  position : (t.motionOf c).position = (s.motionOf c).position
  referenced : (t.motionOf c).referenced = (s.motionOf c).referenced
  setpoint : (t.entryOf c).setpoint = (s.entryOf c).setpoint
  override : t.override = s.override

section

variable {c : Channel} {s0 s t : Part}

theorem Adrift.refl (c : Channel) (s : Part) : Adrift c s s := ⟨rfl, rfl, rfl, rfl, rfl⟩

theorem Adrift.trans (h : Adrift c s0 s) (k : Adrift c s t) : Adrift c s0 t :=
  ⟨k.strays.trans h.strays, k.position.trans h.position, k.referenced.trans h.referenced, k.setpoint.trans h.setpoint,
    k.override.trans h.override⟩

theorem Adrift.lacks (h : Adrift c s t) (lacks : s.lacksReference c) : t.lacksReference c :=
  ⟨h.referenced.trans lacks.1, fun concave => by rw [h.override]; exact lacks.2 concave⟩

theorem adrift_of_notes (notes : Notes s t) (setpoint : (t.entryOf c).setpoint = (s.entryOf c).setpoint) : Adrift c s t := by
  obtain ⟨motion, -, override, -⟩ := notes.keeps
  have same := motionOf_of_motion motion c
  exact ⟨by rw [same], by rw [same], by rw [same], setpoint, override⟩

theorem adrift_endEntry (s : Part) (c : Channel) (o : OutcomeCode) (e : Entry) : Adrift c s (s.endEntry c o e) :=
  adrift_of_notes (notes_endEntry s c o e) (by rw [entryOf_endEntry])

theorem adrift_discardEntries (s : Part) (c : Channel) (o : OutcomeCode) (gone : Entry → Bool) :
    Adrift c s (s.discardEntries c o gone) :=
  adrift_of_notes (notes_discardEntries s c o gone) (by rw [entryOf_discardEntries])

theorem adrift_cleared (s : Part) (c : Channel) (e : Entry) (others : List Entry) : Adrift c s (s.cleared c e others) :=
  adrift_of_notes (notes_cleared s c e others) (by rw [entryOf_cleared])

theorem adrift_dropHead (s : Part) (c : Channel) (o : OutcomeCode) (e : Entry) (others : List Entry) :
    Adrift c s ((s.modBook c fun b => { b with requests := others }).endEntry c o e) :=
  (adrift_of_notes (notes_modBook s c _) (by rw [entryOf_modBook_self])).trans (adrift_endEntry _ c o e)

theorem adrift_of_drives (drives : Drives s t) (body : (t.motionOf c).body = (s.motionOf c).body) : Adrift c s t := by
  obtain ⟨-, strays, position, referenced, -⟩ := Motion.body_eq_iff.1 body
  refine ⟨strays, position, referenced, by rw [entryOf_drives drives], ?_⟩
  obtain ⟨motion, slots, rankOrder, shifted, rfl⟩ := drives
  rfl

/-- A hand-over of a HOME, whatever becomes of it. -/
theorem adrift_hand (s : Part) (c : Channel) {mv : Move} (home : mv.kind = .home) : Adrift c s (s.hand c mv) := by
  have plain : mv.kind.plain := by rw [home]; exact ⟨by decide, by decide⟩
  have held (s : Part) : Adrift c s (s.holding c mv) :=
    adrift_of_drives ((Drives.refl s).holding c mv) (body_modMotion s c c fun _ => rfl)
  have waits (s : Part) : Adrift c s (s.enterWaiting c) := adrift_of_drives ((Drives.refl s).enterWaiting c) (body_enterWaiting s c c)
  unfold Part.hand
  split
  · exact adrift_of_notes (notes_recordOutcome s c _ _ _) (by rw [entryOf_recordOutcome])
  · split
    · refine adrift_of_drives (((Drives.refl s).modMotion c _).markShifted c mv) ?_
      rw [motionOf_markShifted]
      exact body_modMotion s c c fun _ => rfl
    · extract_lets t
      have given : Adrift c s t := held s
      split
      · split
        · rw [if_neg (by rw [home]; decide)]
          obtain ⟨rests, entry, -, -, override⟩ := completeMove_leaves (s := t) (holding_move s c mv) plain .complete
          exact given.trans ⟨by rw [rests]; rfl, by rw [rests]; rfl, by rw [rests]; rfl, by rw [entry], override⟩
        · exact given.trans (waits t)
      · exact given.trans (waits t)

theorem override_homing {x : PosChannel} (lacks : s.lacksReference x.channel) : (s.homing x).override = s.override := by
  unfold Part.homing
  dsimp only
  split
  case isTrue concave =>
    have lost : ((s.modMotion x.channel Motion.homing).motionOf .concave).referenced = false := by
      rw [← concave, motionOf_modMotion_self]
      rfl
    rw [judgeRelief_of_disarmed (barred_of_unreferenced lost) (lacks.2 concave)]
    rfl
  case isFalse => rfl

theorem adrift_handHome {x : PosChannel} (lacks : s.lacksReference x.channel) (r : Requester) (tag : Option Byte) :
    Adrift x.channel s (s.handHome x r tag) := by
  have homing : Adrift x.channel s (s.homing x) := by
    have motion := motionOf_homing s x
    exact ⟨by rw [motion]; rfl, by rw [motion]; rfl, by rw [motion]; exact lacks.1.symm, by rw [entryOf_homing], override_homing lacks⟩
  rw [handHome_eq]
  exact homing.trans (adrift_hand _ _ rfl)

theorem adrift_homeFirst {x : PosChannel} (lacks : s.lacksReference x.channel) (e : Entry) : Adrift x.channel s (s.homeFirst x e) := by
  have discards := adrift_discardEntries s x.channel .superseded fun y => !y.requester.same e.requester
  have homes := discards.trans (adrift_handHome (discards.lacks lacks) e.requester none)
  unfold Part.homeFirst
  dsimp only
  split
  · exact homes.trans (adrift_discardEntries _ _ _ _)
  · exact homes

theorem adrift_takeHead {x : PosChannel} (lacks : s.lacksReference x.channel) (e : Entry) (others : List Entry) :
    Adrift x.channel s (s.takeHead x.channel e others) := by
  by_cases stale : e.stale s.window.number = true
  · rw [takeHead_of_stale stale]
    exact adrift_dropHead s _ _ e others
  · have fresh := Bool.eq_false_iff.2 stale
    cases kind : e.kind with
    | set v =>
      rw [takeHead_homes fresh rfl kind lacks.1]
      exact adrift_homeFirst lacks e
    | home =>
      rw [takeHead_ready fresh (readyFor_positional (.inr kind)), takeEntry_home x kind]
      have clears := adrift_cleared s x.channel e others
      exact clears.trans (adrift_handHome (clears.lacks lacks) _ _)
    | jog way =>
      rw [takeHead_aborts fresh rfl (.inl ⟨way, kind⟩) lacks.1]
      exact adrift_dropHead s _ _ e others
    | shake a k =>
      rw [takeHead_aborts fresh rfl (.inr ⟨a, k, kind⟩) lacks.1]
      exact adrift_dropHead s _ _ e others

theorem adrift_take {x : PosChannel} (lacks : s.lacksReference x.channel) : Adrift x.channel s (s.take x.channel) := by
  have upTo (n : Nat) : ∀ s : Part, s.lacksReference x.channel → Adrift x.channel s (s.takeUpTo n x.channel) := by
    induction n with
    | zero => exact fun s _ => .refl _ s
    | succ n ih =>
      intro s lacks
      unfold Part.takeUpTo
      split
      · exact .refl _ s
      case h_2 e others list =>
        split
        · have takes := adrift_takeHead lacks e others
          exact takes.trans (ih _ (takes.lacks lacks))
        · exact .refl _ s
  exact upTo _ s lacks

end

/-! ### The pulse that ends a drive (R106, R107) -/

section

variable {s : Part} {x : PosChannel} {mv : Move}

theorem motionOf_pulsed : (s.pulsed x mv).motionOf x.channel = { s.motionOf x.channel with
    position := stepPosition (s.motionOf x.channel).position mv.direction
    move := some mv.counted
    stallAt := some (s.now + (s.cal.pos.get x).stallTime * 1000) } := motionOf_modMotion_self _ _ _

/-- The motion of a positional channel whose drive a pulse has ended. -/
theorem motionOf_endDrive_pulsed (e : DriveEnd) : ∃ way, ((s.pulsed x mv).endDrive x.channel e).motionOf x.channel =
    { s.motionOf x.channel with
      phase := .coasting, coastEndsAt := some (s.now + s.coastTime x.channel * 1000), stallAt := none, lastDirection := way
      position := stepPosition (s.motionOf x.channel).position mv.direction
      move := some { mv.counted with driveEnd := e } } := by
  refine ⟨mv.counted.direction.or (s.motionOf x.channel).lastDirection, ?_⟩
  rw [motionOf_endDrive_self, motionOf_driveOff, if_pos rfl, motionOf_pulsed, kind_channel]
  rfl

end

end Sys2Proof.Machine
end

section
/-! PROOFS. O40: FEEDBACK_PULSE settled, in each state of its channel. -/

namespace Sys2Proof.Machine

section

variable {s l : Part} {x : PosChannel} {c : Channel} {m : Motion} {last : Option LastOutcome}

theorem freeFor_of_idle (idle : (s.motionOf c).phase = .idle) (still : (s.motionOf c).move = none)
    (relief : c = .concave → s.override.relief.blocks = false) (k : RequestKind) : s.freeFor c k = true := by
  have apart : s.blocked c = false := by
    unfold Part.blocked
    rw [still, idle]
    by_cases concave : c = .concave
    · simp [relief concave]
    · simp [concave]
  unfold Part.freeFor
  rw [apart, idle]
  rfl

/-- What is taken first on a channel whose reference is lost (R72, R73). -/
theorem take_of_lost {e : Entry} {others : List Entry} (idle : (l.motionOf x.channel).phase = .idle)
    (still : (l.motionOf x.channel).move = none) (lacks : l.lacksReference x.channel) (runs : l.shutdown = none)
    (list : (l.entryOf x.channel).requests = e :: others) (lower : ∀ y ∈ others, y.requester.rank < e.requester.rank)
    (commands : e.requester.commands) : let t := l.take x.channel
    let homes := fun (t : Part) (tag : Option Byte) =>
      (t.entryOf x.channel).last = lastOf .superseded l.window.number (l.entryOf x.channel).last others
      ∧ (∃ mv, (t.motionOf x.channel).move = some mv ∧ mv.kind = .home ∧ mv.owner = .request e.requester ∧ mv.tag = tag)
      ∧ t.drivesOrWaits x.channel l.slots.length
    (∀ v, e.kind = .set v → 0 < (l.store.activeCal.figures.pos.get x).homeTravel →
      (t.entryOf x.channel).requests = [e] ∧ homes t none)
    ∧ (e.kind = .home → 0 < (l.store.activeCal.figures.pos.get x).homeTravel →
      (t.entryOf x.channel).requests = [] ∧ homes t e.tag)
    ∧ ((∃ way, e.kind = .jog way) ∨ (∃ a k, e.kind = .shake a k) → others = [] →
      (t.entryOf x.channel).requests = [] ∧ (t.motionOf x.channel).phase = .idle ∧ (t.motionOf x.channel).move = none
        ∧ (t.entryOf x.channel).last = some ⟨.aborted, .request e.requester, l.window.number⟩) := by
  have free : l.freeFor x.channel e.kind = true := freeFor_of_idle idle still (fun concave => by rw [lacks.2 concave]; rfl) _
  have takes := take_of_free runs free list
  have apart : (l.motionOf x.channel).phase ≠ .coasting := by rw [idle]; decide
  have fresh := commands.fresh l.window.number
  dsimp only
  refine ⟨fun v set travel => ?_, fun home travel => ?_, fun kind alone => ?_⟩
  · obtain ⟨moving, entry, home, serves⟩ := homeFirst_takes commands apart travel list lower
    rw [takes, takeHead_homes fresh rfl set lacks.1, takeUpTo_of_busy _ (freeFor_of_moving moving), entry]
    exact ⟨rfl, rfl, home, serves⟩
  · let w : Part := l.cleared x.channel e others
    obtain ⟨motion, slots, -, -, -, -, -, store, -, -⟩ := (notes_cleared l x.channel e others).keeps
    obtain ⟨drives, serves, -, -, i, g, d, n, moves⟩ := handHome_flies (s := w) (x := x) (tag := e.tag) commands
      (by rw [motionOf_of_motion motion]; exact apart) (by rw [store]; exact travel)
    have entry : (w.handHome x e.requester e.tag).entryOf x.channel = { l.entryOf x.channel with
        requests := [], last := lastOf .superseded l.window.number (l.entryOf x.channel).last others } := by
      rw [entryOf_drives drives, entryOf_homing]
      exact entryOf_cleared l x.channel e others
    have head : l.takeHead x.channel e others = w.handHome x e.requester e.tag :=
      (takeHead_ready fresh (readyFor_positional (.inr home))).trans (takeEntry_home x home)
    rw [takes, head, takeUpTo_of_nil _ (by rw [entry]), entry, ← slots]
    exact ⟨rfl, rfl, ⟨_, moves, rfl, rfl, rfl⟩, serves⟩
  · subst alone
    have head := takeHead_aborts (s := l) (others := []) fresh rfl kind lacks.1
    obtain ⟨motion, -⟩ := ((notes_modBook l x.channel fun b => { b with requests := [] }).trans
      (notes_endEntry _ x.channel .aborted e)).keeps
    rw [takes, head]
    dsimp only [List.length_nil, Part.takeUpTo]
    rw [motionOf_of_motion motion, entryOf_endEntry, entryOf_modBook_self]
    exact ⟨rfl, idle, still, rfl⟩

theorem Part.loses.lacks (lost : s.loses l c m last) (referenced : m.referenced = false) : l.lacksReference c := by
  refine ⟨?_, fun concave => ?_⟩
  · rw [motionOf_of_motion (s := { s with motion := s.motion.set c m }) lost.motion]
    exact (congrArg Motion.referenced (PerChannel.get_set_self _ _ _)).trans referenced
  · rw [lost.concave concave]
    split
    · assumption
    · rfl

theorem Part.loses.motionOf (lost : s.loses l c m last) : l.motionOf c = m :=
  (motionOf_of_motion (s := { s with motion := s.motion.set c m }) lost.motion c).trans (PerChannel.get_set_self _ _ _)

/-- What an eighth stray leaves, whatever is taken after it. -/
theorem Part.loses.taken (lost : s.loses l x.channel m last) (referenced : m.referenced = false) : let t := l.take x.channel
    (t.motionOf x.channel).referenced = false ∧ (t.motionOf x.channel).strayCount = m.strayCount
    ∧ (t.motionOf x.channel).position = m.position ∧ (t.entryOf x.channel).setpoint = (s.entryOf x.channel).setpoint
    ∧ (s.bus.queue.length < 24 →
        t.notified .positionLost (some x.channel) 0 (BitVec.ofInt 16 (s.motionOf x.channel).position).toNat s.window.number)
    ∧ (x.channel ≠ .concave → t.override = s.override)
    ∧ (x.channel = .concave → s.override.relief ≠ .disarmed → t.override = Override.reset) := by
  obtain ⟨strays, position, reference, setpoint, override⟩ := adrift_take (lost.lacks referenced)
  rw [lost.motionOf] at strays position reference
  have quiet : Quiet l (l.take x.channel) := Quiet.take .refl x.channel
  exact ⟨reference.trans referenced, strays, position, setpoint.trans (by rw [lost.entry]),
    fun room => quiet.notified (lost.notified room), fun other => override.trans (lost.others other),
    fun concave active => override.trans ((lost.concave concave).trans (if_neg active))⟩

end

/-- What changes neither the phase nor the move of a channel leaves it blocked, or open. -/
theorem blocked_modMotion (s : Part) (c : Channel) {f : Motion → Motion} (phase : ∀ m, (f m).phase = m.phase)
    (move : ∀ m, (f m).move = m.move) : (s.modMotion c f).blocked c = s.blocked c := by
  unfold Part.blocked
  rw [motionOf_modMotion_self, phase, move]
  rfl

end Sys2Proof.Machine

open Sys2Proof Sys2Proof.Machine

/-- Settles O40: a pulse counted in DRIVING and COASTING, the strays, and the eighth in each condition of the channel. -/
theorem aFeedbackPulseMovesTheCountOrIsAStray : Obligations.AFeedbackPulseMovesTheCountOrIsAStray := by
  intro p q dt x on
  have goes := exec_feedbackPulse_of_on on q dt x
  let s : Part := p.later dt
  dsimp only
  refine ⟨fun mv d driving moves way => ⟨fun more short => ?counted, fun ends => ?ends⟩, fun d coasting way => ?coasting,
    fun stands idle few => ?stray, fun seven referenced => ?eighth⟩
  case counted =>
    let u : Part := s.pulsed x mv
    have pulses : s.pulse x = u := (pulse_driving (s := s) driving moves).trans ((if_neg (by omega)).trans (if_neg short))
    have drives : (u.motionOf x.channel).phase ∈ [.waiting, .driving, .coasting] := by
      rw [motionOf_pulsed, show (s.motionOf x.channel).phase = .driving from driving]
      simp
    rw [goes, pulses, take_of_moving drives]
    exact congrArg (fun place => Host.Outcome.next (State.mk { s with motion := s.motion.set x.channel { p.motionOf x.channel with
      position := place, move := some mv.counted, stallAt := some (s.now + ms (s.cal.pos.get x).stallTime) } } q))
      (congrArg (stepPosition (p.motionOf x.channel).position) way)
  case ends =>
    let e : DriveEnd := if mv.remaining ≤ 1 then .ownEnd else .workLeft
    let u : Part := s.pulsed x mv
    have pulses : s.pulse x = u.endDrive x.channel e := by
      refine (pulse_driving (s := s) driving moves).trans ?_
      by_cases done : mv.remaining ≤ 1
      · exact (if_pos (by omega)).trans (by simp only [e, if_pos done]; rfl)
      · exact (if_neg (by omega)).trans ((if_pos (ends.resolve_left done)).trans (by simp only [e, if_neg done]; rfl))
    obtain ⟨lastWay, motion⟩ := motionOf_endDrive_pulsed (s := s) (x := x) (mv := mv) e
    have drives : Drives s (u.endDrive x.channel e) := ((Drives.refl s).modMotion x.channel _).endDrive x.channel e
    have frame := drives.framed x.channel
    have moving : ((u.endDrive x.channel e).motionOf x.channel).phase ∈ [.waiting, .driving, .coasting] := by
      rw [motion]
      simp
    rw [pulses, take_of_moving moving] at goes
    refine ⟨_, goes, frame.now, by rw [motion], ?_, by rw [motion], by rw [motion]; rfl, by rw [motion]; rfl,
      endDrive_slots u x.channel e, drives.book, drives.bus, frame.store, frame.capture, frame.lines, frame.power.trans on,
      frame.number, frame.history⟩
    rw [motion, way]
    rfl
  case coasting =>
    let u : Part := s.pulse x
    have pulses := pulse_coasting (s := s) (x := x) coasting
    have coasts : (u.motionOf x.channel).phase ∈ [.waiting, .driving, .coasting] := by
      rw [show u = _ from pulses, motionOf_modMotion_self]
      rw [show (s.motionOf x.channel).phase = .coasting from coasting]
      simp
    rw [goes, show (s.pulse x).take x.channel = s.pulse x from take_of_moving coasts, pulses]
    exact congrArg (fun place => Host.Outcome.next (State.mk { s with motion := s.motion.set x.channel { p.motionOf x.channel with
      position := place
      move := (p.motionOf x.channel).move.map fun mv =>
        if mv.kind = .home ∨ mv.kind = .jog then { mv with remaining := mv.remaining - 1 } else mv } } q))
      (congrArg (stepPosition (p.motionOf x.channel).position) way)
  case stray =>
    let u : Part := s.modMotion x.channel fun m => { m with strayCount := min 255 (m.strayCount + 1) }
    have pulses : s.pulse x = u := (pulse_stray (s := s) stands).trans (strayPulse_few (s := s) few)
    have untaken : u.take x.channel = u := by
      rcases idle with empty | waiting | blocked
      · exact take_of_nil (s := u) empty
      · refine take_of_moving ?_
        rw [motionOf_modMotion_self, show (s.motionOf x.channel).phase = .waiting from waiting]
        simp
      · have same : u.blocked x.channel = s.blocked x.channel := blocked_modMotion s x.channel (fun _ => rfl) fun _ => rfl
        exact take_of_barred (same.trans blocked)
    rw [goes, pulses, untaken]
    rfl
  case eighth =>
    let l : Part := s.strayPulse x.channel
    have pulsed : Local AnyOwner False x.channel s l := (Local.refl s).strayPulse
    have frame : Framed x.channel s (l.take x.channel) :=
      pulsed.framed.trans ((Local.refl (P := AnyOwner) (W := True) l).take (listFits_any l _)).framed
    have loses {m : Motion} {last : Option LastOutcome} {holds : Part → Prop}
        (stands : (p.motionOf x.channel).phase = .idle ∨ (p.motionOf x.channel).phase = .waiting
          ∨ ∃ cause, (p.motionOf x.channel).phase = .faulted cause)
        (lost : s.loses l x.channel m last) (astray : m.referenced = false ∧ m.strayCount = 8
          ∧ m.position = (p.motionOf x.channel).position) (meets : holds (l.take x.channel)) :
        ∃ t : Part, exec (.feedbackPulse dt x) ⟨p, q⟩ = .next ⟨t, q⟩
          ∧ t.now = p.now + dt ∧ (t.motionOf x.channel).referenced = false ∧ (t.motionOf x.channel).strayCount = 8
          ∧ (t.motionOf x.channel).position = (p.motionOf x.channel).position
          ∧ (t.entryOf x.channel).setpoint = (p.entryOf x.channel).setpoint
          ∧ (∀ e, e ≠ x.channel → t.entryOf e = p.entryOf e)
          ∧ (p.bus.queue.length < 24 → t.notified .positionLost (some x.channel) 0
              (BitVec.ofInt 16 (p.motionOf x.channel).position).toNat p.window.number)
          ∧ (x.channel ≠ .concave → t.override = p.override)
          ∧ (x.channel = .concave → p.override.relief ≠ .disarmed → t.override = Override.reset)
          ∧ t.store = p.store ∧ t.capture = p.capture ∧ t.lines = p.lines ∧ t.power = .on
          ∧ t.window.number = p.window.number ∧ t.window.history = p.window.history ∧ holds t := by
      obtain ⟨unreferenced, eight, position⟩ := astray
      obtain ⟨reference, strays, place, setpoint, notified, others, concave⟩ := lost.taken unreferenced
      rw [show (p.later dt).pulse x = l from pulse_stray (s := s) stands] at goes
      exact ⟨_, goes, frame.now, reference, strays.trans eight, place.trans position, setpoint, frame.entries, notified, others,
        concave, frame.store, frame.capture, frame.lines, frame.power.trans on, frame.number, frame.history, meets⟩
    refine ⟨fun stands still empty => ?still, fun mv ⟨waiting, moves, home⟩ calm empty => ?waiting,
      fun e others list runs calm state lower requester => ?listed⟩
    case still =>
      obtain ⟨lost, book⟩ := eighth_still (s := s) seven referenced still
      refine loses stands lost ⟨rfl, rfl, rfl⟩ ?_
      rw [take_of_nil (by rw [lost.entry]; exact empty)]
      exact ⟨lost.motion, book⟩
    case waiting =>
      obtain ⟨lost, told⟩ := eighth_waiting (s := s) seven referenced moves home waiting calm
      refine loses (.inr (.inl waiting)) lost ⟨rfl, rfl, rfl⟩ ?_
      rw [take_of_nil (by rw [lost.entry]; exact empty), lost.motionOf, lost.entry]
      exact ⟨rfl, rfl, lost.slots, empty, rfl, told⟩
    case listed =>
      have commands : e.requester.commands := requester
      have supersedes (before : Option LastOutcome) : lastOf .superseded p.window.number before others =
          match others.getLast? with
          | some y => some ⟨.superseded, .request y.requester, p.window.number⟩
          | none => before := by
        cases final : others.getLast? with
        | none => exact lastOf_of_getLast.2 final
        | some y => exact lastOf_of_getLast.1 y final
      have number : l.window.number = p.window.number := pulsed.framed.number
      have store : l.store = p.store := pulsed.framed.store
      have taken {m : Motion} {last : Option LastOutcome} (lost : s.loses l x.channel m last) (idle : m.phase = .idle)
          (still : m.move = none) (unreferenced : m.referenced = false) :=
        take_of_lost (l := l) (x := x) (e := e) (others := others) (by rw [lost.motionOf]; exact idle)
          (by rw [lost.motionOf]; exact still) (lost.lacks unreferenced) (pulsed.framed.shutdown.trans runs)
          (by rw [lost.entry]; exact list) lower commands
      rcases state with ⟨idle, still⟩ | ⟨mv, waiting, moves, home⟩
      · obtain ⟨lost, -⟩ := eighth_still (s := s) seven referenced still
        have takes := taken lost idle still rfl
        dsimp only at takes
        rw [number, lost.entry, lost.slots, store, supersedes] at takes
        rw [still]
        exact loses (.inl idle) lost ⟨rfl, rfl, rfl⟩ ⟨fun mv moves => absurd moves (by simp), takes⟩
      · obtain ⟨lost, told⟩ := eighth_waiting (s := s) seven referenced moves home waiting calm
        have takes := taken lost rfl rfl rfl
        dsimp only at takes
        rw [number, lost.entry, lost.slots, store, supersedes] at takes
        rw [moves]
        refine loses (.inr (.inl waiting)) lost ⟨rfl, rfl, rfl⟩ ⟨fun mv' moves' room => ?_, takes⟩
        rw [← Option.some.inj moves']
        exact (Quiet.take .refl x.channel : Quiet l _).notified (told room)

end

section
/-! PROOFS. What a coast expiry asks the Drive Arbiter for (R131, R140 to R142), and what the outcome of a move with a target leaves of
Plug Relief (R104, R150, R152). -/

namespace Sys2Proof.Machine

/-! ### The holder that a RELIEF move preempts (R140) -/

/-- The lowest class of a list of channels, 3 where none is lower: below 3 it is the class of one of them. -/
theorem lowest_class (f : Channel → Nat) (l : List Channel) : ∀ n, (l.foldl (fun n c => min n (f c)) n ≤ n
    ∧ ∀ c ∈ l, l.foldl (fun n c => min n (f c)) n ≤ f c)
    ∧ (l.foldl (fun n c => min n (f c)) n = n ∨ ∃ c ∈ l, f c = l.foldl (fun n c => min n (f c)) n) := by
  induction l with
  | nil => exact fun n => ⟨⟨Nat.le_refl n, fun c mem => absurd mem List.not_mem_nil⟩, .inl rfl⟩
  | cons d rest ih =>
    intro n
    obtain ⟨⟨least, below⟩, attained⟩ := ih (min n (f d))
    simp only [List.foldl_cons, List.mem_cons]
    refine ⟨⟨least.trans (Nat.min_le_left _ _), fun c mem => ?_⟩, ?_⟩
    · rcases mem with rfl | mem
      · exact least.trans (Nat.min_le_right _ _)
      · exact below c mem
    · rcases attained with start | ⟨c, mem, is⟩
      · rcases Nat.le_total n (f d) with first | second
        · exact .inl (start.trans (Nat.min_eq_left first))
        · exact .inr ⟨d, .inl rfl, (start.trans (Nat.min_eq_right second)).symm⟩
      · exact .inr ⟨c, .inr mem, is⟩

theorem preemptable_of_none {s : Part} (above : ¬∃ y ∈ s.slots, s.classOf y.channel < 3) : s.preemptable = none := by
  have holders : ((s.slots.map (·.channel)).filter fun c => s.classOf c < 3) = [] :=
    List.filter_eq_nil_iff.2 fun c mem low => by
      obtain ⟨y, held, rfl⟩ := List.mem_map.1 mem
      exact above ⟨y, held, of_decide_eq_true low⟩
  unfold Part.preemptable
  rw [holders]
  rfl

/-- Where a holder is below class OVERRIDE, one of the holders is preempted. -/
theorem preemptable_of_some {s : Part} (some' : ∃ y ∈ s.slots, s.classOf y.channel < 3) : ∃ holder, s.preemptable = some holder := by
  let holders : List Channel := (s.slots.map (·.channel)).filter fun c => s.classOf c < 3
  let low : Nat := holders.foldl (fun n c => min n (s.classOf c)) 3
  obtain ⟨y, held, less⟩ := some'
  have among : y.channel ∈ holders := List.mem_filter.2 ⟨List.mem_map.2 ⟨y, held, rfl⟩, decide_eq_true less⟩
  obtain ⟨⟨-, below⟩, attained⟩ := lowest_class s.classOf holders 3
  have lowest : ∃ c ∈ holders, s.classOf c = low := attained.resolve_left fun top =>
    absurd (below y.channel among) (by rw [top]; exact Nat.not_le.2 less)
  obtain ⟨c, mem, is⟩ := lowest
  have chosen : c ∈ holders.filter fun c => s.classOf c = low := List.mem_filter.2 ⟨mem, decide_eq_true is⟩
  have goes : s.preemptable = (holders.filter fun c => s.classOf c = low).getLast? := rfl
  rw [goes, List.getLast?_eq_some_getLast (List.ne_nil_of_mem chosen)]
  exact ⟨_, rfl⟩

/-! ### A move with a target that asks for a slot (R131, R140) -/

section

variable {s t p : Part} {c : Channel} {x : PosChannel} {mv : Move} {z : Int}

theorem servedOrWaits_congr {k : MoveKind} {first : Bool} (h : t.servedOrWaits s c k first) (slots : s.slots = p.slots)
    (classes : ∀ d, s.classOf d = p.classOf d) : t.servedOrWaits p c k first := by
  unfold Part.servedOrWaits at *
  rw [slots] at h
  simp only [classes] at h
  exact h

theorem classOf_of_owner (owner : ∀ d, (t.motionOf d).move.map (·.owner) = (s.motionOf d).move.map (·.owner)) (d : Channel) :
    t.classOf d = s.classOf d := by
  have same := owner d
  unfold Part.classOf
  cases moves : (t.motionOf d).move with
  | none =>
    rw [moves] at same
    rw [Option.map_eq_none_iff.1 same.symm]
  | some mv =>
    rw [moves] at same
    obtain ⟨mv', moves', owner'⟩ := Option.map_eq_some_iff.1 same.symm
    rw [moves']
    exact congrArg Owner.rank owner'.symm

theorem owner_modMotion (s : Part) (c : Channel) {f : Motion → Motion} (owner : (f (s.motionOf c)).move.map (·.owner) =
    (s.motionOf c).move.map (·.owner)) (d : Channel) :
    ((s.modMotion c f).motionOf d).move.map (·.owner) = (s.motionOf d).move.map (·.owner) := by
  rw [motionOf_modMotion]
  split
  case isTrue same => rw [same, owner]
  case isFalse => rfl

/-- A channel granted the slot of a holder that a RELIEF move preempts: the move it has then, and its drive. -/
theorem preempted_move (moves : (s.motionOf x.channel).move = some mv) (jog : mv.kind ≠ .jog) (home : mv.kind ≠ .home)
    (aimed : mv.target = some z) (base : mv.base ≠ 0) (away : z ≠ (s.motionOf x.channel).position) (holder : Channel) :
    let t := ((s.driveOff holder .workLeft).grant x.channel).regrant
    (t.motionOf x.channel).phase = .driving
    ∧ ∃ (i : Nat) (w : Option Direction) (g : Bool) (e : DriveEnd) (n : Nat), (t.motionOf x.channel).move = some { mv with
        stintCount := i, remaining := min mv.base (distance z (s.motionOf x.channel).position), direction := w, granted := g
        driveEnd := e, driveTime := n } := by
  let u : Part := s.driveOff holder .workLeft
  have kept : ∃ (e : DriveEnd) (n : Nat), (u.motionOf x.channel).move = some { mv with driveEnd := e, driveTime := n } := by
    by_cases own : x.channel = holder
    · rw [motionOf_driveOff, if_pos own, ← own, moves]
      exact ⟨_, _, rfl⟩
    · rw [motionOf_driveOff_of_ne s own, moves]
      exact ⟨mv.driveEnd, mv.driveTime, rfl⟩
  obtain ⟨e, n, movesU⟩ := kept
  have position : (u.motionOf x.channel).position = (s.motionOf x.channel).position :=
    (Motion.body_eq_iff.1 (body_driveOff s holder x.channel .workLeft)).2.2.1
  have far := distance_ne_zero away
  let mv' : Move := { mv with driveEnd := e, driveTime := n }
  have on : u.goesOff x.channel mv' = false := by
    rw [goesOff_of_target (mv := mv') (t := z) jog home aimed, position]
    exact decide_eq_false (show ¬min mv.base (distance z (s.motionOf x.channel).position) = 0 by omega)
  have granted := grant_granted movesU
  obtain ⟨e', n', runs⟩ := granted.move
  rw [granted_of_target (mv := mv') (t := z) jog home aimed, position] at runs
  dsimp only
  rw [grant_regrant movesU]
  exact ⟨granted.driving on, _, _, _, e', n', runs⟩

/-- A move with a target and counts to go that asks for a slot after a coast: served, or waiting, as it goes on. -/
theorem asks_aimed (moves : (s.motionOf x.channel).move = some mv) (jog : mv.kind ≠ .jog) (home : mv.kind ≠ .home)
    (aimed : mv.target = some z) (base : mv.base ≠ 0) (away : z ≠ (s.motionOf x.channel).position) (first : Bool) :
    let t := (s.enterWaiting x.channel).preemptUnless first x.channel
    let off := min mv.base (distance z (s.motionOf x.channel).position)
    Drives s t ∧ t.servedOrWaits s x.channel mv.kind first
    ∧ ∃ (i k : Nat) (w : Option Direction) (g : Bool) (e : DriveEnd) (n : Nat), (t.motionOf x.channel).move = some { mv with
        stintCount := i, remaining := k, direction := w, granted := g, driveEnd := e, driveTime := n }
      ∧ (k = mv.remaining ∨ k = off) ∧ (s.slots.length < 2 → k = off) := by
  let u : Part := s.enterWaiting x.channel
  have drives : Drives s (u.preemptUnless first x.channel) := ((Drives.refl s).enterWaiting x.channel).preemptUnless first x.channel
  refine ⟨drives, ?_⟩
  by_cases room : s.slots.length < 2
  · obtain ⟨serves, i, k, w, g, e, n, runs, least⟩ := enterWaiting_left moves jog home aimed base away
    rw [if_pos room] at least
    have driving : (u.motionOf x.channel).phase = .driving := serves.1 room
    have calm : u.reliefWaits x.channel = false := by
      unfold Part.reliefWaits
      rw [show (u.motionOf x.channel).move = _ from runs, driving]
      simp
    rw [preemptUnless_of_calm calm]
    exact ⟨⟨fun _ => driving, fun full => absurd room (Nat.not_lt.2 full)⟩, i, k, w, g, e, n, runs, .inr least, fun _ => least⟩
  · have full : 2 ≤ s.slots.length := Nat.not_lt.1 room
    have is : u = s.modMotion x.channel fun m => { m with phase := .waiting, coastEndsAt := none } := enterWaiting_of_full full
    have motion : u.motionOf x.channel = { s.motionOf x.channel with phase := .waiting, coastEndsAt := none } := by
      rw [is, motionOf_modMotion_self]
    have movesU : (u.motionOf x.channel).move = some mv := by rw [motion]; exact moves
    have waiting : (u.motionOf x.channel).phase = .waiting := by rw [motion]
    have position : (u.motionOf x.channel).position = (s.motionOf x.channel).position := by rw [motion]
    have slots : u.slots = s.slots := by rw [is]; rfl
    have classes (d : Channel) : u.classOf d = s.classOf d := by
      rw [is]
      exact classOf_of_owner (owner_modMotion s x.channel rfl) d
    have waits (calm : ¬(mv.kind = .relief ∧ first = false ∧ ∃ y ∈ s.slots, s.classOf y.channel < 3))
        (still : u.preemptUnless first x.channel = u) :
        (u.preemptUnless first x.channel).servedOrWaits s x.channel mv.kind first
        ∧ ∃ (i k : Nat) (w : Option Direction) (g : Bool) (e : DriveEnd) (n : Nat),
          ((u.preemptUnless first x.channel).motionOf x.channel).move = some { mv with
            stintCount := i, remaining := k, direction := w, granted := g, driveEnd := e, driveTime := n }
          ∧ (k = mv.remaining ∨ k = min mv.base (distance z (s.motionOf x.channel).position))
          ∧ (s.slots.length < 2 → k = min mv.base (distance z (s.motionOf x.channel).position)) := by
      rw [still]
      exact ⟨⟨fun free => absurd free room, fun _ _ => ⟨fun preempts => absurd preempts calm, fun _ => waiting⟩⟩,
        _, _, _, _, _, _, movesU, .inl rfl, fun free => absurd free room⟩
    by_cases relief : mv.kind = .relief
    · cases first with
      | true => exact waits (fun bad => Bool.noConfusion bad.2.1) rfl
      | false =>
        have asks : u.reliefWaits x.channel = true ∧ slotCount ≤ u.slots.length := by
          refine ⟨?_, by rw [slots]; exact full⟩
          unfold Part.reliefWaits
          rw [movesU, waiting]
          simp [relief]
        by_cases lower : ∃ y ∈ s.slots, s.classOf y.channel < 3
        · obtain ⟨holder, preempts⟩ := preemptable_of_some (s := u) (by simp only [slots, classes]; exact lower)
          have goes : u.preemptUnless false x.channel = ((u.driveOff holder .workLeft).grant x.channel).regrant := by
            show u.preempt x.channel = _
            unfold Part.preempt
            rw [if_pos asks, preempts]
          obtain ⟨driving, i, w, g, e, n, runs⟩ := preempted_move movesU jog home aimed base (by rw [position]; exact away) holder
          rw [position] at runs
          rw [goes]
          exact ⟨⟨fun free => absurd free room, fun _ _ => ⟨fun _ => driving, fun calm => absurd ⟨relief, rfl, lower⟩ calm⟩⟩,
            i, _, w, g, e, n, runs, .inr rfl, fun _ => rfl⟩
        · have none : u.preemptable = none := preemptable_of_none (s := u) (by simp only [slots, classes]; exact lower)
          refine waits (fun bad => lower bad.2.2) ?_
          show u.preempt x.channel = _
          unfold Part.preempt
          rw [if_pos asks, none]
    · exact waits (fun bad => relief bad.1) (preemptUnless_of_calm (reliefWaits_of_kind movesU relief) first)

/-! ### The outcome of a move with a target, and Plug Relief (R104, R150, R152) -/

/-- The outcomes that end a move of the Override Unit (R150, R152). -/
def OutcomeCode.ends (o : OutcomeCode) : Prop := o = .complete ∨ o = .completeOff ∨ o = .stalled

/-- The detail of RELIEF_RECOVERED. -/
def OutcomeCode.detail (o : OutcomeCode) : Nat := if o = .complete then 0 else if o = .completeOff then 1 else 2

theorem reliefOutcome_opened {o : OutcomeCode} (ends : o.ends) (opening : s.override.relief = .opening) :
    s.reliefOutcome .relief o = { s with
      override := { s.override with
        relief := .openHeld false, giveUpAt := some (s.now + s.store.activePreset.relief.giveUpTime * 1000)
        watchAt := s.watchDeadline s.store.activePreset.relief.recoverPercent }
      window := { s.window with marks := { s.window.marks with relief := true } } } := by
  let u : Part := s.setRelief (.openHeld false)
  let w : Part := { u with override := { u.override with giveUpAt := some (u.now + ms u.params.relief.giveUpTime) } }
  have starts : s.reliefOutcome .relief o = w.startWatch := by
    unfold Part.reliefOutcome
    rewrite [opening]
    rcases ends with rfl | rfl | rfl <;> rfl
  rw [starts, startWatch_of_watched (s := w) (percent := s.store.activePreset.relief.recoverPercent) rfl]
  rfl

theorem reliefOutcome_returned {o : OutcomeCode} (ends : o.ends) (returning : s.override.relief = .returning) :
    s.reliefOutcome .returning o =
      ({ s with override := { s.override with relief := .armed, confirmAt := none } } : Part).raise .reliefRecovered (some .concave)
        o.detail (s.capture.speed.drum.rpm % 65536) := by
  unfold Part.reliefOutcome
  rewrite [returning]
  rcases ends with rfl | rfl | rfl <;> rfl

theorem reliefOutcome_other {k : MoveKind} (opened : ¬(k = .relief ∧ s.override.relief = .opening))
    (returned : ¬(k = .returning ∧ s.override.relief = .returning)) (o : OutcomeCode) : s.reliefOutcome k o = s := by
  unfold Part.reliefOutcome
  dsimp only
  split
  case h_1 relief => exact absurd ⟨rfl, relief⟩ opened
  case h_2 relief => exact absurd ⟨rfl, relief⟩ returned
  · rfl

theorem raise_keeps (s : Part) (e : Event) (d : Option Channel) (d8 d16 : Nat) :
    (s.raise e d d8 d16).evaluator = s.evaluator ∧ (s.raise e d d8 d16).override = s.override := by
  obtain ⟨-, -, override, -, evaluator, -⟩ := (notes_raise s e d d8 d16).keeps
  exact ⟨evaluator, override⟩

/-- What the end of a move with a target leaves. -/
theorem endTarget_leaves (moves : (s.motionOf c).move = some mv) (jog : mv.kind ≠ .jog) {o : OutcomeCode}
    (ends : o.ends ∨ mv.kind = .set) : let t := s.endMove c o
    let k := s.store.activePreset.relief
    let opened := mv.kind = .relief ∧ s.override.relief = .opening
    let returned := mv.kind = .returning ∧ s.override.relief = .returning
    t.motionOf c = (s.motionOf c).ended
    ∧ t.entryOf c = { s.entryOf c with last := some ⟨o, mv.owner, s.window.number⟩ }
    ∧ t.evaluator = s.evaluator
    ∧ (opened → t.window.marks.relief = true ∧ t.override = { s.override with
        relief := .openHeld false, giveUpAt := some (s.now + k.giveUpTime * 1000), watchAt := s.watchDeadline k.recoverPercent })
    ∧ (returned → t.override = { s.override with relief := .armed, confirmAt := none }
        ∧ (s.bus.queue.length < 23 → t.notified .reliefRecovered (some .concave) o.detail (s.capture.speed.drum.rpm % 65536)
            s.window.number))
    ∧ (¬opened → ¬returned → t.override = s.override) := by
  let u : Part := s.modMotion c Motion.ended
  let w : Part := u.recordOutcome c o mv.owner mv.tag
  have goes : s.endMove c o = w.reliefOutcome mv.kind o := by
    unfold Part.endMove Part.stopJogTimerOf
    rewrite [moves]
    dsimp only
    rewrite [if_neg jog]
    rfl
  obtain ⟨motion, -, override, window, evaluator, -, -, store, capture, -⟩ := (notes_recordOutcome u c o mv.owner mv.tag).keeps
  have frame : Framed c u w := ((Local.refl (P := AnyOwner) (W := True) u).recordOutcome o mv.owner mv.tag).framed
  have now : w.now = s.now := frame.now
  have entry : w.entryOf c = { s.entryOf c with last := some ⟨o, mv.owner, s.window.number⟩ } := entryOf_recordOutcome u c o _ _
  have drum : (w.entryOf .drum).setpoint = (s.entryOf .drum).setpoint := by
    by_cases at' : Channel.drum = c
    · subst at'
      rw [entry]
    · rw [frame.entries _ at']
      rfl
  have rests : (w.reliefOutcome mv.kind o).motionOf c = (s.motionOf c).ended := by
    rw [motionOf_of_motion (motion_reliefOutcome _ _ _), motionOf_of_motion motion, motionOf_modMotion_self]
  dsimp only
  rw [goes]
  refine ⟨rests, (entryOf_of_book (book_reliefOutcome _ _ _) c).trans entry, ?_⟩
  by_cases opened : mv.kind = .relief ∧ s.override.relief = .opening
  · obtain ⟨kind, opening⟩ := opened
    have code : o.ends := ends.resolve_right (by rw [kind]; decide)
    have apart : ¬(mv.kind = .returning ∧ s.override.relief = .returning) := fun bad => absurd (kind.symm.trans bad.1) (by decide)
    have watch : w.watchDeadline s.store.activePreset.relief.recoverPercent =
        s.watchDeadline s.store.activePreset.relief.recoverPercent := by
      unfold Part.watchDeadline
      rw [store, drum, now]
      rfl
    have is := reliefOutcome_opened (s := w) code (by rw [override]; exact opening)
    rw [kind, is]
    refine ⟨evaluator, fun _ => ⟨rfl, ?_⟩, fun bad => absurd bad.1 (by decide), fun other => absurd ⟨rfl, opening⟩ other⟩
    show ({ w.override with
      relief := .openHeld false, giveUpAt := some (w.now + w.store.activePreset.relief.giveUpTime * 1000)
      watchAt := w.watchDeadline w.store.activePreset.relief.recoverPercent } : Override) = _
    rw [override, store, now, show (u.store.activePreset.relief.recoverPercent) = s.store.activePreset.relief.recoverPercent from rfl,
      watch]
    rfl
  · by_cases returned : mv.kind = .returning ∧ s.override.relief = .returning
    · obtain ⟨kind, returning⟩ := returned
      have code : o.ends := ends.resolve_right (by rw [kind]; decide)
      let v : Part := { w with override := { w.override with relief := .armed, confirmAt := none } }
      have is := reliefOutcome_returned (s := w) code (by rw [override]; exact returning)
      have fields := raise_keeps v .reliefRecovered (some .concave) o.detail (w.capture.speed.drum.rpm % 65536)
      rw [kind, is]
      refine ⟨fields.1.trans evaluator, fun bad => absurd bad.1 (by decide), fun _ => ⟨fields.2.trans ?_, fun room => ?_⟩,
        fun _ other => absurd ⟨rfl, returning⟩ other⟩
      · show ({ w.override with relief := .armed, confirmAt := none } : Override) = _
        rw [override]
        rfl
      · have queue : w.bus.queue.length < 24 := by
          have grown : w.bus.queue.length ≤ u.bus.queue.length + 1 := queue_raise _ _ _ _ _
          have same : u.bus.queue.length = s.bus.queue.length := rfl
          omega
        have told := raiseIn_notified v v.window.number .reliefRecovered (some .concave) o.detail (w.capture.speed.drum.rpm % 65536) queue
        have number : v.window.number = s.window.number := congrArg (·.number) window
        have rpm : w.capture.speed.drum.rpm = s.capture.speed.drum.rpm := by rw [capture]; rfl
        rw [← rpm, ← number]
        exact told
    · have opened' : ¬(mv.kind = .relief ∧ w.override.relief = .opening) := by rw [override]; exact opened
      have returned' : ¬(mv.kind = .returning ∧ w.override.relief = .returning) := by rw [override]; exact returned
      rw [reliefOutcome_other opened' returned']
      exact ⟨evaluator, fun bad => absurd bad opened, fun bad => absurd bad returned, fun _ _ => override⟩

end

end Sys2Proof.Machine
end

section
/-! PROOFS. O41: COAST_TIMER_EXPIRY and SETTLE_TIMER_EXPIRY of a move with a target (R103, R104, R108, R109, R112, R124, R141, R150, R152). -/

namespace Sys2Proof.Machine

section

variable {s : Part} {c : Channel} {x : PosChannel} {v : SpeedChannel} {mv : Move} {z : Int}

/-! ### The step that the expiry of a move with a target is -/

/-- The one correction of a move off its target, asked for a slot. -/
theorem judgeTarget_corrects (beyond : s.deadbandCounts x < distance z (s.motionOf x.channel).position) (fresh : mv.corrected = false) :
    s.judgeTarget x mv z = (s.holding x.channel { mv.aim (s.motionOf x.channel).position z with corrected := true }).enterWaiting x.channel :=
  (if_neg (Nat.not_le.2 beyond)).trans (if_neg (by rw [fresh]; decide))

/-- A move handed to a coasting channel as its coast ends: aimed from where the channel stands. -/
def Move.taken (mv : Move) (position z : Int) : Move := { mv with begunCoasting := false }.aim position z

theorem begunCoastEnds_aimed (kinds : mv.kind ∈ [.set, .relief, .returning, .park]) (aimed : mv.target = some z) :
    s.begunCoastEnds x mv =
      if distance z (s.motionOf x.channel).position = 0
      then (s.holding x.channel (mv.taken (s.motionOf x.channel).position z)).completeMove x.channel .complete
      else (s.holding x.channel (mv.taken (s.motionOf x.channel).position z)).enterWaiting x.channel := by
  cases mv
  subst aimed
  simp only [List.mem_cons, List.not_mem_nil, or_false] at kinds
  rcases kinds with rfl | rfl | rfl | rfl <;> rfl

theorem settleEnds_set (moves : (s.motionOf v.channel).move = some mv) (set : mv.kind = .set) :
    (mv.driveEnd ≠ .workLeft →
      s.settleEnds v = (s.coasted v.channel).endMove v.channel (if mv.limit = true then .limit else .complete))
    ∧ (mv.driveEnd = .workLeft → mv.target = some z → s.settleEnds v =
      if distance z (s.rpmOf v) ≤ (s.store.activePreset.bands.get v).approach then (s.coasted v.channel).endMove v.channel .complete
      else (s.coasted v.channel).enterWaiting v.channel) := by
  have moves' := coasted_move moves
  unfold Part.coasted at *
  unfold Part.settleEnds
  dsimp only
  rewrite [moves']
  dsimp only
  rewrite [set]
  refine ⟨fun own => ?_, fun left aimed => ?_⟩
  · exact (if_neg own).trans (if_neg (by decide))
  · rewrite [if_pos left, aimed]
    rfl

/-! ### The third stall on the concave (R50, R112, R145) -/

theorem queue_recordOutcome (s : Part) (c : Channel) (o : OutcomeCode) (owner : Owner) (tag : Option Byte) :
    (s.recordOutcome c o owner tag).bus.queue.length ≤ s.bus.queue.length + 1 :=
  queue_raise (s.modBook c fun e => { e with last := some ⟨o, owner, s.window.number⟩ }) _ _ _ _

/-- A fault of the concave out of OPENING or OPEN_HELD forces the Feed Restrain to LOAD, and announces it. -/
theorem fault_restrains (moves : (s.motionOf .concave).move = some mv) (empty : (s.entryOf .concave).requests = []) (cause : FaultCause)
    (o : OutcomeCode) (opens : s.override.relief.opens = true) : let t := s.fault .concave cause (some o)
    t.evaluator.restrain = .restrained .load 0
    ∧ ((∃ held, s.evaluator.restrain = .restrained .relief held) → s.bus.queue.length < 22 → t.restrainSent) := by
  let w : Part := (s.modMotion .concave fun m => m.faulted cause).raise .channelFaulted (some .concave) cause.code 0
  let n : Part := s.faultNoted .concave cause o mv
  obtain ⟨motion, -, override, -, evaluator, -⟩ := (notes_faultNoted s .concave cause o mv).keeps
  have opensN : n.override.relief.opens = true := by rw [override]; exact opens
  have active : n.override.relief ≠ .disarmed := fun disarmed => by
    rw [disarmed] at opensN
    exact absurd opensN (by decide)
  have lost : (n.motionOf .concave).referenced = false := by
    rw [motionOf_of_motion motion, motionOf_modMotion_self]
    rfl
  have goes : s.fault .concave cause (some o) = n.disarm :=
    (fault_eq moves empty cause o).trans ((if_pos rfl).trans (override_judgeRelief_barred (barred_of_unreferenced lost) active))
  have queue : n.bus.queue.length ≤ s.bus.queue.length + 2 := by
    have first : w.bus.queue.length ≤ s.bus.queue.length + 1 := queue_raise _ _ _ _ _
    have second : n.bus.queue.length ≤ (w.stopJogTimerOf .concave mv).bus.queue.length + 1 := queue_recordOutcome _ _ _ _ _
    rw [queue_stopJogTimerOf] at second
    omega
  dsimp only
  rw [goes]
  refine ⟨?_, fun ⟨held, relief⟩ room => disarm_sent n (held := held) opensN (by rw [evaluator]; exact relief) (by omega)⟩
  rcases Closes.disarm n with ⟨same, -⟩ | ⟨-, -, load⟩
  · rw [disarm_override, opensN] at same
    exact absurd same (by decide)
  · exact load

theorem stallMove_few (few : (s.motionOf c).stallCount + 1 < 3) :
    s.stallMove c = (s.modMotion c fun m => { m with stallCount := (s.motionOf c).stallCount + 1 }).endMove c .stalled :=
  if_neg (Nat.not_le.2 few)

theorem stallMove_third (third : 3 ≤ (s.motionOf c).stallCount + 1) : s.stallMove c =
    (s.modMotion c fun m => { m with stallCount := (s.motionOf c).stallCount + 1 }).fault c .stall (some .stalled) :=
  if_pos third

end

end Sys2Proof.Machine

open Sys2Proof Sys2Proof.Machine

/-- Settles O41: the coast expiry of a positional move in each way its drive ended, then the settle expiry of a SET. -/
theorem aCoastOrSettleEndsTheMove : Obligations.ACoastOrSettleEndsTheMove := by
  intro p q c d mv first on coasts moves kinds empty now k drum speed watch opened returned ended frame
  let u : Part := (p.atTime d).coasted c
  have movesU : (u.motionOf c).move = some mv := coasted_move (s := p.atTime d) moves
  have motionU : u.motionOf c = { p.motionOf c with coastEndsAt := none } := motionOf_coasted
  have jog : mv.kind ≠ .jog := fun is => by rw [is] at kinds; exact absurd kinds (by decide)
  have home : mv.kind ≠ .home := fun is => by rw [is] at kinds; exact absurd kinds (by decide)
  have framed {t : Part} (h : Framed c (p.atTime d) t) : frame t := ⟨h.now, h.entries, h.store, h.capture, h.lines, h.power.trans on,
    h.number, h.history, h.service, h.shutdown⟩
  have closes {M : PerChannel Motion} {mv' : Move} {o : OutcomeCode} (code : o.ends ∨ mv.kind = .set)
      (held : (M.get c).move = some mv') (owner : mv'.owner = mv.owner) (kind : mv'.kind = mv.kind)
      (position : (M.get c).position = (p.motionOf c).position) : ended (({ u with motion := M } : Part).endMove c o) o := by
    obtain ⟨rests, entry, evaluator, opens, returns, other⟩ := endTarget_leaves (s := { u with motion := M }) held (by rw [kind]; exact jog)
      (by rw [kind]; exact code)
    rw [kind] at opens returns other
    dsimp only [ended]
    rw [rests, entry, owner]
    exact ⟨rfl, rfl, rfl, position, rfl, rfl, evaluator, opens, returns, other⟩
  have rests {M : PerChannel Motion} {o : OutcomeCode} : ((({ u with motion := M } : Part).endMove c o).motionOf c).move = none :=
    endMove_move _ c o
  have serves {w t : Part} (h : t.servedOrWaits w c mv.kind first) (slots : w.slots = p.slots)
      (owner : ∀ e, (w.motionOf e).move.map (·.owner) = (p.motionOf e).move.map (·.owner)) : t.servedOrWaits p c mv.kind first :=
    servedOrWaits_congr h slots (classOf_of_owner owner)
  have ownerU (e : Channel) : (u.motionOf e).move.map (·.owner) = (p.motionOf e).move.map (·.owner) :=
    owner_modMotion (p.atTime d) c rfl e
  have ownerHeld {mv' : Move} (owner : mv'.owner = mv.owner) (e : Channel) :
      ((u.holding c mv').motionOf e).move.map (·.owner) = (p.motionOf e).move.map (·.owner) := by
    refine (owner_modMotion u c ?_ e).trans (ownerU e)
    rw [movesU]
    exact congrArg some owner
  have goes {x : PosChannel} (at' : c = x.channel) : let t := ((p.atTime d).coastEnds x).preemptUnless first c
      exec (.coastTimerExpiry x first) ⟨p, q⟩ = .next ⟨t, q⟩ ∧ frame t := by
    subst at'
    exact ⟨exec_coastTimerExpiry_of_nil on coasts empty q first, framed (framed_coastEnds ..)⟩
  have calmly {x : PosChannel} {w : Part} (is : (p.atTime d).coastEnds x = w) (gone : (w.motionOf c).move = none) :
      ((p.atTime d).coastEnds x).preemptUnless first c = w := by
    rw [is]
    exact preemptUnless_of_calm (reliefWaits_of_none gone) first
  refine ⟨fun x target at' aimed own free done => ?terminal, fun x at' own stalled => ?stalled,
    fun x target at' aimed own left remaining base => ?left, fun x target at' aimed begun => ?begun, fun v at' set free => ?reached,
    fun v target at' set aimed left => ?settled⟩
  case terminal =>
    obtain ⟨exec', frame'⟩ := goes at'
    subst at'
    have position : (u.motionOf x.channel).position = (p.motionOf x.channel).position := by rw [motionU]
    have judges : (p.atTime d).coastEnds x = u.judgeTarget x mv target :=
      ((coastEnds_of_move (s := p.atTime d) moves own).2.2.2 kinds).trans
        (targetCoastEnds_terminal (by rw [free]; decide) done aimed)
    have completes {o : OutcomeCode} (code : o.ends) (is : u.judgeTarget x mv target = u.completeMove x.channel o) :
        ended (((p.atTime d).coastEnds x).preemptUnless first x.channel) o := by
      let M : PerChannel Motion := (u.modMotion x.channel fun m => { m with stallCount := 0 }).motion
      have at' : M.get x.channel = { u.motionOf x.channel with stallCount := 0 } := PerChannel.get_set_self _ _ _
      rw [calmly (judges.trans is) (rests (M := M))]
      exact closes (M := M) (.inl code) (by rw [at']; exact movesU) rfl rfl (by rw [at']; exact position)
    dsimp only
    rw [← position]
    refine ⟨_, exec', frame', fun within => completes (.inl rfl) (judgeTarget_within within),
      fun beyond corrected => completes (.inr (.inl rfl)) (judgeTarget_off beyond corrected), fun beyond fresh => ?_⟩
    let again : Move := { mv.aim (u.motionOf x.channel).position target with corrected := true }
    have away : target ≠ (u.motionOf x.channel).position := fun there => by
      rw [distance_eq_zero_iff.2 there] at beyond
      exact absurd beyond (Nat.not_lt_zero _)
    have held := holding_position u x.channel again
    obtain ⟨drives, served, i, n, w, g, e, t, moves', counts, -⟩ := asks_aimed (s := u.holding x.channel again)
      (holding_move u x.channel again) jog home rfl (distance_ne_zero away) (by rw [held]; exact away) first
    have off : n = distance target (u.motionOf x.channel).position := by
      rw [held] at counts
      rcases counts with same | least
      · exact same
      · exact least.trans (min_self _)
    have whole : Drives u _ := ((Drives.refl u).holding x.channel again).trans drives
    rw [judges.trans (judgeTarget_corrects beyond fresh)]
    exact ⟨_, moves', rfl, rfl, rfl, off, entryOf_drives whole _, whole.override, serves served rfl (ownerHeld rfl)⟩
  case stalled =>
    obtain ⟨exec', frame'⟩ := goes at'
    subst at'
    have is : (p.atTime d).coastEnds x = u.stallMove x.channel :=
      ((coastEnds_of_move (s := p.atTime d) moves own).2.2.2 kinds).trans (targetCoastEnds_stalled stalled)
    let w : Part := u.modMotion x.channel fun m => { m with stallCount := (u.motionOf x.channel).stallCount + 1 }
    have motionW : w.motionOf x.channel = { u.motionOf x.channel with stallCount := (u.motionOf x.channel).stallCount + 1 } :=
      motionOf_modMotion_self _ _ _
    have movesW : (w.motionOf x.channel).move = some mv := by rw [motionW]; exact movesU
    have count : (u.motionOf x.channel).stallCount = (p.motionOf x.channel).stallCount := by rw [motionU]
    dsimp only
    rw [← count]
    refine ⟨_, exec', frame', fun few => ?_, fun third => ?_⟩
    · have ends : u.stallMove x.channel = w.endMove x.channel .stalled := stallMove_few few
      rw [calmly (is.trans ends) (endMove_move _ _ _)]
      obtain ⟨motion, -⟩ := endTarget_leaves (s := w) movesW jog (o := .stalled) (.inl (.inr (.inr rfl)))
      refine ⟨closes (M := w.motion) (.inl (.inr (.inr rfl))) movesW rfl rfl ?_, ?_, ?_⟩
      · show (w.motionOf x.channel).position = _
        rw [motionW, motionU]
      · rw [motion, motionW]
        rfl
      · rw [motion, motionW, motionU]
        rfl
    · have faults : u.stallMove x.channel = w.fault x.channel .stall (some .stalled) := stallMove_third third
      obtain ⟨motion, entry, -, notified, other, concave⟩ := fault_leaves (s := w) movesW empty .stall .stalled
      rw [calmly (is.trans faults) (fault_move _ _ _ _), motion, entry]
      refine ⟨rfl, rfl, rfl, rfl, notified, concave, fun is opens => ?_, other⟩
      rw [is] at movesW empty ⊢
      exact fault_restrains movesW empty .stall .stalled opens
  case left =>
    obtain ⟨exec', frame'⟩ := goes at'
    subst at'
    have position : (u.motionOf x.channel).position = (p.motionOf x.channel).position := by rw [motionU]
    have judges := ((coastEnds_of_move (s := p.atTime d) moves own).2.2.2 kinds).trans
      (targetCoastEnds_left (s := u) (by rw [left]; decide) remaining aimed)
    dsimp only
    rw [← position]
    refine ⟨_, exec', frame', fun within => ?_, fun beyond => ?_⟩
    · let M : PerChannel Motion := (u.modMotion x.channel fun m => { m with stallCount := 0 }).motion
      have at' : M.get x.channel = { u.motionOf x.channel with stallCount := 0 } := PerChannel.get_set_self _ _ _
      rw [calmly (judges.trans (if_pos within)) (rests (M := M))]
      exact closes (M := M) (.inl (.inl rfl)) (by rw [at']; exact movesU) rfl rfl (by rw [at']; exact position)
    · have away : target ≠ (u.motionOf x.channel).position := fun there => by
        rw [distance_eq_zero_iff.2 there] at beyond
        exact absurd beyond (Nat.not_lt_zero _)
      obtain ⟨drives, served, i, n, w, g, e, t, moves', -, least⟩ := asks_aimed (s := u) movesU jog home aimed
        (Nat.pos_iff_ne_zero.1 base) away first
      rw [judges.trans (if_neg (Nat.not_le.2 beyond))]
      exact ⟨entryOf_drives drives _, drives.override, serves served rfl ownerU, _, moves', aimed, rfl, least⟩
  case begun =>
    obtain ⟨exec', frame'⟩ := goes at'
    subst at'
    have position : (u.motionOf x.channel).position = (p.motionOf x.channel).position := by rw [motionU]
    have takes := (coastEnds_of_begun (s := p.atTime d) moves begun).trans (begunCoastEnds_aimed (s := u) kinds aimed)
    let again : Move := mv.taken (u.motionOf x.channel).position target
    have heldAt : (u.holding x.channel again).motionOf x.channel = { u.motionOf x.channel with move := some again } :=
      motionOf_holding u x.channel again
    dsimp only
    rw [← position]
    refine ⟨_, exec', frame', fun there => ?_, fun far => ?_⟩
    · let M : PerChannel Motion := ((u.holding x.channel again).modMotion x.channel fun m => { m with stallCount := 0 }).motion
      have at' : M.get x.channel = { (u.holding x.channel again).motionOf x.channel with stallCount := 0 } := PerChannel.get_set_self _ _ _
      rw [calmly (takes.trans (if_pos there)) (rests (M := M))]
      exact closes (M := M) (mv' := again) (.inl (.inl rfl)) (by rw [at', heldAt]) rfl rfl (by rw [at', heldAt]; exact position)
    · have away : target ≠ (u.motionOf x.channel).position := fun there => far (distance_eq_zero_iff.2 there)
      have held := holding_position u x.channel again
      obtain ⟨drives, served, i, n, w, g, e, t, moves', counts, -⟩ := asks_aimed (s := u.holding x.channel again)
        (holding_move u x.channel again) jog home rfl (distance_ne_zero away) (by rw [held]; exact away) first
      have off : n = distance target (u.motionOf x.channel).position := by
        rw [held] at counts
        rcases counts with same | least
        · exact same
        · exact least.trans (min_self _)
      have whole : Drives u _ := ((Drives.refl u).holding x.channel again).trans drives
      rw [takes.trans (if_neg far)]
      exact ⟨entryOf_drives whole _, whole.override, serves served rfl (ownerHeld rfl), _, moves', rfl, rfl, rfl, rfl, rfl, off,
        rfl, rfl⟩
  case reached =>
    subst at'
    have ends := (settleEnds_set (s := p.atTime d) (z := 0) moves set).1 (by rw [free]; decide)
    have closed {o : OutcomeCode} : ended (u.endMove v.channel o) o :=
      closes (M := u.motion) (.inr set) movesU rfl rfl ((congrArg Motion.position motionU).trans rfl)
    refine ⟨_, exec_settleTimerExpiry_of_nil on coasts empty q, framed (framed_settleEnds ..), fun limit => ?_, fun limit => ?_⟩
    · rw [ends, if_pos limit]
      exact closed
    · rw [ends, if_neg (by rw [limit]; decide)]
      exact closed
  case settled =>
    subst at'
    have ends := (settleEnds_set (s := p.atTime d) moves set).2 left aimed
    refine ⟨_, exec_settleTimerExpiry_of_nil on coasts empty q, framed (framed_settleEnds ..), fun within => ?_, fun beyond => ?_⟩
    · rw [ends.trans (if_pos within)]
      exact closes (M := u.motion) (.inr set) movesU rfl rfl ((congrArg Motion.position motionU).trans rfl)
    · rw [ends.trans (if_neg (Nat.not_le.2 beyond))]
      have drives := (Drives.refl u).enterWaiting v.channel
      refine ⟨entryOf_drives drives _, ?_, (enterWaiting_phase movesU).1⟩
      rcases enterWaiting_move movesU with ⟨-, waits⟩ | ⟨-, e, n, runs⟩
      · exact ⟨mv, waits, aimed, rfl⟩
      · obtain ⟨identity, -⟩ := granted_keeps u v.channel mv
        have target' : (u.granted v.channel mv).target = mv.target := congrArg (·.2.2.1) identity
        have tag : (u.granted v.channel mv).tag = mv.tag := congrArg (·.2.2.2) identity
        exact ⟨_, runs, target'.trans aimed, tag⟩

end

section
/-! PROOFS. The parameter sets, active and pending: every step keeps them in their ranges and orders (R82, R164). -/

open Sys2Proof Sys2Proof.Machine

/-- Settles O13: every change keeps the four sets lawful, a start-up's reading of the store and an application's clamping of the
envelopes included. -/
theorem everyStepKeepsParametersLawful : Obligations.EveryStepKeepsParametersLawful :=
  fun _ _ law stepped => step_keeps (L := Part.parameterLaw) (fun _ _ e => e.parameterLaw) law stepped

end

section
/-! PROOFS. The figures of a record taken from one input each, and the drum's droop (R26 to R31). -/

namespace Sys2Proof.Machine

theorem windowRpm_of_stopped {cal : SpeedCal} {n sum k : Nat} (stopped : n = 0) : windowRpm cal n sum k = 0 := if_pos stopped

theorem windowRpm_of_turning {cal : SpeedCal} {n sum k : Nat} (counted : n ≠ 0) (timed : sum ≠ 0) :
    windowRpm cal n sum k = min 4095 (roundHalfUp (960000000 * n) (sum * cal.teeth * cal.ratio16)) := by
  unfold windowRpm
  rw [if_neg counted, if_neg timed]

theorem dutyValid_iff (d : Option Nat) : dutyValid d = true ↔ ∃ n, d = some n ∧ 50 ≤ n ∧ n ≤ 950 := by
  cases d <;> simp [dutyValid]

theorem dutyValid_eq_false {d : Option Nat} (outside : ∀ n, d = some n → n < 50 ∨ 950 < n) : dutyValid d = false := by
  refine Bool.eq_false_iff.2 fun valid => ?_
  obtain ⟨n, present, low, high⟩ := (dutyValid_iff d).1 valid
  rcases outside n present with below | above <;> omega

theorem tiltAngle_of_valid {n : Nat} (low : 50 ≤ n) (high : n ≤ 950) (trim held : Int) :
    tiltAngle (some n) trim held = clamp (-300) 300 (roundSigned (((n : Int) - 500 - trim) * 3) 4) :=
  if_pos ((dutyValid_iff _).2 ⟨n, rfl, low, high⟩)

theorem tiltAngle_of_invalid {d : Option Nat} (invalid : dutyValid d = false) (trim held : Int) : tiltAngle d trim held = held :=
  if_neg (Bool.eq_false_iff.1 invalid)

/-- The tag TILT_FAULT: one of the two tilt duties is invalid (R28). -/
theorem tiltFault_iff (p : Part) (l : Latched) :
    (p.tagsOf l).tiltFault = true ↔ dutyValid l.duty.roll = false ∨ dutyValid l.duty.pitch = false := by
  simp [Part.tagsOf]

theorem droopPm_below {rpm : Nat} {setpoint : Int} (below : (rpm : Int) < setpoint) :
    droopPm rpm setpoint = roundHalfUp ((setpoint - rpm).toNat * 1000) setpoint.toNat := if_pos below

theorem droopPm_reached {rpm : Nat} {setpoint : Int} (reached : setpoint ≤ rpm) : droopPm rpm setpoint = 0 :=
  if_neg (not_lt.2 reached)

/-- The rpm of a record is that of its input, a free value's index apart (R26). -/
theorem rpm_recordOf (p : Part) (l : Latched) (v : SpeedChannel) : ∃ k, (p.recordOf l).rpm.get v =
    windowRpm (p.store.activeCal.figures.speed.get v) (l.speed.get v).count (l.speed.get v).periodSum k := by
  cases v with
  | drum => exact ⟨p.freeIndex, rfl⟩
  | fan => exact ⟨p.freeIndex + 1, rfl⟩

theorem lossIndex_recordOf (p : Part) (l : Latched) (i : LossInput) : (p.recordOf l).lossIndex.get i =
    lossIndex (l.loss.get i).hits (p.store.activeCal.figures.gain.get i) l.elapsed := by
  cases i <;> rfl

end Sys2Proof.Machine
end

section
/-! PROOFS. What an appended record calls for beside the Trim Engine: the conditions and figures of the Slope Follower (R91, R93, R96,
R98), and the SET of its louver target taken on a free LOUVER (R92). -/

namespace Sys2Proof.Machine

theorem isAutomatic_iff (s : Part) (c : Channel) :
    s.isAutomatic c = true ↔ (s.entryOf c).mode = .auto ∧ (s.entryOf c).hold = none := by
  simp [Part.isAutomatic]

theorem isFaulted_eq_false_iff (s : Part) (c : Channel) :
    s.isFaulted c = false ↔ ∀ cause, (s.motionOf c).phase ≠ .faulted cause := by
  rw [← Bool.not_eq_true, isFaulted_iff, not_exists]

/-! ### The louver feed-forward (R91, R92) -/

theorem followsLouver_iff (s : Part) (r : WindowRecord) : s.followsLouver r = true ↔
    s.harvesting = true ∧ r.tags.tiltFault = false ∧ ((s.entryOf .louver).mode = .auto ∧ (s.entryOf .louver).hold = none)
      ∧ (s.motionOf .louver).referenced = true ∧ (∀ cause, (s.motionOf .louver).phase ≠ .faulted cause) ∧ s.shutdown = none := by
  rw [← isAutomatic_iff, ← isFaulted_eq_false_iff]
  simp [Part.followsLouver, and_assoc]

theorem louverTarget_within {s : Part} (ordered : s.store.activePreset.envelopesOrdered) (r : WindowRecord) :
    s.clampToEnvelope .louver (s.louverTarget r) = s.louverTarget r := clamp_of_range (clamp_range (ordered .louver) _)

/-- The louver target committed with origin FOLLOW. -/
def Part.louverCommitted (s : Part) (v : Int) : Part := s.commit .louver v (.automatic .follow) .follow

/-- The SET of a louver target taken on a free LOUVER: committed and handed over stepwise. -/
def Part.followed (s : Part) (v : Int) : Part :=
  (s.louverCommitted v).handSet .louver (.request (.automatic .follow)) .set .stepwise v none

section

variable {s : Part} {v : Int}

/-- An AUTOMATIC commitment on LOUVER writes its entry alone. -/
theorem louverCommitted_eq (s : Part) (v : Int) : s.louverCommitted v =
    s.modBook .louver fun e => { e with setpoint := s.clampToEnvelope .louver v, origin := .follow } :=
  modBook_modBook s .louver (fun e => { e with origin := .follow }) fun e => { e with setpoint := s.clampToEnvelope .louver v }

theorem post_follow_takes (free : s.standsFree .louver) (runs : s.shutdown = none) (engaged : s.capture.engaged = true)
    (referenced : (s.motionOf .louver).referenced = true) (within : s.clampToEnvelope .louver v = v) :
    (s.post .louver .follow (some v)).1 = s.followed v := by
  have fresh : Entry.stale ⟨.automatic .follow, .set (some v), s.window.number, none, false⟩ s.window.number = false := by
    simp [Entry.stale, windowsAbove]
  have aims : (s.louverCommitted v).driveTarget .louver = v := by
    show ((s.louverCommitted v).entryOf .louver).setpoint = v
    rw [louverCommitted_eq, entryOf_modBook_self]
    exact within
  unfold Part.post
  rw [Option.map_some, within, postEntry_set free runs rfl fresh engaged fun _ _ => referenced]
  show (s.louverCommitted v).handSet .louver (.request (.automatic .follow)) .set .stepwise
    ((s.louverCommitted v).driveTarget .louver) none = _
  rw [aims]
  rfl

/-- The SET of a louver target in flight, seen beside the commitment. -/
theorem followed_serves (engaged : s.capture.engaged = true) (idle : (s.motionOf .louver).phase = .idle)
    (away : s.countsOf .louver v ≠ (s.motionOf .louver).position) : let t := s.followed v
    Drives (s.louverCommitted v) t ∧ t.drivesOrWaits .louver s.slots.length
      ∧ ∃ mv, (t.motionOf .louver).move = some mv ∧ mv.kind = .set ∧ mv.scheduling = .stepwise
        ∧ mv.owner = .request (.automatic .follow) ∧ mv.target = some (s.countsOf .louver v) ∧ mv.tag = none := by
  let u : Part := s.louverCommitted v
  let mv : Move := (Move.blank (.request (.automatic .follow)) .set .stepwise none).aim (s.motionOf .louver).position
    (s.countsOf .louver v)
  have commits : u = s.modBook .louver _ := louverCommitted_eq s v
  have motion : u.motionOf .louver = s.motionOf .louver := by rw [commits]; rfl
  have slots : u.slots = s.slots := by rw [commits]; rfl
  have capture : u.capture = s.capture := by rw [commits]; rfl
  have counts : u.countsOf .louver v = s.countsOf .louver v := countsOf_of_store (by rw [commits]; rfl) .louver v
  have hands : s.followed v = u.hand .louver mv := by
    show u.hand .louver ((Move.blank _ _ _ _).aim (u.motionOf .louver).position (u.countsOf .louver v)) = _
    rw [motion, counts]
  have serves := handSet_serves (s := u) (x := .louver) (owner := .request (.automatic .follow)) .stepwise (target := v) none
    (by rw [capture]; exact engaged) (by rw [show PosChannel.louver.channel = Channel.louver from rfl, motion]; exact idle)
    (by rw [counts, show PosChannel.louver.channel = Channel.louver from rfl, motion]; exact away)
  rw [slots, counts] at serves
  obtain ⟨drives, -⟩ := hand_in_flight (s := u) (c := .louver) (mv := mv) (.inr (by rw [capture]; exact engaged))
    (by rw [motion, idle]; decide) fun _ _ => distance_ne_zero away
  exact ⟨hands ▸ drives, serves⟩

end

/-! ### louver_trim and the fan pitch offset (R93, R96, R98) -/

/-- The step of louver_trim toward the side of an imbalance (R93). -/
def Part.louverStep (s : Part) : Int :=
  if s.evaluator.evaluation.side = .left then -(s.params.slope.louverTrimStep : Int) else s.params.slope.louverTrimStep

/-- An Evaluation moves louver_trim (R93). -/
def Part.trimsLouver (s : Part) : Prop :=
  s.evaluator.evaluation.averages.isSome = true ∧ s.harvesting = true ∧ s.evaluator.evaluation.symptoms.sideImbalance = true
    ∧ ((s.entryOf .louver).mode = .auto ∧ (s.entryOf .louver).hold = none) ∧ (s.motionOf .louver).referenced = true

theorem trimLouver_of_trims {s : Part} (trims : s.trimsLouver) : s.trimLouver = { s with
    louverTrim := clamp (-(s.params.slope.louverTrimMax : Int)) s.params.slope.louverTrimMax (s.louverTrim + s.louverStep) } := by
  obtain ⟨valid, harvests, imbalance, automatic, referenced⟩ := trims
  have automatic' := (isAutomatic_iff s .louver).2 automatic
  refine (if_pos (by simp [valid, harvests, imbalance, automatic', referenced])).trans ?_
  unfold Part.louverStep
  split
  case h_1 left => rw [if_pos left]; rfl
  case h_2 right => rw [if_neg (by rw [right]; decide)]

theorem trimLouver_of_not_trims {s : Part} (idle : ¬s.trimsLouver) : s.trimLouver = s := by
  refine if_neg fun trims => idle ?_
  simpa [isAutomatic_iff, and_assoc, Part.trimsLouver] using trims

theorem followPitch_eq {s : Part} {r : WindowRecord} {v : Int} (next : s.nextFanOffset r = v) : s.followPitch r = { s with
    fanOffset := v, fanTarget := s.clampToEnvelope .fan ((s.entryOf .fan).setpoint + v) } := by
  subst next
  rfl

theorem nextFanOffset_of_idle {s : Part} {r : WindowRecord}
    (idle : ¬(s.harvesting = true ∧ (s.entryOf .fan).mode = .auto ∧ (s.entryOf .fan).hold = none)) : s.nextFanOffset r = 0 := by
  rw [← isAutomatic_iff] at idle
  exact if_pos (by simpa [imp_iff_not_or] using idle)

theorem nextFanOffset_of_follows {s : Part} {r : WindowRecord}
    (follows : s.harvesting = true ∧ (s.entryOf .fan).mode = .auto ∧ (s.entryOf .fan).hold = none) : s.nextFanOffset r =
      if r.tags.tiltFault then s.fanOffset else roundSigned (r.pitch * s.store.activePreset.slope.fanPitchGain16) 16 := by
  rw [← isAutomatic_iff] at follows
  exact if_neg (by simp [follows])

end Sys2Proof.Machine
end

section
/-! PROOFS. Speed regulation at an appended record (R125). -/

namespace Sys2Proof.Machine

/-- Regulation of one channel at a record. -/
def Part.regulateOne (r : WindowRecord) (s : Part) (c : Channel) : Part :=
  match c.kind with
  | .speed v => if s.needsRegulation r v then (s.post c .regulate none).1 else s
  | .positional _ => s

theorem regulate_eq (s : Part) (r : WindowRecord) (o : Order) :
    s.regulate r o = (arrange o.channels [.drum, .fan]).foldl (Part.regulateOne r) s := rfl

/-- The conditions of R125 beside that of a blocked channel. -/
def Part.offBand (s : Part) (r : WindowRecord) (v : SpeedChannel) : Prop :=
  s.capture.engaged = true ∧ (s.motionOf v.channel).phase = .idle ∧ 0 < r.speedCount.get v
    ∧ (s.store.activePreset.bands.get v).hold < distance (r.rpm.get v : Nat) (s.speedTarget v)

section

variable {s : Part} {r : WindowRecord} {v : SpeedChannel}

theorem needsRegulation_iff :
    s.needsRegulation r v = true ↔ s.offBand r v ∧ s.blocked v.channel = false := by
  unfold Part.needsRegulation Part.offBand
  simp only [Bool.and_eq_true, Bool.not_eq_true']
  constructor
  · rintro ⟨⟨⟨⟨engaged, idle⟩, unblocked⟩, counted⟩, far⟩
    exact ⟨⟨engaged, of_decide_eq_true idle, of_decide_eq_true counted, of_decide_eq_true far⟩, unblocked⟩
  · rintro ⟨⟨engaged, idle, counted, far⟩, unblocked⟩
    exact ⟨⟨⟨⟨engaged, decide_eq_true idle⟩, unblocked⟩, decide_eq_true counted⟩, decide_eq_true far⟩

theorem blocked_of_standsFree {c : Channel} (free : s.standsFree c) : s.blocked c = false := by
  have freed := freeFor_of_standsFree free .home
  unfold Part.freeFor at freed
  simpa using (Bool.and_eq_true_iff.1 freed).1

/-- Channels that need no regulation are left as they are. -/
theorem regulated_of_calm : ∀ l : List Channel, (∀ v : SpeedChannel, v.channel ∈ l → ¬s.offBand r v) →
    l.foldl (Part.regulateOne r) s = s
  | [], _ => rfl
  | c :: rest, calm => by
    have stands : s.regulateOne r c = s := by
      unfold Part.regulateOne
      split
      case h_1 v kind =>
        have at' : c = v.channel := by cases c <;> cases kind <;> rfl
        exact if_neg fun needs => calm v (at' ▸ List.mem_cons_self) (needsRegulation_iff.1 needs).1
      case h_2 => rfl
    rw [List.foldl_cons, stands]
    exact regulated_of_calm rest fun v mem => calm v (List.mem_cons_of_mem _ mem)

/-- The REGULATE of a speed channel that stands free, handed over. -/
def Part.regulated (s : Part) (v : SpeedChannel) : Part :=
  s.hand v.channel (newSpeedSet (.automatic .regulate) (s.speedTarget v) none)

theorem regulateOne_takes (off : s.offBand r v) (free : s.standsFree v.channel) (runs : s.shutdown = none) :
    Part.regulateOne r s v.channel = s.regulated v := by
  have ⟨engaged, _⟩ := off
  have needs := needsRegulation_iff.2 ⟨off, blocked_of_standsFree free⟩
  have posts : (s.post v.channel .regulate none).1 = s.regulated v := by
    unfold Part.post
    rw [Option.map_none, postEntry_set free runs rfl rfl engaged fun x is => absurd is (speed_not_positional v x)]
    cases v <;> rfl
  unfold Part.regulateOne
  rw [kind_speedChannel]
  exact (if_pos needs).trans posts

/-- The REGULATE in flight (R123, R131). -/
theorem regulated_flies (engaged : s.capture.engaged = true) (free : s.standsFree v.channel) : let t := s.regulated v
    Drives s t ∧ (∀ c, c ≠ v.channel → (s.motionOf c).Follows (t.motionOf c))
    ∧ (t.motionOf v.channel).phase ∈ [.waiting, .driving, .coasting]
    ∧ (∃ mv, (t.motionOf v.channel).move = some mv ∧ mv.kind = .set ∧ mv.owner = .request (.automatic .regulate)
      ∧ mv.target = some (s.speedTarget v) ∧ mv.tag = none)
    ∧ (2 ≤ s.slots.length → (t.motionOf v.channel).phase = .waiting)
    ∧ (s.slots.length < 2 → 0 < s.maxDriveTime v →
        (s.params.bands.get v).approach < distance (s.speedTarget v) (s.rpmOf v) → (t.motionOf v.channel).phase = .driving) := by
  let mv : Move := newSpeedSet (.automatic .regulate) (s.speedTarget v) none
  have stands : (s.motionOf v.channel).phase ≠ .coasting := by rw [free.1]; decide
  obtain ⟨drives, -, full, room, moving, move⟩ := hand_in_flight (s := s) (mv := mv) (.inr engaged) stands
    fun x is => absurd is (speed_not_positional v x)
  have others := ((Local.refl (P := AnyOwner) (W := True) s).hand (d := v.channel) mv trivial fun _ => trivial).motions
  refine ⟨drives, others, moving, ?move, full, fun free' time far => ?driving⟩
  case move =>
    rcases move with ⟨-, waits⟩ | ⟨-, e, n, runs⟩
    · exact ⟨mv, waits, rfl, rfl, rfl, rfl⟩
    · have same := (granted_keeps s v.channel mv).1
      simp only [Move.identity, Prod.mk.injEq] at same
      obtain ⟨owner, kind, target, tag⟩ := same
      exact ⟨_, runs, kind, owner, target, tag⟩
  case driving =>
    have on : s.goesOff v.channel mv = false := by
      rw [goesOff_speed (t := s.speedTarget v) MoveKind.noConfusion rfl]
      exact Bool.or_eq_false_iff.2 ⟨decide_eq_false (not_le.2 time), decide_eq_false (not_le.2 far)⟩
    rw [show s.regulated v = s.hand v.channel mv from rfl, room free', on]
    rfl

/-- Drive work for other channels brings no channel off its band to rest. -/
theorem Drives.offBand {s t : Part} (drives : Drives s t) {w : SpeedChannel}
    (follows : (s.motionOf w.channel).Follows (t.motionOf w.channel)) (off : t.offBand r w) : s.offBand r w := by
  have target : t.speedTarget w = s.speedTarget w := by
    cases w with
    | drum => exact congrArg BookEntry.setpoint (entryOf_drives drives _)
    | fan => exact drives.committed.fanTarget
  have framed := drives.framed w.channel
  obtain ⟨engaged, idle, counted, far⟩ := off
  rw [framed.capture] at engaged
  rw [framed.store, target] at far
  refine ⟨engaged, ?_, counted, far⟩
  by_cases waits : (s.motionOf w.channel).phase = .waiting
  · have moving := follows.phase waits
    rw [idle] at moving
    exact absurd moving (by decide)
  · rw [← follows.untouched waits]
    exact idle

/-- One channel off its band, and it alone: the record's regulation is its REGULATE. -/
theorem regulate_of_one (o : Order) (off : s.offBand r v) (alone : ∀ w, w ≠ v → ¬s.offBand r w) (free : s.standsFree v.channel)
    (runs : s.shutdown = none) : s.regulate r o = s.regulated v := by
  have channel_ne {w : SpeedChannel} (ne : w.channel ≠ v.channel) : w ≠ v := fun same => ne (same ▸ rfl)
  obtain ⟨drives, others, -⟩ := regulated_flies off.1 free
  obtain ⟨before, after, split⟩ := List.append_of_mem
    ((mem_arrange o.channels [.drum, .fan] v.channel).2 (by cases v <;> decide))
  have once := arrange_nodup o.channels [Channel.drum, .fan] (by decide)
  rw [split, List.nodup_middle, List.nodup_cons, List.mem_append, not_or] at once
  obtain ⟨⟨notBefore, notAfter⟩, -⟩ := once
  rw [regulate_eq, split, List.foldl_append, List.foldl_cons,
    regulated_of_calm before fun w mem => alone w (channel_ne fun same => notBefore (same ▸ mem)), regulateOne_takes off free runs]
  refine regulated_of_calm after fun w mem offAfter => ?_
  have ne : w.channel ≠ v.channel := fun same => notAfter (same ▸ mem)
  exact alone w (channel_ne ne) (drives.offBand (others _ ne) offAfter)

end

end Sys2Proof.Machine

open Sys2Proof Sys2Proof.Machine

/-- Settles O23: the figures by their formulas; then the louver target posted, louver_trim, the fan pitch offset, and regulation. -/
theorem recordFiguresFollowTheirFormulas : Obligations.RecordFiguresFollowTheirFormulas := by
  refine ⟨fun p l => ?figures, fun p r => ?reactions⟩
  case figures =>
    intro r k
    have droop : r.droopPm = droopPm r.rpm.drum (p.book.get .drum).setpoint := rfl
    have roll : r.roll = tiltAngle l.duty.roll k.rollZero p.window.heldRoll := rfl
    have pitch : r.pitch = tiltAngle l.duty.pitch k.pitchZero p.window.heldPitch := rfl
    have feeder : r.feederPm = feederPm l.duty.feeder k.feedZero k.feedSpan := rfl
    refine ⟨lossIndex_recordOf p l, ?stopped, ?turning, rfl, ?rollValid, ?rollHeld, ?pitchValid, ?pitchHeld, ?fed, ?unfed,
      ?below, ?reached⟩
    case stopped =>
      intro v stopped
      obtain ⟨_, rpm⟩ := rpm_recordOf p l v
      exact rpm.trans (windowRpm_of_stopped stopped)
    case turning =>
      intro v counted timed
      obtain ⟨_, rpm⟩ := rpm_recordOf p l v
      exact rpm.trans (windowRpm_of_turning counted timed)
    case rollValid =>
      intro d present low high
      rw [roll, present]
      exact tiltAngle_of_valid low high _ _
    case rollHeld =>
      intro outside
      have invalid := dutyValid_eq_false outside
      exact ⟨roll.trans (tiltAngle_of_invalid invalid _ _), (tiltFault_iff p l).2 (.inl invalid)⟩
    case pitchValid =>
      intro d present low high
      rw [pitch, present]
      exact tiltAngle_of_valid low high _ _
    case pitchHeld =>
      intro outside
      have invalid := dutyValid_eq_false outside
      exact ⟨pitch.trans (tiltAngle_of_invalid invalid _ _), (tiltFault_iff p l).2 (.inr invalid)⟩
    case fed =>
      intro d present
      rw [feeder, present]
      rfl
    case unfed =>
      intro absent
      rw [feeder, absent]
      rfl
    case below => exact fun below => droop.trans (droopPm_below below)
    case reached => exact fun reached => droop.trans (droopPm_reached reached)
  case reactions =>
    intro k auto target counts posts
    have posts_iff : (p.followsLouver r = true ∧ k.louverDeadband ≤ distance target (p.entryOf .louver).setpoint) ↔ posts := by
      rw [followsLouver_iff]
      simp only [posts, auto, and_assoc]
    refine ⟨fun idle => if_neg (posts_iff.not.2 idle), ?follows, ?trims, ?pitches, ?regulates⟩
    case follows =>
      intro post engaged free ordered away t
      have ⟨_, _, _, referenced, _, runs, _⟩ := post
      have within : p.clampToEnvelope .louver target = target := louverTarget_within ordered r
      have taken : t = p.followed target := (if_pos (posts_iff.2 post)).trans
        (post_follow_takes free runs engaged referenced within)
      obtain ⟨drives, serves, move⟩ := followed_serves (v := target) engaged free.1 away
      have entry (c : Channel) : t.entryOf c = (p.louverCommitted target).entryOf c := by rw [taken, entryOf_drives drives]
      rw [louverCommitted_eq] at entry
      have louver := entry .louver
      rw [entryOf_modBook_self, within] at louver
      have committed := drives.committed
      rw [louverCommitted_eq] at committed
      refine ⟨taken ▸ move, taken ▸ serves, congrArg (·.setpoint) louver, congrArg (·.origin) louver,
        (congrArg (·.requests) louver).trans free.2.2.2, fun c ne => (entry c).trans (entryOf_modBook_of_ne p ne _),
        taken ▸ committed.louverTrim, taken ▸ committed.settle⟩
    case trims => exact ⟨fun trims => trimLouver_of_trims trims, fun idle => trimLouver_of_not_trims idle⟩
    case pitches =>
      refine ⟨fun idle => followPitch_eq (nextFanOffset_of_idle idle), fun follows fault => ?_, fun follows clear => ?_⟩
      · exact followPitch_eq ((nextFanOffset_of_follows follows).trans (if_pos fault))
      · exact followPitch_eq ((nextFanOffset_of_follows follows).trans (if_neg (Bool.eq_false_iff.1 clear)))
    case regulates =>
      intro o off
      refine ⟨fun calm => regulated_of_calm _ fun v _ => calm v, fun v isOff alone free runs => ?_⟩
      intro t
      have taken : t = p.regulated v := regulate_of_one o isOff alone free runs
      obtain ⟨drives, -, -, move, waits, driven⟩ := regulated_flies isOff.1 free
      rw [taken]
      exact ⟨move, waits, fun room time far => driven room (Nat.mul_pos time (by decide)) far, drives.book,
        drives.committed.fanTarget⟩

end

section
/-! PROOFS. O5: what a part does that has no supply or has released PHOLD (R101, R167, R168). -/

namespace Sys2Proof.Machine

section

variable {s : Part} (stopped : s.power ≠ .on)

include stopped

/-- A part that does not work takes no event from outside; its clock goes on. -/
theorem onEvent_of_stopped (dt : Nat) (f : Part → Part) : s.onEvent dt f = s.later dt := if_neg stopped

/-- A part that does not work takes no expiry. -/
theorem onExpiry_of_stopped (deadline : Option Nat) (f : Part → Part) : s.onExpiry deadline f = s := by
  cases deadline with
  | none => rfl
  | some d => exact if_neg stopped

/-- The end of a store operation is an expiry, or no operation of the kind is in flight (R159). -/
theorem completeOp_of_stopped (kind : StoreKind) (r : ReadBack) (after : Part → Bool → Part) : s.completeOp kind r after = s := by
  unfold Part.completeOp
  split
  · split
    · exact onExpiry_of_stopped stopped _ _
    · rfl
  · rfl

theorem completeWipe_of_stopped (r : List (Nat × List Word)) : s.completeWipe r = s := by
  unfold Part.completeWipe
  split
  · split
    · exact onExpiry_of_stopped stopped _ _
    · rfl
  · rfl

end

/-- The level of the SEP line is followed whether or not it is new, and whether or not the part works (R8). -/
theorem exec_sepLevelChange_of_stopped {p : Part} (stopped : p.power ≠ .on) (q : List Instr) (dt : Nat) (level : Bool) :
    exec (.sepLevelChange dt level) ⟨p, q⟩ =
      .next ⟨({ p with lines := { p.lines with sep := level } } : Part).later dt, q⟩ := by
  refine congrArg (fun t => Host.Outcome.next (State.mk t q)) ?_
  by_cases same : p.lines.sep = level
  · subst same
    exact (if_pos rfl).trans (onEvent_of_stopped stopped dt _)
  · exact (if_neg same).trans (onEvent_of_stopped (s := { p with lines := { p.lines with sep := level } }) stopped dt _)

end Sys2Proof.Machine

open Sys2Proof Sys2Proof.Machine

/-- Settles O5: a command is an event from outside, the expiry of a timer, or the end of a store operation, and a stopped part takes
none of them; the level of a line is there all the same. -/
theorem aStoppedPartTakesNoEvent : Obligations.AStoppedPartTakesNoEvent := by
  intro c p q stopped other
  have becomes {t u : Part} (same : t = u) : (Host.Outcome.next (State.mk t q) : Host.Outcome State Fault Refusal) = .next ⟨u, q⟩ :=
    congrArg (fun t => Host.Outcome.next (State.mk t q)) same
  cases c with
  | powerOn dt | keyReturns dt | supplyDip dt | powerLoss dt =>
    obtain ⟨on, key, dip, loss⟩ := other dt
    contradiction
  | tailChange dt active =>
    exact becomes (onEvent_of_stopped (s := { p with lines := { p.lines with tail := active } }) stopped dt _)
  | keyFalls dt order => exact becomes (onEvent_of_stopped (s := { p with lines := { p.lines with key := false } }) stopped dt _)
  | sepLevelChange dt level => exact exec_sepLevelChange_of_stopped stopped q dt level
  | positionWriteStart => exact becomes (onEvent_of_stopped stopped 0 _)
  | lossEdge dt _ | speedEdge dt _ _ | pwmEdge dt _ _ | feedbackPulse dt _ | set dt _ _ | jogStart dt _ _ | jogStop dt _ _
  | home dt _ _ | shake dt _ _ | auto dt _ _ | manual dt _ _ | releaseHold dt _ _ | load dt _ _ | save dt _ _ | erase dt _ _
  | wipe dt _ _ | lockCal dt _ _ | inhibit dt _ _ | saveCal dt _ _ | paramRead dt _ _ | paramWrite dt _ _ | enter dt _ _ _
  | leave dt _ _ | restart dt _ _ _ | clearCauses dt _ _ | windowRestart dt _ _ _ | bookQuery dt _ | motionStatus dt _ _ _
  | qualityReport dt _ _ _ _ | unknownKindFrame dt _ _ | frameTransmitted dt | transmissionFailure dt | busOff dt
  | unknownOperation dt _ _ => exact becomes (onEvent_of_stopped stopped dt _)
  | sepQualifyExpiry _ | windowTimerExpiry _ | holdTimerExpiry _ | jogRefreshExpiry _ | groundSpeedFreshnessExpiry _
  | coastTimerExpiry _ _ | settleTimerExpiry _ | stallTimerExpiry _ | maximumDriveTimeExpiry _ | drumWatchTimerExpiry
  | confirmTimerExpiry _ | recoverTimerExpiry | giveUpTimerExpiry | deadlineTimerExpiry | busOffSilenceExpiry =>
    exact becomes (onExpiry_of_stopped stopped _ _)
  | saveCompletes _ | eraseCompletes _ | saveCalCompletes _ | lockCalCompletes _ | positionWriteCompletes _
  | positionEraseCompletes _ => exact becomes (completeOp_of_stopped stopped _ _ _)
  | wipeCompletes r => exact becomes (completeWipe_of_stopped stopped r)

end

section
/-! PROOFS. What the Drive Arbiter chooses: the preset rank list, the waiting channel that a released slot is granted to, and the holder
that a RELIEF move preempts (R128 to R132, R140, R141). -/

namespace Sys2Proof.Machine

/-! ### The rank list (R129) -/

/-- A channel comes before another in the rank list of a preset set: of lower rank, or of the same rank with the lower number. -/
def Preset.ranksBefore (s : Preset) (a b : Channel) : Prop :=
  s.rank.get a < s.rank.get b ∨ s.rank.get a = s.rank.get b ∧ a.index < b.index

theorem channels_ascend : Channel.all.Pairwise fun a b => a.index < b.index := by decide

theorem rankList_ranked (s : Preset) : s.rankList.Pairwise s.ranksBefore := by
  have rank {r : Nat} {c : Channel} (mem : c ∈ Channel.all.filter fun c => s.rank.get c = r) : s.rank.get c = r :=
    of_decide_eq_true (List.mem_filter.1 mem).2
  refine List.pairwise_flatMap.2 ⟨fun r _ => ?same, List.pairwise_lt_range.imp fun {r r'} lower a ofA b ofB => ?apart⟩
  case same =>
    refine (channels_ascend.filter _).imp_of_mem fun {a b} ofA ofB lower => .inr ⟨?_, lower⟩
    rw [rank ofA, rank ofB]
  case apart =>
    left
    rw [rank ofA, rank ofB]
    exact lower

theorem mem_rankList {s : Preset} {c : Channel} (ranked : s.rank.get c ≤ 5) : c ∈ s.rankList :=
  List.mem_flatMap.2 ⟨s.rank.get c, List.mem_range.2 (Nat.lt_succ_of_le ranked),
    List.mem_filter.2 ⟨Channel.mem_all c, decide_eq_true rfl⟩⟩

/-! ### The waiting channel chosen (R132) -/

/-- The highest class of a list of channels, where it is attained. -/
theorem highest_class {f : Channel → Nat} {m : Nat} (l : List Channel) : ∀ n, n ≤ m → (∀ c ∈ l, f c ≤ m) →
    (n = m ∨ ∃ c ∈ l, f c = m) → l.foldl (fun n c => max n (f c)) n = m := by
  induction l with
  | nil => exact fun n _ _ attained => attained.resolve_right fun ⟨c, mem, _⟩ => List.not_mem_nil mem
  | cons d rest ih =>
    intro n least below attained
    have belowD : f d ≤ m := below d List.mem_cons_self
    refine ih (max n (f d)) (Nat.max_le.2 ⟨least, belowD⟩) (fun c mem => below c (List.mem_cons_of_mem d mem)) ?_
    rcases attained with start | ⟨c, mem, top⟩
    · exact .inl (start ▸ Nat.max_eq_left (start ▸ belowD))
    · rcases List.mem_cons.1 mem with rfl | mem
      · exact .inl (top ▸ Nat.max_eq_right (top ▸ least))
      · exact .inr ⟨c, mem, top⟩

section

variable {s t : Part}

theorem bestWaiting_of_none (still : ∀ c ∈ s.rankOrder, (s.motionOf c).phase ≠ .waiting) : s.bestWaiting = none := by
  have none : (s.rankOrder.filter fun c => (s.motionOf c).phase = .waiting) = [] :=
    List.filter_eq_nil_iff.2 fun c mem waits => still c mem (of_decide_eq_true waits)
  unfold Part.bestWaiting
  rw [none]
  rfl

/-- Of the highest class, the earliest in the live rank order. -/
theorem bestWaiting_of_first {before after : List Channel} {c : Channel} (order : s.rankOrder = before ++ c :: after)
    (waits : (s.motionOf c).phase = .waiting)
    (earlier : ∀ x ∈ before, (s.motionOf x).phase = .waiting → s.classOf x < s.classOf c)
    (later : ∀ x ∈ after, (s.motionOf x).phase = .waiting → s.classOf x ≤ s.classOf c) : s.bestWaiting = some c := by
  let waiting : Channel → Bool := fun c => (s.motionOf c).phase = .waiting
  have split : s.rankOrder.filter waiting = before.filter waiting ++ c :: after.filter waiting := by
    rw [order, List.filter_append, List.filter_cons_of_pos (p := waiting) (decide_eq_true waits)]
  have mem {l : List Channel} {x : Channel} (h : x ∈ l.filter waiting) : x ∈ l ∧ (s.motionOf x).phase = .waiting :=
    ⟨(List.mem_filter.1 h).1, of_decide_eq_true (List.mem_filter.1 h).2⟩
  have top : (before.filter waiting ++ c :: after.filter waiting).foldl (fun n c => max n (s.classOf c)) 0 = s.classOf c := by
    refine highest_class _ 0 (Nat.zero_le _) (fun x among => ?_) (.inr ⟨c, List.mem_append_right _ List.mem_cons_self, rfl⟩)
    rcases List.mem_append.1 among with first | rest
    · exact Nat.le_of_lt (earlier x (mem first).1 (mem first).2)
    · rcases List.mem_cons.1 rest with rfl | last
      · exact Nat.le_refl _
      · exact later x (mem last).1 (mem last).2
  have skipped : (before.filter waiting).find? (fun x => s.classOf x = s.classOf c) = none :=
    List.find?_eq_none.2 fun x among equal => absurd (of_decide_eq_true equal) (Nat.ne_of_lt (earlier x (mem among).1 (mem among).2))
  have best : s.bestWaiting = (s.rankOrder.filter waiting).find? fun x =>
      s.classOf x = (s.rankOrder.filter waiting).foldl (fun n c => max n (s.classOf c)) 0 := rfl
  rw [best, split, top, List.find?_append, skipped, Option.none_or]
  exact List.find?_cons_of_pos (decide_eq_true (p := s.classOf c = s.classOf c) rfl)

/-- The choice hangs on the rank order, on who waits and on the classes alone. -/
theorem bestWaiting_congr (order : t.rankOrder = s.rankOrder)
    (waiting : ∀ c, (t.motionOf c).phase = .waiting ↔ (s.motionOf c).phase = .waiting) (classes : ∀ c, t.classOf c = s.classOf c) :
    t.bestWaiting = s.bestWaiting := by
  unfold Part.bestWaiting
  simp only [order, waiting, classes]

/-! ### The holder preempted (R140) -/

/-- Of the lowest class below OVERRIDE, the latest grant. -/
theorem preemptable_of_last {before after : List Slot} {h : Slot} (slots : s.slots = before ++ h :: after)
    (lower : s.classOf h.channel < 3) (earlier : ∀ x ∈ before, s.classOf h.channel ≤ s.classOf x.channel)
    (later : ∀ x ∈ after, s.classOf h.channel < s.classOf x.channel) : s.preemptable = some h.channel := by
  let holders : List Channel := (s.slots.map (·.channel)).filter fun c => s.classOf c < 3
  let low : Nat := holders.foldl (fun n c => min n (s.classOf c)) 3
  have least : ∀ c ∈ holders, s.classOf h.channel ≤ s.classOf c := by
    intro c mem
    obtain ⟨x, held, rfl⟩ := List.mem_map.1 (List.mem_filter.1 mem).1
    rw [slots] at held
    rcases List.mem_append.1 held with first | rest
    · exact earlier x first
    · rcases List.mem_cons.1 rest with rfl | last
      · exact Nat.le_refl _
      · exact Nat.le_of_lt (later x last)
  have among : h.channel ∈ holders :=
    List.mem_filter.2 ⟨List.mem_map.2 ⟨h, by rw [slots]; exact List.mem_append_right _ List.mem_cons_self, rfl⟩, decide_eq_true lower⟩
  have lowest : low = s.classOf h.channel := by
    obtain ⟨⟨-, below⟩, attained⟩ := lowest_class s.classOf holders 3
    refine Nat.le_antisymm (below _ among) ?_
    rcases attained with top | ⟨c, mem, is⟩
    · exact Nat.le_of_lt (Nat.lt_of_lt_of_eq lower top.symm)
    · exact (least c mem).trans_eq is
  have beyond : ((after.map (·.channel)).filter fun c => s.classOf c < 3).filter (fun c => s.classOf c = s.classOf h.channel) = [] := by
    refine List.filter_eq_nil_iff.2 fun c mem equal => ?_
    obtain ⟨x, held, rfl⟩ := List.mem_map.1 (List.mem_filter.1 mem).1
    exact absurd (of_decide_eq_true equal).symm (Nat.ne_of_lt (later x held))
  have split : holders.filter (fun c => s.classOf c = s.classOf h.channel) =
      (((before.map (·.channel)).filter fun c => s.classOf c < 3).filter fun c => s.classOf c = s.classOf h.channel) ++ [h.channel] := by
    simp only [holders, slots, List.map_append, List.map_cons, List.filter_append, List.filter_cons, decide_eq_true lower,
      decide_true, if_true, beyond]
  have chosen : s.preemptable = (holders.filter fun c => s.classOf c = low).getLast? := rfl
  rw [chosen, lowest, split, List.getLast?_concat]

end

end Sys2Proof.Machine
end

section
/-! PROOFS. O42: STALL_TIMER_EXPIRY and MAXIMUM_DRIVE_TIME_EXPIRY (R107, R111, R124, R133), and how the Drive Arbiter grants and preempts
(R128 to R132, R140 to R142). -/

namespace Sys2Proof.Machine

section

variable {s : Part} {c : Channel} {mv : Move}

/-! ### A slot granted and kept (R127, R132) -/

/-- A grant holds a slot and turns the drive on, and perhaps off again at once. -/
theorem grant_turns_on (moves : (s.motionOf c).move = some mv) : ∃ f : Motion → Motion,
    s.grant c = ((s.holdSlot c).markShifted c mv).modMotion c f
    ∨ s.grant c = (((s.holdSlot c).markShifted c mv).modMotion c f).driveOff c .ownEnd := by
  unfold Part.grant
  rw [moves]
  dsimp only
  split
  · unfold Part.drivePositional
    extract_lets driven t
    split
    · exact ⟨_, .inr rfl⟩
    · exact ⟨_, .inl rfl⟩
  · unfold Part.driveSpeed
    extract_lets driven late t
    split
    · exact ⟨_, .inr rfl⟩
    · exact ⟨_, .inl rfl⟩

theorem rankOrder_grant (moves : (s.motionOf c).move = some mv) : (s.grant c).rankOrder =
    (match s.store.activePreset.arbiterMode with
      | .fixed => s.rankOrder
      | .rotating => s.rankOrder.filter (· ≠ c) ++ [c]) := by
  have held : ((s.holdSlot c).markShifted c mv).rankOrder = (s.holdSlot c).rankOrder := by simp
  obtain ⟨f, stays | off⟩ := grant_turns_on moves
  · rw [stays]
    exact held
  · rw [off]
    exact held

/-- The slots of the other channels are kept, and a channel that drives has the newest. -/
theorem slots_of_grant (moves : (s.motionOf c).move = some mv) : (∀ y ∈ s.slots, y.channel ≠ c → y ∈ (s.grant c).slots)
    ∧ (((s.grant c).motionOf c).phase = .driving → ⟨c, s.now⟩ ∈ (s.grant c).slots) := by
  obtain ⟨f, grants⟩ := grant_turns_on moves
  let u : Part := ((s.holdSlot c).markShifted c mv).modMotion c f
  have slots : u.slots = s.slots ++ [⟨c, s.now⟩] := by
    simp only [u, modMotion_fields, markShifted_fields]
    rfl
  rcases grants with stays | off
  · rw [stays, slots]
    exact ⟨fun y held _ => List.mem_append_left _ held, fun _ => List.mem_append_right _ List.mem_cons_self⟩
  · rw [off]
    refine ⟨fun y held ne => List.mem_filter.2 ⟨?_, decide_eq_true ne⟩, fun driving => ?_⟩
    · rw [slots]
      exact List.mem_append_left _ held
    · rw [driveOff_phase] at driving
      exact Phase.noConfusion driving

/-- A slot is kept while others are granted, by a channel that does not wait. -/
theorem mem_slots_regrantUpTo (n : Nat) {y : Slot} : ∀ {s : Part}, (s.motionOf y.channel).phase ≠ .waiting → y ∈ s.slots →
    y ∈ (Part.regrantUpTo n s).slots := by
  induction n with
  | zero => exact fun _ held => held
  | succ n ih =>
    intro s still held
    unfold Part.regrantUpTo
    split
    · split
      case h_1 d best =>
        have ne : y.channel ≠ d := fun same => still (same ▸ bestWaiting_waits best)
        cases moves : (s.motionOf d).move with
        | none =>
          rw [grant_of_no_move moves]
          exact ih still held
        | some mv => exact ih (by rw [motionOf_grant_of_ne s ne]; exact still) ((slots_of_grant moves).1 y held ne)
      case h_2 => exact held
    · exact held

/-- A free slot goes to the waiting channel chosen, which drives then, or coasts already. -/
theorem regrant_serves_best (room : s.slots.length < 2) (best : s.bestWaiting = some c) (moves : (s.motionOf c).move.isSome = true) :
    (s.regrant.motionOf c).phase = .coasting ∨ ((s.regrant.motionOf c).phase = .driving ∧ ⟨c, s.now⟩ ∈ s.regrant.slots) := by
  obtain ⟨mv, moves⟩ := Option.isSome_iff_exists.1 moves
  have first : s.regrant = Part.regrantUpTo 5 (s.grant c) := by
    unfold Part.regrant
    rw [Part.regrantUpTo, if_pos (show s.slots.length < slotCount from room), best]
  have granted := grant_granted moves
  have still : ((s.grant c).motionOf c).phase ≠ .waiting := by
    rw [granted.phase]
    split <;> decide
  have motion : s.regrant.motionOf c = (s.grant c).motionOf c := by
    rw [first]
    exact (regrantUpTo_follows 5 c (s.grant c)).untouched still
  rw [motion]
  by_cases off : s.goesOff c mv = true
  · exact .inl (by rw [granted.phase, if_pos off])
  · have driving := granted.driving (Bool.eq_false_iff.2 off)
    refine .inr ⟨driving, ?_⟩
    rw [first]
    exact mem_slots_regrantUpTo 5 (y := ⟨c, s.now⟩) still ((slots_of_grant moves).2 driving)

/-- The blocks beside the Motion Engine, the Drive Arbiter and the marks of the window stay as they were. -/
theorem Drives.leaves {s t : Part} (h : Drives s t) : t.now = s.now ∧ t.book = s.book ∧ t.bus = s.bus ∧ t.store = s.store
    ∧ t.capture = s.capture ∧ t.lines = s.lines ∧ t.window.number = s.window.number ∧ t.window.history = s.window.history := by
  obtain ⟨_, _, _, _, rfl⟩ := h
  exact ⟨rfl, rfl, rfl, rfl, rfl, rfl, rfl, rfl⟩

/-! ### A drive that turns off (R107, R124, R133) -/

/-- A channel that drives is no choice of the arbiter, and its drive-off leaves the choice as it was. -/
theorem bestWaiting_driveOff (driving : (s.motionOf c).phase = .driving) (e : DriveEnd) : (s.driveOff c e).bestWaiting = s.bestWaiting := by
  refine bestWaiting_congr rfl (fun d => ?_) (classOf_of_owner fun d => ?_)
  · rw [motionOf_driveOff]
    split
    case isTrue same => simp [same, driving]
    case isFalse => rfl
  · rw [motionOf_driveOff]
    split
    case isTrue same => rw [same, Option.map_map]; rfl
    case isFalse => rfl

/-- What a drive-off leaves of its channel, and to whom its slot goes. -/
theorem endDrive_leaves (moves : (s.motionOf c).move = some mv) (driving : (s.motionOf c).phase = .driving) (e : DriveEnd) :
    let t := s.endDrive c e
    (t.motionOf c).phase = .coasting ∧ (t.motionOf c).coastEndsAt = some (s.now + s.coastTime c * 1000)
    ∧ (∃ mv', (t.motionOf c).move = some mv' ∧ mv'.driveEnd = e ∧ mv'.limit = mv.limit ∧ mv'.kind = mv.kind)
    ∧ (∀ x ∈ t.slots, x.channel ≠ c) ∧ (t.motionOf c).position = (s.motionOf c).position
    ∧ (∀ w, s.bestWaiting = some w → (s.motionOf w).move.isSome = true → (s.slots.filter (·.channel ≠ c)).length < 2 →
        (t.motionOf w).phase = .coasting ∨ ((t.motionOf w).phase = .driving ∧ ⟨w, s.now⟩ ∈ t.slots)) := by
  dsimp only
  rw [motionOf_endDrive_self, motionOf_driveOff, if_pos rfl, moves]
  refine ⟨rfl, rfl, ⟨_, rfl, rfl, rfl, rfl⟩, endDrive_slots s c e, rfl, fun w best held room => ?_⟩
  have ne : w ≠ c := fun same => Phase.noConfusion (driving.symm.trans (same ▸ bestWaiting_waits best))
  exact regrant_serves_best (s := s.driveOff c e) room ((bestWaiting_driveOff driving e).trans best)
    (by rw [motionOf_driveOff_of_ne s ne]; exact held)

/-! ### The preemption (R140, R141) -/

theorem reliefWaits_iff (moves : (s.motionOf c).move = some mv) :
    s.reliefWaits c = true ↔ mv.kind = .relief ∧ (s.motionOf c).phase = .waiting := by
  unfold Part.reliefWaits
  rw [moves]
  simp

/-- No RELIEF move waits, or a slot is free. -/
theorem preempt_of_idle (idle : ¬(s.reliefWaits c = true ∧ slotCount ≤ s.slots.length)) : s.preempt c = s := if_neg idle

theorem preempt_of_no_holder (above : ¬∃ y ∈ s.slots, s.classOf y.channel < 3) : s.preempt c = s := by
  unfold Part.preempt
  rw [preemptable_of_none above, ite_self]

theorem preempt_of_holder (waits : s.reliefWaits c = true) (full : 2 ≤ s.slots.length) {h : Channel} (holds : s.preemptable = some h) :
    s.preempt c = ((s.driveOff h .workLeft).grant c).regrant := by
  unfold Part.preempt
  rw [if_pos ⟨waits, full⟩, holds]

/-- The holder coasts without its slot, its move kept; the channel that preempts drives, or coasts already. -/
theorem preempted_leaves {h : Channel} {held : Move} (apart : h ≠ c) (moves : (s.motionOf c).move = some mv)
    (holds : (s.motionOf h).move = some held) : let t := ((s.driveOff h .workLeft).grant c).regrant
    (t.motionOf h).phase = .coasting ∧ (∀ x ∈ t.slots, x.channel ≠ h)
    ∧ (∃ kept, (t.motionOf h).move = some kept ∧ kept.driveEnd = .workLeft ∧ kept.target = held.target
      ∧ kept.remaining = held.remaining)
    ∧ ((t.motionOf c).phase = .driving ∨ (t.motionOf c).phase = .coasting) := by
  let u : Part := s.driveOff h .workLeft
  have movesU : (u.motionOf c).move = some mv := by rw [motionOf_driveOff_of_ne s apart.symm, moves]
  have phase : ((u.grant c).motionOf h).phase ≠ .waiting := by
    rw [motionOf_grant_of_ne u apart, driveOff_phase]
    exact Phase.noConfusion
  have motion : (u.grant c).regrant.motionOf h = u.motionOf h := (regrant_of_not_waiting phase).trans (motionOf_grant_of_ne u apart)
  have released : ∀ x ∈ (u.grant c).slots, x.channel ≠ h := fun x mem => by
    rcases slots_grant u c x mem with old | new
    · exact of_decide_eq_true (List.mem_filter.1 old).2
    · rw [new]
      exact apart.symm
  dsimp only
  rw [motion, grant_regrant movesU]
  refine ⟨driveOff_phase s h _, slots_regrantUpTo 6 h phase released, ?_, ?_⟩
  · rw [motionOf_driveOff, if_pos rfl, holds]
    exact ⟨_, rfl, rfl, rfl, rfl⟩
  · simpa using (grant_driven movesU).phase

/-- A channel that asks while a slot is free drives, or coasts already. -/
theorem askSlot_serves (moves : (s.motionOf c).move = some mv) (room : s.slots.length < 2) :
    ((s.askSlot c).motionOf c).phase = .driving ∨ ((s.askSlot c).motionOf c).phase = .coasting := by
  have asks : s.askSlot c = (s.grant c).regrant := if_pos room
  rw [asks, grant_regrant moves]
  simpa using (grant_driven moves).phase

/-! ### The expiries (R111, R124) -/

theorem exec_stallTimerExpiry_of_on {p : Part} (on : p.power = .on) (q : List Instr) {x : PosChannel} {d : Nat}
    (runs : (p.motionOf x.channel).stallAt = some d) :
    exec (.stallTimerExpiry x) ⟨p, q⟩ = .next ⟨(p.atTime d).endDrive x.channel .stall, q⟩ :=
  congrArg (fun t => Host.Outcome.next (State.mk t q)) (Part.onExpiry_of_on on runs _)

/-- The part with the move of a channel at its limit. -/
def Part.limited (s : Part) (c : Channel) : Part :=
  s.modMotion c fun m => { m with move := m.move.map fun mv => { mv with limit := true } }

theorem limited_owner (s : Part) (c d : Channel) :
    ((s.limited c).motionOf d).move.map (·.owner) = (s.motionOf d).move.map (·.owner) := by
  refine owner_modMotion s c ?_ d
  rw [Option.map_map]
  rfl

theorem limited_phase (s : Part) (c d : Channel) : ((s.limited c).motionOf d).phase = (s.motionOf d).phase := by
  unfold Part.limited
  rw [motionOf_modMotion]
  split
  case isTrue same => rw [same]
  case isFalse => rfl

theorem limited_moves (s : Part) (c d : Channel) : ((s.limited c).motionOf d).move.isSome = (s.motionOf d).move.isSome := by
  have same := congrArg Option.isSome (limited_owner s c d)
  rwa [Option.isSome_map, Option.isSome_map] at same

theorem bestWaiting_limited (s : Part) (c : Channel) : (s.limited c).bestWaiting = s.bestWaiting :=
  bestWaiting_congr rfl (fun d => by rw [limited_phase]) (classOf_of_owner (limited_owner s c))

theorem exec_maximumDriveTimeExpiry_of_on {p : Part} (on : p.power = .on) (q : List Instr) {v : SpeedChannel} {mv : Move}
    (driving : (p.motionOf v.channel).phase = .driving) (moves : (p.motionOf v.channel).move = some mv) :
    exec (.maximumDriveTimeExpiry v) ⟨p, q⟩ = .next ⟨((p.atTime ((p.motionOf v.channel).drivingSince
      + ((p.store.activeCal.figures.speed.get v).maxDriveTime * 1000 - mv.driveTime))).limited v.channel).endDrive v.channel .ownEnd, q⟩ := by
  refine congrArg (fun t => Host.Outcome.next (State.mk t q)) (Part.onExpiry_of_on on ?_ _)
  unfold Part.driveTimeUp
  rw [driving, moves]
  rfl

end

end Sys2Proof.Machine

open Sys2Proof Sys2Proof.Machine

/-- Settles O42: a drive-off and the grant of its slot, then the arbiter's choices one by one. -/
theorem aStallOrALimitTurnsTheDriveOff : Obligations.AStallOrALimitTurnsTheDriveOff := by
  refine ⟨?turnsOff, fun s => ⟨rankList_ranked s, fun c => mem_rankList⟩, ?chooses⟩
  case turnsOff =>
    intro p q c mv on driving moves off
    refine ⟨fun x d at' runs => ?stall, fun v at' => ?limit⟩
    case stall =>
      subst at'
      let s : Part := p.atTime d
      obtain ⟨now, others⟩ := ((Drives.refl s).endDrive x.channel .stall).leaves
      obtain ⟨phase, coasts, kept, slots, position, serves⟩ := endDrive_leaves (s := s) moves driving .stall
      exact ⟨_, exec_stallTimerExpiry_of_on on q runs, now, phase, coasts, kept, slots, position, serves, others⟩
    case limit =>
      subst at'
      let s : Part := p.atTime ((p.motionOf v.channel).drivingSince
        + ((p.store.activeCal.figures.speed.get v).maxDriveTime * 1000 - mv.driveTime))
      let u : Part := s.limited v.channel
      have motion : u.motionOf v.channel = { p.motionOf v.channel with move := some { mv with limit := true } } := by
        rw [show u.motionOf v.channel = _ from motionOf_modMotion_self _ _ _, show (s.motionOf v.channel).move = some mv from moves]
        rfl
      obtain ⟨now, others⟩ := (((Drives.refl s).modMotion v.channel _).endDrive v.channel .ownEnd).leaves
      obtain ⟨phase, coasts, kept, slots, position, serves⟩ := endDrive_leaves (s := u) (mv := { mv with limit := true })
        (by rw [motion]) (by rw [motion]; exact driving) .ownEnd
      refine ⟨_, exec_maximumDriveTimeExpiry_of_on on q driving moves, now, phase, coasts, kept, slots, position.trans (by rw [motion]),
        fun w best held room => ?_, others⟩
      exact serves w ((bestWaiting_limited s v.channel).trans best) ((limited_moves s v.channel w).trans held) room
  case chooses =>
    intro p waiting
    refine ⟨bestWaiting_of_none, fun before c after order waits earlier later => bestWaiting_of_first order waits earlier later,
      fun c mv moves => ⟨?ranks, rankOrder_grant moves, askSlot_serves moves, fun full => if_neg (Nat.not_lt.2 full), rfl, rfl, fun idle => ?idle,
      fun above => ?above, fun before h after held slots full relief waits apart holds lower earlier later => ?preempts⟩⟩
    case ranks =>
      unfold Part.classOf
      rw [moves]
      rfl
    case idle =>
      refine preempt_of_idle fun ⟨asks, full⟩ => ?_
      obtain ⟨relief, waits⟩ := (reliefWaits_iff moves).1 asks
      rcases idle with room | other | still
      · exact absurd room (Nat.not_lt.2 full)
      · exact other relief
      · exact still waits
    case above => exact preempt_of_no_holder fun ⟨y, held, lower⟩ => absurd (above y held) (Nat.ne_of_lt lower)
    case preempts =>
      dsimp only
      rw [preempt_of_holder ((reliefWaits_iff moves).2 ⟨relief, waits⟩) full (preemptable_of_last slots lower earlier later)]
      exact preempted_leaves apart moves holds

end

section
/-! PROOFS. A RELIEF move handed to the concave (R103, R140, R142, R149, R150): begun in COASTING, asked for a slot, or at its end at
once. -/

namespace Sys2Proof.Machine

/-! ### A move that heads upward (R109) -/

/-- The move of a channel below its target is a RELIEF move driven upward. -/
def Motion.headsUp (m : Motion) (z : Int) : Prop :=
  m.position < z ∧ ∀ mv, m.move = some mv → mv.kind = .relief ∧ mv.target = some z ∧ mv.direction = some .up

section

variable {s : Part} {x : PosChannel} {z : Int}

theorem headsUp_driveOff (up : (s.motionOf x.channel).headsUp z) (c : Channel) (e : DriveEnd) :
    ((s.driveOff c e).motionOf x.channel).headsUp z := by
  by_cases own : x.channel = c
  · obtain ⟨below, heads⟩ := up
    rw [motionOf_driveOff, if_pos own, ← own]
    refine ⟨below, fun mv' moves' => ?_⟩
    obtain ⟨mv, moves, rfl⟩ := Option.map_eq_some_iff.1 moves'
    exact heads mv moves
  · rw [motionOf_driveOff_of_ne s own]
    exact up

theorem headsUp_grant (up : (s.motionOf x.channel).headsUp z) (c : Channel) : ((s.grant c).motionOf x.channel).headsUp z := by
  by_cases own : x.channel = c
  · subst own
    cases moves : (s.motionOf x.channel).move with
    | none =>
      rw [grant_of_no_move moves]
      exact up
    | some mv =>
      obtain ⟨below, heads⟩ := up
      obtain ⟨kind, aimed, -⟩ := heads mv moves
      have granted := grant_granted moves
      obtain ⟨e, n, runs⟩ := granted.move
      refine ⟨granted.position ▸ below, fun mv' moves' => ?_⟩
      rw [runs, granted_of_target (by rw [kind]; decide) (by rw [kind]; decide) aimed, if_pos below] at moves'
      obtain rfl := Option.some.inj moves'
      exact ⟨kind, aimed, rfl⟩
  · rw [motionOf_grant_of_ne s own]
    exact up

theorem headsUp_regrantUpTo (n : Nat) : ∀ {s : Part}, (s.motionOf x.channel).headsUp z →
    ((Part.regrantUpTo n s).motionOf x.channel).headsUp z := by
  induction n with
  | zero => exact fun up => up
  | succ n ih =>
    intro s up
    unfold Part.regrantUpTo
    split
    · split
      · exact ih (headsUp_grant up _)
      · exact up
    · exact up

theorem headsUp_enterWaiting (up : (s.motionOf x.channel).headsUp z) (c : Channel) :
    ((s.enterWaiting c).motionOf x.channel).headsUp z := by
  have waits : ((s.modMotion c fun m => { m with phase := .waiting, coastEndsAt := none }).motionOf x.channel).headsUp z := by
    rw [motionOf_modMotion]
    split
    case isTrue own => exact own ▸ up
    case isFalse => exact up
  unfold Part.enterWaiting Part.askSlot
  split
  · exact headsUp_regrantUpTo 6 (headsUp_grant waits c)
  · exact waits

theorem headsUp_preemptUnless (up : (s.motionOf x.channel).headsUp z) (first : Bool) (c : Channel) :
    ((s.preemptUnless first c).motionOf x.channel).headsUp z := by
  unfold Part.preemptUnless Part.preempt
  split
  · exact up
  · split
    · split
      · exact headsUp_regrantUpTo 6 (headsUp_grant (headsUp_driveOff up _ _) c)
      · exact up
    · exact up

end

theorem body_preemptUnless (s : Part) (first : Bool) (c d : Channel) :
    ((s.preemptUnless first c).motionOf d).body = (s.motionOf d).body := by
  unfold Part.preemptUnless Part.preempt
  split
  · rfl
  · split
    · split
      · rw [body_regrant, body_grant, body_driveOff]
      · rfl
    · rfl

/-! ### The RELIEF move handed -/

/-- The RELIEF move to the target of R149. -/
def Part.reliefMove (s : Part) : Move :=
  (Move.blank .override .relief .whole none).aim (s.motionOf .concave).position s.reliefTarget

/-- The RELIEF move handed, and the preemption where it waits. -/
def Part.reliefHanded (s : Part) (first : Bool) : Part := (s.hand .concave s.reliefMove).preemptUnless first .concave

theorem position_le_reliefTarget (s : Part) : (s.motionOf .concave).position ≤ s.reliefTarget := le_max_right _ _

theorem reliefMove_rank (s : Part) : s.reliefMove.owner.rank ≠ 0 := Nat.succ_ne_zero 2

theorem reliefMove_base (s : Part) : s.reliefMove.base = distance s.reliefTarget (s.motionOf .concave).position := rfl

section

variable {s : Part} (first : Bool)

/-- On a coasting concave the move begins in COASTING. -/
theorem reliefHanded_of_coasting (coasting : (s.motionOf .concave).phase = .coasting) : let t := s.reliefHanded first
    Drives s t ∧ t.slots = s.slots
    ∧ t.motionOf .concave = { s.motionOf .concave with move := some { s.reliefMove with begunCoasting := true } } := by
  let u : Part := s.modMotion .concave fun m => { m with move := some { s.reliefMove with begunCoasting := true } }
  let w : Part := u.markShifted .concave s.reliefMove
  have motion : w.motionOf .concave = { s.motionOf .concave with move := some { s.reliefMove with begunCoasting := true } } :=
    (motionOf_markShifted u .concave .concave _).trans (motionOf_modMotion_self _ _ _)
  have hands : s.hand .concave s.reliefMove = w := by
    unfold Part.hand
    rw [if_neg (fun both => reliefMove_rank s both.1), if_pos coasting]
  have calm : w.reliefWaits .concave = false := by
    unfold Part.reliefWaits
    rw [motion, coasting]
    rfl
  have is : s.reliefHanded first = w := by
    unfold Part.reliefHanded
    rw [hands, preemptUnless_of_calm calm]
  dsimp only
  rw [is]
  exact ⟨((Drives.refl s).modMotion .concave _).markShifted .concave _, by simp [w, u], motion⟩

/-- With counts to go the move asks for a slot, which it preempts where both are held. -/
theorem reliefHanded_of_away (still : (s.motionOf .concave).phase ≠ .coasting)
    (away : (s.motionOf .concave).position < s.reliefTarget) : let t := s.reliefHanded first
    Drives s t ∧ (t.motionOf .concave).position = (s.motionOf .concave).position
    ∧ t.servedOrWaits (s.holding .concave s.reliefMove) .concave .relief first
    ∧ ∃ (i k : Nat) (g : Bool) (e : DriveEnd) (n : Nat), (t.motionOf .concave).move = some { s.reliefMove with
        stintCount := i, remaining := k, direction := some .up, granted := g, driveEnd := e, driveTime := n } := by
  let u : Part := s.holding .concave s.reliefMove
  have base : s.reliefMove.base ≠ 0 := distance_ne_zero away.ne'
  have hands : s.hand .concave s.reliefMove = u.enterWaiting .concave :=
    hand_waits (.inl (reliefMove_rank s)) still fun _ _ => base
  have position : (u.motionOf .concave).position = (s.motionOf .concave).position := holding_position s _ _
  have moves : (u.motionOf PosChannel.concave.channel).move = some s.reliefMove := holding_move s _ _
  obtain ⟨drives, serves, i, k, w, g, e, n, runs, -, -⟩ := asks_aimed (z := s.reliefTarget) moves MoveKind.noConfusion MoveKind.noConfusion
    rfl base (away.ne'.trans_eq position.symm) first
  have up : (u.motionOf PosChannel.concave.channel).headsUp s.reliefTarget := by
    refine ⟨lt_of_eq_of_lt position away, fun mv moves' => ?_⟩
    obtain rfl := Option.some.inj (moves.symm.trans moves')
    exact ⟨rfl, rfl, if_pos away⟩
  have heads := headsUp_preemptUnless (headsUp_enterWaiting up .concave) first .concave
  have body := (body_preemptUnless (u.enterWaiting .concave) first .concave .concave).trans (body_enterWaiting u .concave .concave)
  obtain ⟨-, -, direction⟩ := heads.2 _ runs
  dsimp only
  unfold Part.reliefHanded
  rw [hands]
  refine ⟨((Drives.refl s).holding _ _).trans drives, (Motion.body_eq_iff.1 body).2.2.1.trans position, serves, i, k, g, e, n, ?_⟩
  rw [← direction]
  exact runs

/-- With no count to go the move ends COMPLETE, and Plug Relief is OPEN_HELD. -/
theorem reliefHanded_of_there (still : (s.motionOf .concave).phase ≠ .coasting)
    (there : s.reliefTarget = (s.motionOf .concave).position) (opening : s.override.relief = .opening) : let t := s.reliefHanded first
    let k := s.store.activePreset.relief
    t.motionOf .concave = { s.motionOf .concave with stallCount := 0, phase := .idle, move := none, coastEndsAt := none }
    ∧ t.entryOf .concave = { s.entryOf .concave with last := some ⟨.complete, .override, s.window.number⟩ }
    ∧ t.evaluator = s.evaluator ∧ t.window.marks.relief = true
    ∧ t.override = { s.override with
        relief := .openHeld false, giveUpAt := some (s.now + k.giveUpTime * 1000), watchAt := s.watchDeadline k.recoverPercent }
    ∧ Framed .concave s t ∧ t.bus.queue.length ≤ s.bus.queue.length + 1 := by
  let u : Part := s.holding .concave s.reliefMove
  let w : Part := u.modMotion .concave fun m => { m with stallCount := 0 }
  have base : s.reliefMove.base = 0 := distance_eq_zero_iff.2 there
  have hands : s.hand .concave s.reliefMove = w.endMove .concave .complete := by
    unfold Part.hand
    rw [if_neg (fun both => reliefMove_rank s both.1), if_neg still]
    exact (if_pos base).trans (if_neg MoveKind.noConfusion)
  have motion : w.motionOf .concave = { s.motionOf .concave with stallCount := 0, move := some s.reliefMove } := by
    rw [motionOf_modMotion_self, motionOf_holding]
  have moves : (w.motionOf .concave).move = some s.reliefMove := by rw [motion]
  obtain ⟨rests, entry, evaluator, opened, -, -⟩ := endTarget_leaves moves MoveKind.noConfusion (o := .complete) (.inl (.inl rfl))
  obtain ⟨mark, override⟩ := opened ⟨rfl, opening⟩
  have is : s.reliefHanded first = w.endMove .concave .complete := by
    unfold Part.reliefHanded
    rw [hands, preemptUnless_of_calm (reliefWaits_of_none (by rw [rests]; rfl))]
  dsimp only
  rw [is]
  refine ⟨rests.trans (by rw [motion]; rfl), entry, evaluator, mark, override, ?framed, ?queue⟩
  case framed =>
    rw [← hands]
    exact ((Local.refl (P := AnyOwner) (W := True) s).hand s.reliefMove trivial fun _ => trivial).framed
  case queue =>
    let v : Part := (w.modMotion .concave Motion.ended).stopJogTimerOf .concave s.reliefMove
    let r : Part := v.recordOutcome .concave .complete .override none
    have ends : w.endMove .concave .complete = r.reliefOutcome .relief .complete := by
      unfold Part.endMove
      rw [moves]
      rfl
    have openingR : r.override.relief = .opening := by
      have plug : r.plug = s.plug := (plug_recordOutcome v _ _ _ _).trans (plug_stopJogTimerOf _ _ _)
      exact (congrArg (·.1.relief) plug).trans opening
    rw [ends, reliefOutcome_opened (.inl rfl) openingR]
    exact (queue_recordOutcome v _ _ _ _).trans_eq (congrArg (·.length + 1) (queue_stopJogTimerOf _ _ _))

end

end Sys2Proof.Machine
end

section
/-! PROOFS. O44: CONFIRM_TIMER_EXPIRY, the concave's move aborted, RELIEF handed, RELIEF_STARTED and the RESTRAIN_NOTICE queued (R17, R49,
R52 to R54, R103, R140, R142, R149, R150). -/

namespace Sys2Proof.Machine

/-! ### An abort that ends in no fault (R137, R138) -/

/-- What such an abort leaves: the outcome is the last one, and one frame at most is queued. -/
structure Cleared (c : Channel) (s t : Part) : Prop where
  plug : t.plug = s.plug
  unmoved : (s.motionOf c).move = none → t.entryOf c = s.entryOf c
  ended : ∀ mv, (s.motionOf c).move = some mv → t.entryOf c = { s.entryOf c with last := some ⟨.aborted, mv.owner, s.window.number⟩ }
  queue : t.bus.queue.length ≤ s.bus.queue.length + 1

section

variable {s : Part} {c : Channel} {mv : Move}

theorem abort_coasting (moves : (s.motionOf c).move = some mv) (coasting : (s.motionOf c).phase = .coasting) (o : OutcomeCode) :
    s.abort c o = ((s.modMotion c fun m => { m with move := none, coastShifts := mv.bearing }).stopJogTimerOf c mv).recordOutcome
      c o mv.owner mv.tag := by
  unfold Part.abort
  rewrite [moves, coasting]
  rfl

/-- After the Drive Arbiter's work the outcome is recorded. -/
theorem abort_records (moves : (s.motionOf c).move = some mv) (how : ((s.motionOf c).phase = .waiting ∧ (s.motionOf c).standing = none)
    ∨ (s.motionOf c).phase = .coasting ∨ (s.motionOf c).phase = .driving) :
    ∃ u, Drives s u ∧ s.abort c .aborted = (u.stopJogTimerOf c mv).recordOutcome c .aborted mv.owner mv.tag := by
  rcases how with ⟨waiting, calm⟩ | coasting | driving
  · exact ⟨_, (Drives.refl s).modMotion c _, abort_waiting moves waiting calm⟩
  · exact ⟨_, (Drives.refl s).modMotion c _, abort_coasting moves coasting .aborted⟩
  · refine ⟨_, (((Drives.refl s).driveOff c .workLeft).modMotion c fun m => { m with move := none, coastShifts := mv.bearing }).regrant, ?_⟩
    unfold Part.abort
    rewrite [moves, driving]
    rfl

theorem cleared_abort (how : (s.motionOf c).move = none ∨ ((s.motionOf c).phase = .waiting ∧ (s.motionOf c).standing = none)
    ∨ (s.motionOf c).phase = .coasting ∨ (s.motionOf c).phase = .driving) : Cleared c s (s.abort c .aborted) := by
  cases moves : (s.motionOf c).move with
  | none =>
    rw [abort_of_still moves]
    exact ⟨rfl, fun _ => rfl, fun mv held => (nomatch moves.symm.trans held), Nat.le_succ _⟩
  | some mv =>
    obtain ⟨u, drives, records⟩ := abort_records moves (how.resolve_left (by rw [moves]; exact nofun))
    rw [records]
    refine ⟨?plug, fun still => (nomatch moves.symm.trans still), fun mv' held => ?ended, ?queue⟩
    case plug => rw [plug_recordOutcome, plug_stopJogTimerOf, plug_of_drives drives]
    case ended =>
      obtain rfl := Option.some.inj (moves.symm.trans held)
      rw [entryOf_recordOutcome, entryOf_stopJogTimerOf, number_stopJogTimerOf, entryOf_drives drives, (drives.framed c).number]
    case queue =>
      refine (queue_recordOutcome _ _ _ _ _).trans (Nat.succ_le_succ ?_)
      obtain ⟨_, _, _, _, rfl⟩ := drives
      rw [queue_stopJogTimerOf]

/-- On a channel at rest, or waiting, the abort leaves it IDLE and touches no other channel and no slot. -/
theorem abort_at_rest (how : ((s.motionOf c).phase = .idle ∧ (s.motionOf c).move = none)
    ∨ ((s.motionOf c).phase = .waiting ∧ (s.motionOf c).move.isSome = true ∧ (s.motionOf c).standing = none)) :
    let t := s.abort c .aborted
    (t.motionOf c).phase = .idle ∧ t.slots = s.slots ∧ ∀ d, d ≠ c → t.motionOf d = s.motionOf d := by
  dsimp only
  rcases how with ⟨idle, still⟩ | ⟨waiting, held, calm⟩
  · rw [abort_of_still still]
    exact ⟨idle, rfl, fun _ _ => rfl⟩
  · obtain ⟨mv, moves⟩ := Option.isSome_iff_exists.1 held
    obtain ⟨motion, slots, -⟩ := (notes_abort_waiting moves waiting calm).keeps
    refine ⟨?_, slots, fun d ne => ?_⟩
    · rw [motionOf_of_motion motion, motionOf_modMotion_self]
      rfl
    · rw [motionOf_of_motion motion, motionOf_modMotion_of_ne s ne]

/-- On a channel that coasts, or is driven, a coast goes on. -/
theorem abort_in_motion (how : (s.motionOf c).phase = .coasting ∨ ((s.motionOf c).phase = .driving ∧ (s.motionOf c).move.isSome = true)) :
    let t := s.abort c .aborted
    (t.motionOf c).phase = .coasting ∧ ((s.motionOf c).phase = .driving → ∀ y ∈ t.slots, y.channel ≠ c)
    ∧ (t.motionOf c).coastEndsAt =
        if (s.motionOf c).phase = .driving then some (s.now + s.coastTime c * 1000) else (s.motionOf c).coastEndsAt := by
  dsimp only
  rcases how with coasting | ⟨driving, held⟩
  · have apart : (s.motionOf c).phase ≠ .driving := by rw [coasting]; decide
    have rolls : ((s.abort c .aborted).motionOf c).phase = .coasting
        ∧ ((s.abort c .aborted).motionOf c).coastEndsAt = (s.motionOf c).coastEndsAt := by
      cases moves : (s.motionOf c).move with
      | none =>
        rw [abort_of_still moves]
        exact ⟨coasting, rfl⟩
      | some mv =>
        rw [abort_coasting moves coasting, motionOf_of_motion (motion_recordOutcome _ _ _ _ _),
          motionOf_of_motion (motion_stopJogTimerOf _ _ _), motionOf_modMotion_self]
        exact ⟨coasting, rfl⟩
    exact ⟨rolls.1, fun driving => absurd driving apart, rolls.2.trans (if_neg apart).symm⟩
  · obtain ⟨mv, moves⟩ := Option.isSome_iff_exists.1 held
    obtain ⟨phase, -, coasts, slots, -⟩ := abort_driving moves driving .aborted
    exact ⟨phase, fun _ => slots, coasts.trans (if_pos driving).symm⟩

end

/-! ### The RELIEF move handed, in every case -/

theorem plug_iff {s t : Part} : t.plug = s.plug ↔ t.override = s.override ∧ t.evaluator = s.evaluator
    ∧ t.window.marks.relief = s.window.marks.relief := by simp [Part.plug]

/-- Whether it coasts, asks for a slot or ends at once: Plug Relief stays open, the Evaluator stands, one frame at most is queued. -/
theorem reliefHanded_keeps {s : Part} (opening : s.override.relief = .opening) (mark : s.window.marks.relief = true) (first : Bool) :
    let t := s.reliefHanded first
    t.evaluator = s.evaluator ∧ t.window.marks.relief = true ∧ t.override.relief.opens = true
    ∧ (t.motionOf .concave).position = (s.motionOf .concave).position ∧ Framed .concave s t
    ∧ t.bus.queue.length ≤ s.bus.queue.length + 1 := by
  have flies {t : Part} (drives : Drives s t) (position : (t.motionOf .concave).position = (s.motionOf .concave).position) :
      t.evaluator = s.evaluator ∧ t.window.marks.relief = true ∧ t.override.relief.opens = true
      ∧ (t.motionOf .concave).position = (s.motionOf .concave).position ∧ Framed .concave s t
      ∧ t.bus.queue.length ≤ s.bus.queue.length + 1 := by
    obtain ⟨override, evaluator, mark'⟩ := plug_iff.1 (plug_of_drives drives)
    obtain ⟨-, -, bus, -⟩ := drives.leaves
    exact ⟨evaluator, mark'.trans mark, by rw [override, opening]; rfl, position, drives.framed _, by rw [bus]; exact Nat.le_succ _⟩
  dsimp only
  by_cases coasting : (s.motionOf .concave).phase = .coasting
  · obtain ⟨drives, -, motion⟩ := reliefHanded_of_coasting first coasting
    exact flies drives (by rw [motion])
  · rcases (position_le_reliefTarget s).lt_or_eq with away | there
    · obtain ⟨drives, position, -⟩ := reliefHanded_of_away first coasting away
      exact flies drives position
    · obtain ⟨motion, -, evaluator, mark', override, framed, queue⟩ := reliefHanded_of_there first coasting there.symm opening
      exact ⟨evaluator, mark', by rw [override]; rfl, by rw [motion], framed, queue⟩

/-- A channel served as its entry found the other channels and the slots. -/
theorem servedOrWaits_of_others {w t s p : Part} {c : Channel} {k : MoveKind} {first : Bool} (h : w.servedOrWaits s c k first)
    (motion : t.motionOf c = w.motionOf c) (slots : s.slots = p.slots) (others : ∀ d, d ≠ c → s.motionOf d = p.motionOf d) :
    t.servedOrWaits p c k first := by
  unfold Part.servedOrWaits at *
  rw [slots] at h
  rw [motion]
  refine ⟨h.1, fun full apart => ?_⟩
  have same : (∃ y ∈ p.slots, s.classOf y.channel < 3) ↔ ∃ y ∈ p.slots, p.classOf y.channel < 3 := by
    refine exists_congr fun y => and_congr_right fun held => ?_
    unfold Part.classOf
    rw [others _ (apart y held)]
  rw [← same]
  exact h.2 full apart

/-! ### RELIEF_STARTED and the forced Feed Restrain (R49, R52 to R54, R149) -/

/-- RELIEF_STARTED raised, and the Feed Restrain forced to RELIEF, the change from before announced. -/
def Part.openingTold (s : Part) (entry : Nat) (before : RestrainFace × Nat) : Part :=
  ((s.raise .reliefStarted (some .concave) entry s.drumDetail).setRestrain (.restrained .relief 0)).announceRestrain before

theorem raise_eq (s : Part) (e : Event) (c : Option Channel) (d8 d16 : Nat) :
    s.raise e c d8 d16 = { s with bus := (s.raise e c d8 d16).bus } := by
  unfold Part.raise Part.raiseIn Part.send
  dsimp only
  split <;> rfl

section

variable {s : Part} (entry : Nat) (before : RestrainFace × Nat)

theorem openingTold_eq : ∃ (bus : Bus) (n : Nat), s.openingTold entry before = { s with
    bus := bus, evaluator := { s.evaluator with restrain := .restrained .relief 0, sentReduction := n } } := by
  unfold Part.openingTold Part.announceRestrain
  rw [raise_eq]
  split
  · exact ⟨_, _, rfl⟩
  · exact ⟨_, s.evaluator.sentReduction, rfl⟩

theorem openingTold_leaves : let t := s.openingTold entry before
    t.motion = s.motion ∧ t.slots = s.slots ∧ t.book = s.book ∧ t.override = s.override ∧ t.window = s.window
    ∧ t.evaluator = { s.evaluator with restrain := .restrained .relief 0, sentReduction := t.evaluator.sentReduction }
    ∧ Framed .concave s t := by
  obtain ⟨bus, n, is⟩ := openingTold_eq (s := s) entry before
  dsimp only
  rw [is]
  exact ⟨rfl, rfl, rfl, rfl, rfl, rfl, ⟨rfl, fun _ _ => rfl, rfl, rfl, rfl, rfl, rfl, rfl, rfl, rfl⟩⟩

theorem reduction_of_opens (opens : s.override.relief.opens = true) : s.reduction = 1000 := by
  rw [reduction_eq, if_pos opens]

theorem openingTold_notified (room : s.bus.queue.length < 24) : (s.openingTold entry before).notified .reliefStarted (some .concave) entry
    (s.capture.speed.drum.rpm % 65536) s.window.number := by
  let u : Part := s.raise .reliefStarted (some .concave) entry s.drumDetail
  have told : u.notified .reliefStarted (some .concave) entry s.drumDetail s.window.number := raiseIn_notified s _ _ _ _ _ room
  have quiet : Quiet u (s.openingTold entry before) := (Quiet.setRestrain .refl _).announceRestrain _
  exact quiet.notified told

/-- Out of another state or cause the change is announced, where the queue has room. -/
theorem openingTold_sent (opens : s.override.relief.opens = true) (changed : before.1 ≠ .restrained .relief)
    (room : s.bus.queue.length < 23) : let t := s.openingTold entry before
    t.restrainSent ∧ t.evaluator.sentReduction = 1000 := by
  let forced : Part := (s.raise .reliefStarted (some .concave) entry s.drumDetail).setRestrain (.restrained .relief 0)
  have queue : forced.bus.queue.length ≤ s.bus.queue.length + 1 := queue_raise _ _ _ _ _
  have opensF : forced.override.relief.opens = true := by
    rw [show forced.override = s.override from (raise_keeps _ _ _ _ _).2]
    exact opens
  have sends : s.openingTold entry before = forced.sendRestrain := announceRestrain_of_changed (.inl changed.symm)
  dsimp only
  rw [sends]
  exact ⟨sendRestrain_sent forced (by omega), reduction_of_opens opensF⟩

end

/-! ### The entry to OPENING (R149) -/

/-- The part with Plug Relief just OPENING: the RELIEF mark set, the relief timers stopped. -/
def Part.openingBegun (s : Part) : Part := { s with
  override := { Override.reset with relief := .opening }
  window := { s.window with marks := { s.window.marks with relief := true } } }

theorem enterOpening_eq (s : Part) (entry : Nat) (first : Bool) : s.enterOpening entry first =
    ((s.openingBegun.abort .concave .aborted).reliefHanded first).openingTold entry s.restrainFace := rfl

theorem exec_confirmTimerExpiry_of_on {p : Part} (on : p.power = .on) (q : List Instr) {d : Nat} (runs : p.override.confirmAt = some d)
    {entry : Nat} (state : (p.override.relief = .suspect ∧ entry = 1) ∨ (p.override.relief = .returning ∧ entry = 2)) (first : Bool) :
    exec (.confirmTimerExpiry first) ⟨p, q⟩ = .next ⟨(p.atTime d).enterOpening entry first, q⟩ := by
  refine congrArg (fun t => Host.Outcome.next (State.mk t q)) ((Part.onExpiry_of_on on runs _).trans ?_)
  unfold Part.confirmPlug
  rcases state with ⟨suspect, rfl⟩ | ⟨returning, rfl⟩
  · rw [show (p.atTime d).override.relief = _ from suspect]
  · rw [show (p.atTime d).override.relief = _ from returning]

theorem face_ne_relief {r : Restrain} (other : ∀ held, r ≠ .restrained .relief held) : r.face ≠ .restrained .relief := by
  intro same
  cases r with
  | opened => exact RestrainFace.noConfusion same
  | pending n => exact RestrainFace.noConfusion same
  | restrained cause held => exact other held (congrArg (Restrain.restrained · held) (RestrainFace.restrained.inj same))

end Sys2Proof.Machine
end

section

open Sys2Proof Sys2Proof.Machine

/-- Settles O44: the concave's move aborted, RELIEF begun in COASTING, asked for a slot or at once at its end, and what is told of it. -/
theorem aConfirmedPlugOpensTheConcave : Obligations.AConfirmedPlugOpensTheConcave := by
  intro p q d first entry on runs state now m e n f k target rests waits rolls hands ended found
  let s : Part := p.atTime d
  let b : Part := s.openingBegun
  let u : Part := b.abort .concave .aborted
  let w : Part := u.reliefHanded first
  let t : Part := w.openingTold entry s.restrainFace
  have cleared : Cleared .concave b u := cleared_abort <| by
    rcases found with ⟨-, still⟩ | ⟨waiting, -, calm⟩ | coasting | ⟨driving, -⟩
    · exact .inl still
    · exact .inr (.inl ⟨waiting, calm⟩)
    · exact .inr (.inr (.inl coasting))
    · exact .inr (.inr (.inr driving))
  obtain ⟨overrideU, evaluatorU, markU⟩ := plug_iff.1 cleared.plug
  have framedU : Framed .concave b u := ((Local.refl (P := AnyOwner) (W := True) b).abort .aborted).framed
  have position : (u.motionOf .concave).position = m.position := abort_position b .concave .concave
  have aims : u.reliefTarget = target := by
    unfold Part.reliefTarget Part.countsOf Part.cal Part.params
    rw [framedU.store, position]
    rfl
  have opening : u.override.relief = .opening := congrArg (·.relief) overrideU
  obtain ⟨evaluatorW, markW, opensW, positionW, framedW, queueW⟩ := reliefHanded_keeps opening markU first
  obtain ⟨motion, slots, book, override, window, evaluator, framedT⟩ := openingTold_leaves (s := w) entry s.restrainFace
  have framed : Framed .concave b t := (framedU.trans framedW).trans framedT
  have number : w.window.number = n := (framedU.trans framedW).number
  have few : w.bus.queue.length ≤ p.bus.queue.length + 2 := queueW.trans (Nat.succ_le_succ cleared.queue)
  have motionT : t.motionOf .concave = w.motionOf .concave := motionOf_of_motion motion .concave
  have opensT : t.override.relief.opens = true := by rw [override]; exact opensW
  have flies (drives : Drives u w) : t.override = { Override.reset with relief := .opening }
      ∧ (m.move = none → ended t e.last) ∧ (∀ mv, m.move = some mv → ended t (some ⟨.aborted, mv.owner, n⟩)) := by
    have entryT : t.entryOf .concave = u.entryOf .concave := (entryOf_of_book book _).trans (entryOf_drives drives _)
    refine ⟨override.trans ((plug_iff.1 (plug_of_drives drives)).1.trans overrideU), fun still => ?_, fun mv moves => ?_⟩
    · exact entryT.trans (cleared.unmoved still)
    · exact entryT.trans (cleared.ended mv moves)
  have aimed : u.reliefMove.target = some target := congrArg some aims
  have base : u.reliefMove.base = distance target m.position := by rw [reliefMove_base, aims, position]
  have upward (below : m.position < target) : u.reliefMove.direction = some .up := if_pos (by rw [aims, position]; exact below)
  have apart (still : rests ∨ waits) : ¬rolls := by
    intro roll
    have fixed : m.phase = .idle ∨ m.phase = .waiting := still.imp And.left And.left
    have moving : m.phase = .coasting ∨ m.phase = .driving := roll.imp_right And.left
    rcases fixed with phase | phase <;> rcases moving with phase' | phase' <;> exact nomatch phase.symm.trans phase'
  refine ⟨t, exec_confirmTimerExpiry_of_on on q runs state first, framed.now, ?mark, ?position, fun roll => ?rolls,
    fun still away => ?away, fun way => ?flies, fun still there => ?there, ?evaluator, reduction_of_opens opensT, fun room => ?started,
    fun room other => ?sent, framed.entries, framed.store, framed.capture, framed.lines, framed.power.trans on, framed.service,
    framed.number, framed.history⟩
  case mark => rw [window]; exact markW
  case position => rw [motionT]; exact positionW.trans position
  case rolls =>
    obtain ⟨coasting, released, coasts⟩ := abort_in_motion (s := b) roll
    obtain ⟨-, slotsW, motionW⟩ := reliefHanded_of_coasting first coasting
    have motionR := motionT.trans motionW
    refine ⟨⟨{ u.reliefMove with begunCoasting := true }, congrArg (·.move) motionR, rfl, rfl, rfl, aimed, base, rfl, upward,
      iff_of_true rfl roll⟩, (congrArg (·.phase) motionR).trans coasting, fun y held driving => released driving y ?_,
      (congrArg (·.coastEndsAt) motionR).trans coasts⟩
    rw [slots, slotsW] at held
    exact held
  case away =>
    obtain ⟨idle, slotsU, others⟩ := abort_at_rest (s := b) still
    obtain ⟨-, -, serves, i, k, g, e, n, runs⟩ := reliefHanded_of_away first (by rw [idle]; decide) (by rw [aims, position]; exact away)
    refine ⟨⟨{ u.reliefMove with
      stintCount := i, remaining := k, direction := some .up, granted := g, driveEnd := e, driveTime := n },
      (congrArg (·.move) motionT).trans runs, rfl, rfl, rfl, aimed, base, rfl, fun _ => rfl, ?_⟩, ?_⟩
    · exact iff_of_false Bool.false_ne_true (apart still)
    · exact servedOrWaits_of_others serves motionT slotsU fun d ne => (motionOf_modMotion_of_ne u ne _).trans (others d ne)
  case flies =>
    by_cases roll : rolls
    · exact flies (reliefHanded_of_coasting first (abort_in_motion (s := b) roll).1).1
    · have still : rests ∨ waits := found.elim .inl fun other => .inr (other.resolve_right roll)
      have idle := (abort_at_rest (s := b) still).1
      exact flies (reliefHanded_of_away first (by rw [idle]; decide) (by rw [aims, position]; exact way.resolve_left roll)).1
  case there =>
    obtain ⟨idle, -, -⟩ := abort_at_rest (s := b) still
    obtain ⟨motionW, entryW, -, -, overrideW, -, -⟩ :=
      reliefHanded_of_there first (by rw [idle]; decide) (by rw [aims, position]; exact there) opening
    have entryU : ∃ last, u.entryOf .concave = { e with last := last } := by
      cases moves : m.move with
      | none => exact ⟨e.last, cleared.unmoved moves⟩
      | some mv => exact ⟨_, cleared.ended mv moves⟩
    have overrideT := (override.trans overrideW).trans (by rw [overrideU])
    refine ⟨(congrArg (·.phase) motionT).trans (congrArg (·.phase) motionW), (congrArg (·.move) motionT).trans (congrArg (·.move) motionW),
      (entryOf_of_book book _).trans (entryW.trans ?_), congrArg (·.relief) overrideT, (congrArg (·.giveUpAt) overrideT).trans ?_,
      congrArg (·.confirmAt) overrideT, congrArg (·.recoverAt) overrideT⟩
    · obtain ⟨last, entryU⟩ := entryU
      rw [entryU, framedU.number]
      rfl
    · rw [framedU.store, framedU.now]
      rfl
  case evaluator =>
    have same : w.evaluator = p.evaluator := evaluatorW.trans evaluatorU
    rw [same] at evaluator
    exact evaluator
  case started =>
    have told := openingTold_notified (s := w) entry s.restrainFace (by omega)
    rw [number, (framedU.trans framedW).capture] at told
    exact told
  case sent => exact openingTold_sent entry s.restrainFace opensW (face_ne_relief other) (by omega)

end

section
/-! PROOFS. The Drive Arbiter's invariant: every step keeps at most two drive slots held (R127). -/

open Sys2Proof Sys2Proof.Machine

/-- Settles O10: a slot is granted only where one is free, so no quiet edit brings the slots above two, and a start-up leaves none held;
no other change touches them. -/
theorem everyStepKeepsTwoSlots : Obligations.EveryStepKeepsTwoSlots := by
  intro s t law stepped
  have kept : ∀ p r : Part, Change p r → p.slotLaw → r.slotLaw := fun _ _ change held => change.slotLaw held
  exact step_keeps kept law stepped

end

section
/-! PROOFS. The store's invariant: every step keeps its canonical form and a state for each page (R158). -/

open Sys2Proof Sys2Proof.Machine

/-- Settles O7: the store's bytes and page states change only by a page set to the words it reads, which keeps the canonical form and
the number of states, and a start-up judges each of the 18 pages. -/
theorem everyStepKeepsTheStoreInForm : Obligations.EveryStepKeepsTheStoreInForm :=
  fun _ _ law stepped => step_keeps (L := Part.storeLaw) (fun _ _ change => change.storeLaw) law stepped

end

section
/-! PROOFS. The page states (R158): a page judged by its check value, start-up's judgement of all 18 pages, and a page read back. -/

namespace Sys2Proof.Machine

/-! ### A page judged -/

/-- A page is EMPTY exactly where every word reads erased. -/
theorem judgePage_eq_empty_iff (page : Nat) (words : List Word) : judgePage page words = .empty ↔ ∀ w ∈ words, w = 0xFFFF := by
  simp only [judgePage, List.all_eq_true, decide_eq_true_eq]
  split_ifs with erased
  · exact iff_of_true rfl erased
  · exact iff_of_false not_false erased
  · exact iff_of_false not_false erased

/-- A page that is not EMPTY is VALID where its last word is its check value, DAMAGED where it is not. -/
theorem judgePage_of_written {words : List Word} (written : ¬∀ w ∈ words, w = 0xFFFF) (page : Nat) :
    judgePage page words = if words.getD 255 0xFFFF = checkValue page words then .valid else .damaged := by
  have some : ¬(words.all (· = 0xFFFF)) = true := by simpa only [List.all_eq_true, decide_eq_true_eq] using written
  exact if_neg some

theorem judgePage_eq_valid_iff (page : Nat) (words : List Word) : judgePage page words = .valid ↔
    (¬∀ w ∈ words, w = 0xFFFF) ∧ words.getD 255 0xFFFF = checkValue page words := by
  by_cases erased : ∀ w ∈ words, w = 0xFFFF
  · rw [(judgePage_eq_empty_iff page words).2 erased]
    exact iff_of_false PageState.noConfusion fun valid => valid.1 erased
  · rw [judgePage_of_written erased, and_iff_right erased]
    split_ifs with check
    · exact iff_of_true rfl check
    · exact iff_of_false not_false check

/-- The sum that a page's check value takes, as a sum. -/
theorem checkValue_eq (page : Nat) (words : List Word) : checkValue page words =
    BitVec.ofNat 16 ((((if page = 0 then words.set lockWordIndex 0xFFFF else words).take 255).map (·.toNat)).sum + 0x5A5A) := by
  unfold checkValue summedWords
  rw [List.sum_eq_foldl, List.foldl_map]
  rfl

/-- The lock word enters no sum. -/
theorem checkValue_set_lockWord (words : List Word) (w : Word) : checkValue 0 (words.set lockWordIndex w) = checkValue 0 words := by
  unfold checkValue summedWords
  rw [if_pos rfl, if_pos rfl, List.set_set]

/-- A VALID page 0 stays VALID with another lock word (R162). -/
theorem judgePage_set_lockWord {words : List Word} (valid : judgePage 0 words = .valid) {w : Word} (mark : w ≠ 0xFFFF)
    (long : words.length = 256) : judgePage 0 (words.set lockWordIndex w) = .valid := by
  obtain ⟨-, check⟩ := (judgePage_eq_valid_iff 0 words).1 valid
  refine (judgePage_eq_valid_iff 0 _).2 ⟨fun erased => mark (erased w ?_), ?_⟩
  · exact List.mem_set (by rw [long]; decide) w
  · rw [checkValue_set_lockWord, ← check]
    simp [lockWordIndex]

/-! ### The states of the pages -/

/-- The state of a page that start-up judges. -/
theorem judge_getD (m : Memory) {page : Nat} (below : page < 18) (missing : PageState) :
    m.judge.getD page missing = judgePage page (m.page page) := by
  simp [Memory.judge, pageCount, below]

theorem startState_pageState (s : Part) (causes : ResetCauses) {page : Nat} (below : page < 18) :
    (s.startState causes).pageState page = judgePage page (s.store.memory.page page) := judge_getD _ below _

/-- A page read back has the state of what it reads. -/
theorem pageState_readBack (s : Part) {page : Nat} (words : List Word) (below : page < s.store.pageStates.length) :
    (s.readBack page words).pageState page = judgePage page words := by
  simp [Part.readBack, Part.pageState, below]

end Sys2Proof.Machine

open Sys2Proof Sys2Proof.Machine

/-- Settles O46: EMPTY by its words, VALID or DAMAGED by the check value, which the lock word does not enter. -/
theorem pageStatesAreJudgedByTheCheckValue : Obligations.PageStatesAreJudgedByTheCheckValue := by
  refine ⟨fun page words long => ?judged, fun words w long mark valid => judgePage_set_lockWord valid mark long, ?erased,
    fun s causes page below => startState_pageState s causes below, fun s page words below => pageState_readBack s words below⟩
  case judged =>
    intro summed check
    have last : words.getD 255 0 = words.getD 255 0xFFFF := by simp [List.getD_eq_getElem?_getD, long]
    have checks : checkValue page words = check := checkValue_eq page words
    rw [last]
    refine ⟨(judgePage_eq_empty_iff page words).2, fun written holds => ?_, fun written fails => ?_⟩
    · rw [judgePage_of_written written, checks, if_pos holds]
    · rw [judgePage_of_written written, checks, if_neg fails]
  case erased => decide +kernel

end

section
/-! PROOFS. PRESET_REQUEST: the checks of R160 one after another, and the requests that begin a store operation (R159 to R162). -/

namespace Sys2Proof.Machine

/-! ### The checks of R160 -/

section

variable {s : Part} {o : PresetOp} {slot : Nat} {cal : Bool}

theorem checkPreset_of_shutdown (closing : s.shutdown.isSome = true) (o : Option PresetOp) (slot : Nat) (cal : Bool) :
    s.checkPreset o slot cal = some .shuttingDown := if_pos closing

theorem checkPreset_of_beyond (runs : s.shutdown = none) (names : o.namesSlot = true) (beyond : 15 < slot) :
    s.checkPreset (some o) slot cal = some .inconsistent := by
  simp [Part.checkPreset, runs, names, beyond]

/-- A LOAD of one of the 16 slots. -/
theorem checkPreset_load (runs : s.shutdown = none) (fits : slot ≤ 15) : s.checkPreset (some .load) slot cal =
    if s.store.op.isSome = true then some .busy
    else if s.pageState (slot + 2) ≠ .valid then some .emptySlot
    else if (readPreset (s.store.memory.page (slot + 2))).isNone = true then some .inconsistent else none := by
  by_cases valid : s.pageState (slot + 2) = .valid <;>
    simp [Part.checkPreset, runs, PresetOp.namesSlot, PresetOp.onCalibration, PresetOp.writes, Nat.not_lt.2 fits, slotPage,
      Part.slotPreset, valid]

theorem checkPreset_inhibit (runs : s.shutdown = none) : s.checkPreset (some .inhibit) slot cal = none := by
  simp [Part.checkPreset, runs, PresetOp.namesSlot, PresetOp.onCalibration, PresetOp.writes]

/-- A request that writes or erases pages other than page 0. -/
theorem checkPreset_of_aside (runs : s.shutdown = none) (fits : o.namesSlot = true → slot ≤ 15) (writes : o.writes = true)
    (aside : o.onCalibration cal = false) : s.checkPreset (some o) slot cal =
      if s.store.inhibit = true then some .inhibited else if s.store.op.isSome = true then some .busy else none := by
  have named : (o.namesSlot && decide (15 < slot)) = false := by
    rw [Bool.and_eq_false_imp]
    exact fun names => decide_eq_false (Nat.not_lt.2 (fits names))
  have others : o ≠ .lockCal ∧ o ≠ .inhibit ∧ o ≠ .load := by
    refine ⟨?_, ?_, ?_⟩ <;> rintro rfl
    · exact Bool.noConfusion aside
    · exact Bool.noConfusion writes
    · exact Bool.noConfusion writes
  simp [Part.checkPreset, runs, named, writes, aside, others]

/-- A request that writes or erases page 0. -/
theorem checkPreset_of_calibration (runs : s.shutdown = none) (on : o.onCalibration cal = true) : s.checkPreset (some o) slot cal =
    if s.service = false then some .notPermitted
    else if s.store.inhibit = true then some .inhibited
    else if s.store.lockMark = true then some .locked
    else if o = .lockCal ∧ s.pageState 0 ≠ .valid then some .inconsistent
    else if s.store.op.isSome = true then some .busy else none := by
  have kind : o.namesSlot = false ∧ o.writes = true ∧ o ≠ .inhibit ∧ o ≠ .load := by
    cases o <;> simp_all [PresetOp.onCalibration, PresetOp.namesSlot, PresetOp.writes]
  simp [Part.checkPreset, runs, on, kind]

end

/-! ### The requests received -/

theorem reply_preset (s : Part) (source tag : Byte) (r : Result) :
    s.reply ⟨source, kindPreset, tag, 0xFF⟩ r 0 = s.answered source 0x03 tag r 0xFF 0 := by
  have code : kindLow kindPreset = 0x03 := by decide
  unfold Part.reply
  dsimp only
  rw [code]
  rfl

theorem exec_presetCommand_of_on {p : Part} (on : p.power = .on) (q : List Instr) (o : PresetOp) (dt : Nat) (h : FrameHeader)
    (f : PresetFields) : exec (presetCommand o dt h f) ⟨p, q⟩ = .next ⟨(p.later dt).onPreset h f (some o), q⟩ := by
  cases o <;> exact congrArg (fun t => Host.Outcome.next (State.mk t q)) (Part.onEvent_of_on on dt _)

/-- 10.1 lets a source send a PRESET_REQUEST of an operation. -/
def maySend (source : Byte) (o : PresetOp) : Prop := source = serviceAddress ∨ (source = cabAddress ∧ o.forCab = true)

/-- What of a PRESET_REQUEST the effect of its operation reads. -/
def Part.presetApplied (s : Part) (o : PresetOp) (f : PresetFields) : Part :=
  s.applyPreset o f.slot.toNat (f.includeCalibration ≠ 0)

section

variable {p : Part} {h : FrameHeader} {source : Byte} {f : PresetFields} {o : PresetOp} (q : List Instr) (dt : Nat)

theorem presetLayout_asked (long : 4 ≤ h.length) (f : PresetFields) :
    presetLayout.asked h f.tag 0xFF = ⟨h.source, kindPreset, f.tag, 0xFF⟩ :=
  congrArg (Asked.mk h.source kindPreset · 0xFF) (if_pos long)

/-- The Cab Terminal may not ask for an operation that 10.1 keeps from it. -/
theorem exec_presetCommand_barred (received : p.receives h cabAddress 4) (bars : o.forCab = false) :
    exec (presetCommand o dt h f) ⟨p, q⟩ = .next ⟨(p.later dt).answered cabAddress 0x03 f.tag .notPermitted 0xFF 0, q⟩ := by
  obtain ⟨on, silent, destination, source, self, long⟩ := received
  have heard : (p.later dt).hearsFrame h := ⟨silent, destination, source ▸ self⟩
  have refused : serves h 1 o.forCab = false := by
    have : ¬h.length = 0 := by omega
    simp [serves, source, bars, this, serviceAddress, cabAddress]
  rw [exec_presetCommand_of_on on]
  unfold Part.onPreset
  dsimp only
  rw [refused, Part.judgeRequest_notPermitted heard, presetLayout_asked long, source, reply_preset]

/-- A PRESET_REQUEST heard with its bytes from a source that may send it: refused by its first failing check, or taken. -/
theorem onPreset_of_received (allowed : maySend source o) (received : p.receives h source 4) :
    p.onPreset h f (some o) = match p.checkPreset (some o) f.slot.toNat (f.includeCalibration ≠ 0) with
      | some r => p.answered source 0x03 f.tag r 0xFF 0
      | none => (p.answered source 0x03 f.tag .accepted 0xFF 0).presetApplied o f := by
  obtain ⟨-, silent, destination, rfl, self, long⟩ := received
  have permitted : serves h 1 o.forCab = true := by
    rcases allowed with tool | ⟨cab, may⟩
    · simp [serves, tool]
    · simp [serves, cab, may]
  unfold Part.onPreset
  dsimp only
  rw [permitted, Part.judgeRequest_handed ⟨silent, destination, self⟩ long, presetLayout_asked long]
  simp only [reply_preset]
  split <;> simp_all [Part.presetApplied]

theorem exec_presetCommand_refused (allowed : maySend source o) (received : p.receives h source 4) {r : Result}
    (refused : (p.later dt).checkPreset (some o) f.slot.toNat (f.includeCalibration ≠ 0) = some r) :
    exec (presetCommand o dt h f) ⟨p, q⟩ = .next ⟨(p.later dt).answered source 0x03 f.tag r 0xFF 0, q⟩ := by
  rw [exec_presetCommand_of_on received.1, onPreset_of_received (p := p.later dt) allowed received, refused]

theorem exec_presetCommand_accepted (allowed : maySend source o) (received : p.receives h source 4)
    (passes : (p.later dt).checkPreset (some o) f.slot.toNat (f.includeCalibration ≠ 0) = none) :
    exec (presetCommand o dt h f) ⟨p, q⟩ =
      .next ⟨((p.later dt).answered source 0x03 f.tag .accepted 0xFF 0).presetApplied o f, q⟩ := by
  rw [exec_presetCommand_of_on received.1, onPreset_of_received (p := p.later dt) allowed received, passes]

end

end Sys2Proof.Machine

open Sys2Proof Sys2Proof.Machine

/-- Settles O48: each request passes its checks, and its effect is the operation begun. -/
theorem storeRequestsBeginTheirOperations : Obligations.StoreRequestsBeginTheirOperations := by
  intro p q dt h source f now begun free
  refine ⟨fun sends ready fits => ?slots, fun tool ready without => ?wipe, fun tool ready service unlocked => ?calibration⟩
  all_goals obtain ⟨received, runs, uninhibited, idle⟩ := ready
  case slots =>
    have may {o : PresetOp} (cab : o.forCab = true) : maySend source o := sends.elim (fun cab' => .inr ⟨cab', cab⟩) .inl
    have passes {o : PresetOp} (writes : o.writes = true) (aside : ∀ cal, o.onCalibration cal = false) :
        (p.later dt).checkPreset (some o) f.slot.toNat (f.includeCalibration ≠ 0) = none := by
      rw [checkPreset_of_aside (s := p.later dt) runs (fun _ => fits) writes (aside _)]
      simp [uninhibited, idle]
    exact ⟨exec_presetCommand_accepted q dt (may rfl) received (passes rfl fun _ => rfl),
      exec_presetCommand_accepted q dt (may rfl) received (passes rfl fun _ => rfl)⟩
  case wipe =>
    have aside : PresetOp.wipe.onCalibration (f.includeCalibration ≠ 0) = false :=
      decide_eq_false (not_not.2 without)
    have passes : (p.later dt).checkPreset (some .wipe) f.slot.toNat (f.includeCalibration ≠ 0) = none := by
      rw [checkPreset_of_aside (s := p.later dt) runs (fun names => Bool.noConfusion names) rfl aside]
      simp [uninhibited, idle]
    refine (exec_presetCommand_accepted q dt (.inl tool) received passes).trans ?_
    unfold Part.presetApplied
    rw [show decide (f.includeCalibration ≠ 0) = false from aside]
    rfl
  case calibration =>
    have passes {o : PresetOp} (on : o.onCalibration (f.includeCalibration ≠ 0) = true)
        (locks : ¬(o = .lockCal ∧ p.pageState 0 ≠ .valid)) :
        (p.later dt).checkPreset (some o) f.slot.toNat (f.includeCalibration ≠ 0) = none := by
      have locks' : ¬(o = .lockCal ∧ (p.later dt).pageState 0 ≠ .valid) := locks
      rw [checkPreset_of_calibration (s := p.later dt) runs on, if_neg (by simp [service]), if_neg (by simp [uninhibited]),
        if_neg (by simp [unlocked]), if_neg locks', if_neg (by simp [idle])]
    refine ⟨fun included => ?_, ?_, fun valid => ?_⟩
    · have on : PresetOp.wipe.onCalibration (f.includeCalibration ≠ 0) = true := decide_eq_true included
      refine (exec_presetCommand_accepted q dt (.inl tool) received (passes on (by simp))).trans ?_
      unfold Part.presetApplied
      rw [show decide (f.includeCalibration ≠ 0) = true from on]
      rfl
    · exact exec_presetCommand_accepted q dt (.inl tool) received (passes rfl (by simp))
    · exact exec_presetCommand_accepted q dt (.inl tool) received (passes rfl (by simp [valid]))

end

section
/-! PROOFS. The inhibit latch (R160): no command but one that restarts the part clears it. -/

namespace Sys2Proof.Machine

/-- The inhibit latch, where it is set, is set still. -/
def HoldsLatch (s t : Part) : Prop := s.store.inhibit = true → t.store.inhibit = true

namespace HoldsLatch

variable {s0 s t : Part}

theorem refl (s : Part) : HoldsLatch s s := id

theorem other (h : HoldsLatch s0 s) (same : t.store.inhibit = s.store.inhibit) : HoldsLatch s0 t := fun set => same.trans (h set)

/-- A quiet operation leaves the latch as it was. -/
theorem quiet (h : HoldsLatch s0 s) (q : Quiet s t) : HoldsLatch s0 t := h.other (congrArg (·.store.inhibit) q.still_eq)

theorem foldl {α : Type} (h : HoldsLatch s0 s) (l : List α) (f : Part → α → Part)
    (hf : ∀ t a, HoldsLatch s0 t → HoldsLatch s0 (f t a)) : HoldsLatch s0 (l.foldl f s) := by
  induction l generalizing s with
  | nil => exact h
  | cons a rest ih => exact ih (hf s a h)

/-! ### When a command is taken -/

theorem onEvent (h : HoldsLatch s0 s) (dt : Nat) {f : Part → Part} (hf : ∀ t, HoldsLatch t (f t)) : HoldsLatch s0 (s.onEvent dt f) := by
  unfold Part.onEvent
  extract_lets t
  have ht : HoldsLatch s0 t := h
  split
  · exact hf t ∘ ht
  · exact ht

theorem onExpiry (h : HoldsLatch s0 s) (d : Option Nat) {f : Part → Part} (hf : ∀ t, HoldsLatch t (f t)) :
    HoldsLatch s0 (s.onExpiry d f) := by
  unfold Part.onExpiry
  split
  · split
    · exact hf _ ∘ h
    · exact h
  · exact h

/-! ### Windows (R12, R165) -/

theorem applyParameters (h : HoldsLatch s0 s) (o : Order) (n : Nat) : HoldsLatch s0 (s.applyParameters o n) := by
  rcases applyParameters_quiet s o n with same | q
  · rw [same]
    exact h
  · exact quiet (s := s.copySets) h q

theorem closeWindow (h : HoldsLatch s0 s) (cause : CloseCause) (o : Order) : HoldsLatch s0 (s.closeWindow cause o) := by
  unfold Part.closeWindow
  extract_lets l t
  have ht : HoldsLatch s0 t := h
  split
  · have runs : HoldsLatch s0 (t.raiseRuns l) := ht.quiet (Quiet.raiseRuns .refl l)
    have advanced : HoldsLatch s0 ((t.raiseRuns l).advanceRuns l (t.recordOf l)) := runs
    have recorded : HoldsLatch s0 (t.recorded o l (t.recordOf l)) := by
      refine (advanced.applyParameters o (nextWindowNumber (t.recordOf l).number)).other ?_
      simp [Part.recorded]
    rw [closeWithRecord_eq]
    exact recorded.quiet (Quiet.react .refl o _)
  · rw [closeDiscarded_eq]
    have kept : HoldsLatch s0 (t.unrecorded o) := (ht.applyParameters o _).quiet (unrecorded_quiet t o)
    exact kept

theorem separatorTask (h : HoldsLatch s0 s) (o : Order) (marks : Bool) (k : Task) : HoldsLatch s0 (s.separatorTask o marks k) := by
  unfold Part.separatorTask
  split
  · exact h.closeWindow _ o
  · exact h.quiet (Quiet.judgeHarvesting .refl _)
  · split
    · exact h.quiet (Quiet.bookEngage .refl o)
    · exact h.quiet (Quiet.bookDisengage .refl o)
  · split
    · exact h.quiet (Quiet.judgeRelief .refl)
    · exact h.quiet (Quiet.overrideDisengage .refl o)
  all_goals exact h

theorem changeSeparator (h : HoldsLatch s0 s) (engaged : Bool) (o : Order) : HoldsLatch s0 (s.changeSeparator engaged o) :=
  foldl (s := ({ s with capture := { s.capture with engaged := engaged, sepQualifyAt := none } } : Part).setGate) h _ _
    fun _ k ht => ht.separatorTask o _ k

/-! ### Speed edges (R3 to R5) -/

theorem closePeriod (h : HoldsLatch s0 s) (v : SpeedChannel) (period : Nat) : HoldsLatch s0 (s.closePeriod v period) := by
  unfold Part.closePeriod
  extract_lets rpm t u w
  have hw : HoldsLatch s0 w := quiet (s := u) h (Quiet.judgeDrive .refl v)
  split
  · exact hw.quiet (Quiet.judgeDrumPeriod .refl _)
  · exact hw

theorem qualifyingEdge (h : HoldsLatch s0 s) (v : SpeedChannel) : HoldsLatch s0 (s.qualifyingEdge v) := by
  unfold Part.qualifyingEdge
  extract_lets period t u
  have ht : HoldsLatch s0 t := h
  have hu : HoldsLatch s0 u := by
    show HoldsLatch s0 (match (s.capture.speed.get v).closedPeriod s.now with
      | some k => t.closePeriod v k
      | none => t)
    split
    · exact ht.closePeriod v _
    · exact ht
  split
  · exact hu.quiet (Quiet.startWatch .refl)
  · exact hu

/-! ### The store's operations (R159, R167) -/

theorem completeOp (h : HoldsLatch s0 s) (kind : StoreKind) (r : ReadBack) {after : Part → Bool → Part}
    (ha : ∀ t good, HoldsLatch t (after t good)) : HoldsLatch s0 (s.completeOp kind r after) := by
  unfold Part.completeOp
  split
  · split
    · refine h.onExpiry _ fun t => ?_
      extract_lets page u good store w
      have done : HoldsLatch t (w.storeDone kind page good) := quiet (s := w) (refl t) (Quiet.raise .refl _ _ _ _)
      exact ha _ _ ∘ done
    · exact h
  · exact h

theorem completeWipe (h : HoldsLatch s0 s) (r : List (Nat × List Word)) : HoldsLatch s0 (s.completeWipe r) := by
  unfold Part.completeWipe
  split
  · split
    · refine h.onExpiry _ fun t => ?_
      extract_lets u good
      have read : HoldsLatch t u := foldl (refl t) _ _ fun _ _ ht => ht
      exact quiet (s := { u with store := { u.store with op := none } }) read (Quiet.raise .refl _ _ _ _)
    · exact h
  · exact h

theorem dropOp (h : HoldsLatch s0 s) : HoldsLatch s0 s.dropOp := by
  unfold Part.dropOp
  split <;> exact h

theorem startPositionWrite (h : HoldsLatch s0 s) : HoldsLatch s0 s.startPositionWrite := by
  unfold Part.startPositionWrite
  split <;> exact h

theorem enterShutdown (h : HoldsLatch s0 s) (kind : ShutdownKind) (o : Order) : HoldsLatch s0 (s.enterShutdown kind o) :=
  quiet (s := s.shutdownBegun kind) h (enterShutdown_quiet s kind o)

theorem keyDown (h : HoldsLatch s0 s) (o : Order) : HoldsLatch s0 (s.keyDown o) := by
  unfold Part.keyDown
  split
  · exact h.enterShutdown _ _
  all_goals exact h

/-! ### Requests -/

theorem reply (h : HoldsLatch s0 s) (a : Asked) (r : Result) (v : Word) : HoldsLatch s0 (s.reply a r v) := h

theorem judgeRequest (h : HoldsLatch s0 s) (l : Layout) (hd : FrameHeader) (permitted : Bool) (a : Asked) {owner : Part → Part}
    (ho : HoldsLatch s0 (owner s)) : HoldsLatch s0 (s.judgeRequest l hd permitted a owner) := by
  unfold Part.judgeRequest
  split_ifs
  · exact h
  · exact h.reply _ _ _
  · exact h.reply _ _ _
  · exact ho

theorem onService (h : HoldsLatch s0 s) (hd : FrameHeader) (tag : Byte) (cabMay : Bool) {f : Part → Asked → Part}
    (hf : ∀ a, HoldsLatch s0 (f s a)) : HoldsLatch s0 (s.onService hd tag cabMay f) := by
  refine h.judgeRequest _ _ _ _ ?_
  split
  · exact h.reply _ _ _
  · exact hf _

/-- Of the PRESET_REQUESTs INHIBIT alone writes the latch, and sets it. -/
theorem applyPreset (h : HoldsLatch s0 s) (op : PresetOp) (slot : Nat) (cal : Bool) : HoldsLatch s0 (s.applyPreset op slot cal) := by
  unfold Part.applyPreset
  split
  case h_6 => exact fun _ => rfl
  case h_1 => split <;> exact h
  all_goals exact h

theorem onPreset (h : HoldsLatch s0 s) (hd : FrameHeader) (f : PresetFields) (op : Option PresetOp) :
    HoldsLatch s0 (s.onPreset hd f op) := by
  refine h.judgeRequest _ _ _ _ ?_
  split
  · exact h.reply _ _ _
  · exact (h.reply _ _ _).applyPreset _ _ _
  · exact h

theorem writeParam (h : HoldsLatch s0 s) (value : Word) (k : Param) (a : Asked) : HoldsLatch s0 (s.writeParam value k a) := by
  unfold Part.writeParam
  split_ifs
  · exact h.reply _ _ _
  · exact h.reply _ _ _
  · extract_lets v
    split
    · exact h.reply _ _ _
    · rename_i t written
      have ht : HoldsLatch s0 t := by
        unfold Part.writePending at written
        split at written
        all_goals
          obtain ⟨set, -, rfl⟩ := Option.map_eq_some_iff.1 written
          exact h
      exact ht.quiet (Quiet.replyAccepted .refl _ _ _ _)

theorem onParam (h : HoldsLatch s0 s) (hd : FrameHeader) (f : ParamFields) (op : Option (Part → Param → Asked → Part))
    (ho : ∀ g ∈ op, ∀ k a, HoldsLatch s0 (g s k a)) : HoldsLatch s0 (s.onParam hd f op) := by
  refine h.judgeRequest _ _ _ _ ?_
  split
  · exact h.reply _ _ _
  · split
    · exact ho _ rfl _ _
    all_goals exact h.reply _ _ _

end HoldsLatch

/-! ### Every command -/

/-- A command that does not restart the part (R167 to R170). -/
def RunsOn (c : Instr) : Prop :=
  (∀ dt, c ≠ .powerOn dt ∧ c ≠ .keyReturns dt ∧ c ≠ .supplyDip dt) ∧ (∀ back, c ≠ .positionWriteCompletes back)
    ∧ c ≠ .deadlineTimerExpiry

theorem exec_holdsLatch {c : Instr} (on : RunsOn c) (p : Part) (q : List Instr) :
    ∃ t : Part, exec c ⟨p, q⟩ = .next ⟨t, q⟩ ∧ HoldsLatch p t := by
  obtain ⟨noRestart, noWrite, noDeadline⟩ := on
  have start := HoldsLatch.refl p
  /- An event, and an expiry, whose effect is quiet. -/
  have event (dt : Nat) {f : Part → Part} (hf : ∀ u, Quiet u (f u)) : HoldsLatch p (p.onEvent dt f) :=
    start.onEvent dt fun u => (HoldsLatch.refl u).quiet (hf u)
  have expiry (d : Option Nat) {f : Part → Part} (hf : ∀ u, Quiet u (f u)) : HoldsLatch p (p.onExpiry d f) :=
    start.onExpiry d fun u => (HoldsLatch.refl u).quiet (hf u)
  cases c with
  | powerOn dt | keyReturns dt | supplyDip dt =>
    obtain ⟨power, key, dip⟩ := noRestart dt
    contradiction
  | positionWriteCompletes back => exact absurd rfl (noWrite back)
  | deadlineTimerExpiry => exact absurd rfl noDeadline
  | lossEdge dt _ | pwmEdge dt _ _ => exact ⟨_, rfl, start.onEvent dt HoldsLatch.refl⟩
  | speedEdge dt v e =>
    refine ⟨_, rfl, start.onEvent dt fun u => ?_⟩
    split
    · exact (HoldsLatch.refl u).qualifyingEdge v
    · exact HoldsLatch.refl u
  | tailChange dt active =>
    exact ⟨_, rfl, HoldsLatch.onEvent (s := { p with lines := { p.lines with tail := active } }) start dt HoldsLatch.refl⟩
  | sepLevelChange dt level =>
    refine ⟨_, rfl, ?_⟩
    dsimp only
    split
    · exact start.onEvent dt HoldsLatch.refl
    · exact HoldsLatch.onEvent (s := { p with lines := { p.lines with sep := level } }) start dt HoldsLatch.refl
  | sepQualifyExpiry o => exact ⟨_, rfl, start.onExpiry _ fun u => (HoldsLatch.refl u).changeSeparator _ o⟩
  | feedbackPulse dt x => exact ⟨_, rfl, event dt fun u => (Quiet.pulse .refl _).take _⟩
  | keyFalls dt o =>
    exact ⟨_, rfl, HoldsLatch.onEvent (s := { p with lines := { p.lines with key := false } }) start dt
      fun u => (HoldsLatch.refl u).keyDown o⟩
  | windowTimerExpiry o => exact ⟨_, rfl, start.onExpiry _ fun u => (HoldsLatch.refl u).closeWindow _ o⟩
  | holdTimerExpiry c => exact ⟨_, rfl, start.onExpiry _ HoldsLatch.refl⟩
  | jogRefreshExpiry c =>
    refine ⟨_, rfl, expiry _ fun u => Quiet.endJogs ?_ c⟩
    exact Quiet.other .refl rfl rfl
  | groundSpeedFreshnessExpiry o => exact ⟨_, rfl, expiry _ fun u => Quiet.loseSpeed .refl o⟩
  | coastTimerExpiry x first => exact ⟨_, rfl, expiry _ fun u => ((Quiet.coastEnds .refl x).preemptUnless _ _).take _⟩
  | settleTimerExpiry v => exact ⟨_, rfl, expiry _ fun u => (Quiet.settleEnds .refl v).take _⟩
  | stallTimerExpiry x => exact ⟨_, rfl, expiry _ fun u => Quiet.endDrive .refl _ _⟩
  | maximumDriveTimeExpiry v => exact ⟨_, rfl, expiry _ fun u => (Quiet.modMotion .refl _ _).endDrive _ _⟩
  | drumWatchTimerExpiry => exact ⟨_, rfl, expiry _ fun u => (Quiet.startWatch .refl).slowPeriod⟩
  | confirmTimerExpiry first => exact ⟨_, rfl, expiry _ fun u => Quiet.confirmPlug .refl first⟩
  | recoverTimerExpiry => exact ⟨_, rfl, expiry _ fun u => Quiet.enterReturning .refl⟩
  | giveUpTimerExpiry => exact ⟨_, rfl, expiry _ fun u => Quiet.giveUp .refl⟩
  | positionWriteStart => exact ⟨_, rfl, start.onEvent 0 fun u => (HoldsLatch.refl u).startPositionWrite⟩
  | saveCompletes r | eraseCompletes r | positionEraseCompletes r =>
    exact ⟨_, rfl, start.completeOp _ r fun u _ => HoldsLatch.refl u⟩
  | saveCalCompletes r | lockCalCompletes r =>
    refine ⟨_, rfl, start.completeOp _ r fun u good => ?_⟩
    cases good <;> exact HoldsLatch.refl u
  | wipeCompletes r => exact ⟨_, rfl, start.completeWipe r⟩
  | set dt h f => exact ⟨_, rfl, event dt fun u => Quiet.onSetting .refl h f _ _ fun _ _ _ => Quiet.placeSet .refl _ _ _ _⟩
  | jogStart dt h f =>
    exact ⟨_, rfl, event dt fun u => Quiet.onSetting .refl h f _ _ fun _ _ _ => Quiet.placeJog .refl _ _ _ _⟩
  | jogStop dt h f =>
    exact ⟨_, rfl, event dt fun u => Quiet.onSetting .refl h f _ _ fun _ _ _ => Quiet.placeJogStop .refl _ _ _ _⟩
  | home dt h f => exact ⟨_, rfl, event dt fun u => Quiet.onSetting .refl h f _ _ fun _ _ _ => Quiet.placeHome .refl _ _ _ _⟩
  | shake dt h f =>
    exact ⟨_, rfl, event dt fun u => Quiet.onSetting .refl h f _ _ fun _ _ _ => Quiet.placeShake .refl _ _ _ _⟩
  | auto dt h f | manual dt h f | releaseHold dt h f => exact ⟨_, rfl, event dt fun u => Quiet.onMode .refl h f _⟩
  | load dt h f | save dt h f | erase dt h f | wipe dt h f | lockCal dt h f | inhibit dt h f | saveCal dt h f =>
    exact ⟨_, rfl, start.onEvent dt fun u => (HoldsLatch.refl u).onPreset h f _⟩
  | paramRead dt h f =>
    refine ⟨_, rfl, start.onEvent dt fun u => (HoldsLatch.refl u).onParam h f _ fun g is k a => ?_⟩
    cases is
    exact (HoldsLatch.refl u).reply _ _ _
  | paramWrite dt h f =>
    refine ⟨_, rfl, start.onEvent dt fun u => (HoldsLatch.refl u).onParam h f _ fun g is k a => ?_⟩
    cases is
    exact (HoldsLatch.refl u).writeParam _ k a
  | enter dt h tag o =>
    refine ⟨_, rfl, start.onEvent dt fun u => (HoldsLatch.refl u).onService h tag _ fun a => ?_⟩
    dsimp only
    split_ifs
    · exact (HoldsLatch.refl u).reply _ _ _
    · exact ((HoldsLatch.refl u).reply _ _ _).quiet (Quiet.enterService .refl o)
    · exact (HoldsLatch.refl u).reply _ _ _
  | leave dt h tag =>
    refine ⟨_, rfl, start.onEvent dt fun u => (HoldsLatch.refl u).onService h tag _ fun a => ?_⟩
    have answered : HoldsLatch u (u.reply a .accepted 0) := (HoldsLatch.refl u).reply _ _ _
    dsimp only
    split_ifs <;> exact answered
  | restart dt h tag o =>
    exact ⟨_, rfl, start.onEvent dt fun u => (HoldsLatch.refl u).onService h tag _ fun a =>
      ((HoldsLatch.refl u).reply _ _ _).enterShutdown _ o⟩
  | clearCauses dt h tag =>
    exact ⟨_, rfl, start.onEvent dt fun u => (HoldsLatch.refl u).onService h tag _ fun a => (HoldsLatch.refl u).reply _ _ _⟩
  | windowRestart dt h tag o =>
    exact ⟨_, rfl, start.onEvent dt fun u => (HoldsLatch.refl u).onService h tag _ fun a =>
      ((HoldsLatch.refl u).reply _ _ _).closeWindow _ o⟩
  | bookQuery dt h =>
    refine ⟨_, rfl, event dt fun u => Quiet.judgeRequest .refl _ _ _ _ _ ?_⟩
    split
    · exact Quiet.reply .refl _ _ _
    · exact Quiet.sendBook .refl
  | motionStatus dt h speed o =>
    exact ⟨_, rfl, event dt fun u => Quiet.judgeStatus .refl h _ _ _ (Quiet.takeSpeed .refl o _)⟩
  | qualityReport dt h _ _ _ => exact ⟨_, rfl, event dt fun u => Quiet.judgeStatus .refl h _ _ _ (Quiet.takeReport .refl _ _ _)⟩
  | unknownKindFrame dt h kind =>
    refine ⟨_, rfl, start.onEvent dt fun u => ?_⟩
    split_ifs <;> exact HoldsLatch.refl u
  | frameTransmitted dt =>
    refine ⟨_, rfl, start.onEvent dt fun u => ?_⟩
    split_ifs <;> exact HoldsLatch.refl u
  | transmissionFailure dt | busOff dt => exact ⟨_, rfl, start.onEvent dt HoldsLatch.refl⟩
  | busOffSilenceExpiry => exact ⟨_, rfl, start.onExpiry _ HoldsLatch.refl⟩
  | powerLoss dt => exact ⟨_, rfl, HoldsLatch.dropOp (s := p.later dt) start⟩
  | unknownOperation dt h request =>
    refine ⟨_, rfl, start.onEvent dt fun u => ?_⟩
    have here := HoldsLatch.refl u
    cases request with
    | setting _ f => exact here.quiet (Quiet.onSetting .refl h f _ _ fun _ _ _ => .refl)
    | mode _ f => exact here.quiet (Quiet.onMode .refl h f _)
    | preset _ f => exact here.onPreset h f none
    | param _ f => exact here.onParam h f none fun g is => absurd is (by simp)
    | service _ tag => exact here.onService h tag _ fun a => here.reply _ _ _

end Sys2Proof.Machine

end

section
/-! PROOFS. Start-up (R101, R114, R167, R169, R170): the part as it leaves it, with the notices that it raises and the key-off shutdown
that it enters where KEY is low; the part at reset. -/

namespace Sys2Proof.Machine

/-! ### A shutdown entered by a part at rest -/

section

variable {s : Part} (rests : ∀ c, (s.entryOf c).requests = [] ∧ (s.motionOf c).move = none)

include rests

/-- With nothing listed and nothing moving there is nothing to discard and nothing to abort. -/
theorem movesAborted_of_resting (kind : ShutdownKind) (o : Order) : s.movesAborted kind o = s.shutdownBegun kind := by
  have listed : s.listsDropped kind o = s.shutdownBegun kind :=
    foldl_keeps (L := fun t => t = s.shutdownBegun kind)
      (fun t d same => by subst same; exact discardEntries_of_nil (s := s.shutdownBegun kind) (rests d).1 _ _) _ rfl
  have still (c : Channel) : (s.shutdownBegun kind).abort c .aborted = s.shutdownBegun kind := by
    have none : ((s.shutdownBegun kind).motionOf c).move = .none := (rests c).2
    simp only [Part.abort, none]
  exact foldl_keeps (L := fun t => t = s.shutdownBegun kind) (fun t d same => by subst same; exact still d) _ listed

theorem enterShutdown_of_resting (disarmed : s.override = Override.reset) (kind : ShutdownKind) (o : Order) :
    s.enterShutdown kind o = s.shutdownBegun kind := by
  rw [enterShutdown_eq, movesAborted_of_resting rests]
  have relief : (s.shutdownBegun kind).override = Override.reset := disarmed
  unfold Part.disarm
  simp only [relief]
  rw [if_neg (by decide)]
  exact congrArg (fun o => { s.shutdownBegun kind with override := o }) disarmed.symm

end

/-! ### The notices of start-up -/

/-- An event raised into a queue that is not full. -/
theorem raise_of_room {s : Part} (room : s.bus.queue.length < 24) (e : Event) (c : Option Channel) (d8 d16 : Nat) :
    s.raise e c d8 d16 = { s with bus := { s.bus with
      queue := s.bus.queue ++ [⟨s.cal.nodeAddress, .event e c d8 d16 s.bus.overrun (s.window.number % 65536)⟩]
      overrun := false } } := by
  have room' : s.bus.queue.length < queueCapacity := room
  simp [Part.raise, Part.raiseIn, Bus.admits, Bus.push, room']

/-- An event raised for one channel after another, into a queue with room for all. -/
theorem raise_channels (e : Event) (d8 d16 : Nat) (l : List Channel) : ∀ {s : Part}, s.bus.queue.length + l.length ≤ 24 →
    s.bus.overrun = false → l.foldl (fun s c => s.raise e (some c) d8 d16) s = { s with bus := { s.bus with
      queue := s.bus.queue
        ++ l.map fun c => ⟨s.cal.nodeAddress, .event e (some c) d8 d16 false (s.window.number % 65536)⟩ } } := by
  induction l with
  | nil => exact fun _ _ => by simp
  | cons c rest ih =>
    intro s room clear
    simp only [List.length_cons] at room
    rw [List.foldl_cons, raise_of_room (by omega), ih (by simp; omega) rfl]
    simp [clear, Part.cal]

/-- The notices of a start-up: START_UP, and without a valid calibration a CHANNEL_FAULTED for each channel (R114, R170). -/
def Part.startNotices (s : Part) (causes : ResetCauses) : List Frame :=
  let notice := fun e c d8 d16 => (⟨s.cal.nodeAddress, .event e c d8 d16 false 1⟩ : Frame)
  notice .startUp none causes.code (s.store.recordNumber % 65536)
    :: if s.store.activeCal.valid then [] else Channel.all.map fun c => notice .channelFaulted (some c) 3 0

/-- START_UP raised, then a CHANNEL_FAULTED for each channel without a valid calibration. -/
def Part.startAnnounced (s : Part) (causes : ResetCauses) : Part :=
  let t := s.raise .startUp none causes.code (s.store.recordNumber % 65536)
  if t.store.activeCal.valid then t
  else Channel.all.foldl (fun s c => s.raise .channelFaulted (some c) FaultCause.noCalibration.code 0) t

theorem startAnnounced_eq {s : Part} (empty : s.bus.queue = []) (clear : s.bus.overrun = false) (number : s.window.number = 1)
    (causes : ResetCauses) : s.startAnnounced causes = { s with bus := { s.bus with queue := s.startNotices causes } } := by
  unfold Part.startAnnounced Part.startNotices
  rw [raise_of_room (by rw [empty]; decide)]
  cases valid : s.store.activeCal.valid
  · simp only [valid, Bool.false_eq_true, if_false]
    rw [raise_channels _ _ _ _ (by simp [empty, Channel.all]) rfl]
    simp [empty, clear, number, Part.cal, FaultCause.code]
  · simp [valid, empty, clear, number, Part.cal]

/-- The shutdown in which a start-up leaves the part: key-off, at once, where KEY is low (R169). -/
def Part.startShutdown (s : Part) : Option Shutdown := if s.lines.key then none else some ⟨.keyOff, some (s.now + 3000000)⟩

/-- Step 6 of start-up: KEY as the line holds it. -/
def Part.keyJudged (s : Part) : Part := if s.lines.key then s else s.enterShutdown .keyOff ⟨[], []⟩

theorem keyJudged_of_resting {s : Part} (rests : ∀ c, (s.entryOf c).requests = [] ∧ (s.motionOf c).move = none)
    (disarmed : s.override = Override.reset) (running : s.shutdown = none) :
    s.keyJudged = { s with shutdown := s.startShutdown } := by
  unfold Part.keyJudged Part.startShutdown
  cases key : s.lines.key
  · simp only [Bool.false_eq_true, if_false]
    rw [enterShutdown_of_resting rests disarmed]
    rfl
  · simp only [if_true]
    exact congrArg (fun d => { s with shutdown := d }) running

/-! ### The state of start-up -/

section

variable (s : Part) (causes : ResetCauses)

theorem startState_rests (c : Channel) : ((s.startState causes).entryOf c).requests = []
    ∧ ((s.startState causes).motionOf c).move = none := by
  refine ⟨startState_requests s causes c, ?_⟩
  simp only [Part.startState, Part.motionOf, PerChannel.get_build, StartReading.motion, Motion.reset]
  split <;> rfl

/-- What a start-up makes of the part, once the operation in flight has ended: the state of its steps 1 to 5, the notices and the
shutdown. -/
def Part.startedUp : Part :=
  let t := s.startState causes
  { t with bus := { t.bus with queue := t.startNotices causes }, shutdown := t.startShutdown }

theorem startUp_eq : s.startUp causes = s.dropOp.startedUp causes := by
  have announced : (s.dropOp.startState causes).startAnnounced causes = { s.dropOp.startState causes with
      bus := { (s.dropOp.startState causes).bus with queue := (s.dropOp.startState causes).startNotices causes } } :=
    startAnnounced_eq rfl rfl rfl causes
  calc s.startUp causes = ((s.dropOp.startState causes).startAnnounced causes).keyJudged := rfl
    _ = s.dropOp.startedUp causes := by
      rw [announced]
      exact keyJudged_of_resting (startState_rests s.dropOp causes) rfl rfl

/-- Start-up reads of the part its time, its lines, its store and the index of the next free value alone. -/
theorem startState_congr {s t : Part} (now : s.now = t.now) (lines : s.lines = t.lines) (memory : s.store.memory = t.store.memory)
    (free : s.freeIndex = t.freeIndex) (causes : ResetCauses) : s.startState causes = t.startState causes := by
  unfold Part.startState
  rw [now, lines, memory, free]

theorem dropOp_of_idle {s : Part} (idle : s.store.op = none) : s.dropOp = s := by
  unfold Part.dropOp
  rw [idle]

theorem startUp_inhibit : (s.startUp causes).store.inhibit = false := by
  rw [startUp_eq]
  rfl

end

/-! ### The commands -/

theorem exec_powerOn (p : Part) (q : List Instr) (dt : Nat) :
    exec (.powerOn dt) ⟨p, q⟩ = .next ⟨(p.later dt).startUp ⟨true, false, false⟩, q⟩ := rfl

end Sys2Proof.Machine

open Sys2Proof Sys2Proof.Machine

/-- Settles O6: at an erased store a start-up reads the blank part's figures, which keep every law. -/
theorem resetIsAPowerOnWithAnErasedStore : Obligations.ResetIsAPowerOnWithAnErasedStore := by
  refine ⟨rfl, fun p q now memory idle free lines => ?powerOn, ?store, ?queue, ?history, ?slots, ?lists, ?settings, ?parameters⟩
  case powerOn =>
    have idle' : (p.later 0).store.op = none := idle
    have start : (p.later 0).startState ⟨true, false, false⟩ = Part.reset.startState ⟨true, false, false⟩ :=
      startState_congr now lines memory free _
    rw [exec_powerOn, startUp_eq, dropOp_of_idle idle']
    unfold Part.startedUp
    rw [start]
    refine congrArg (fun t => Host.Outcome.next (State.mk t q)) ?_
    show Part.reset.startedUp ⟨true, false, false⟩ = Part.reset
    decide +kernel
  case store => exact ⟨by decide, by decide⟩
  case queue => show Bus.blankStartUp.length ≤ 24; decide
  case history => exact ⟨by decide, .nil, by simp [State.reset, Part.reset, WindowUnit.reset],
      by simp [State.reset, Part.reset, WindowUnit.reset],
      by decide, by decide⟩
  case slots => exact Nat.zero_le 2
  case lists => intro c; cases c <;> exact .nil
  case settings =>
    unfold Part.settingLaw Preset.envelopesOrdered Calibration.factoryOrdered Limits.holds
    refine ⟨?_, by decide, ?_, ?_, ?_, ?_, ?_⟩ <;> intro c <;> cases c <;> decide
  case parameters =>
    have preset : (Preset.fallback defaultFactory).lawful := Preset.fallback_default_lawful
    exact ⟨preset, preset, Calibration.default_lawful, Calibration.default_lawful⟩

end

section
/-! PROOFS. LOAD, the refusals of PRESET_REQUEST and the inhibit latch (R160, R161, R171). -/

namespace Sys2Proof.Machine

/-- A LOAD of a page that holds a preset fills the pending set with it and marks it (R161). -/
theorem applyPreset_load {s : Part} {slot : Nat} {cal : Bool} {preset : Preset}
    (reads : readPreset (s.store.memory.page (slot + 2)) = some preset) :
    s.applyPreset .load slot cal =
      { s with store := { s.store with pendingPreset := preset, loadMark := some slot } } := by
  have held : s.slotPreset slot = some preset := by
    rw [Part.slotPreset, slotPage, reads]
  unfold Part.applyPreset
  dsimp only
  rw [held]
  rfl

end Sys2Proof.Machine

open Sys2Proof Sys2Proof.Machine

/-- Settles O49: the checks one after another, the latch that every command holds, and the restart that clears it. -/
theorem loadFillsThePendingSetAndInhibitLatches : Obligations.LoadFillsThePendingSetAndInhibitLatches := by
  refine ⟨fun p q dt h source f sends received => ?requests, fun p t q r c set runs restarts writes deadline => ?latch,
    fun p q dt => ⟨_, exec_powerOn p q dt, startUp_inhibit _ _⟩⟩
  case latch =>
    obtain ⟨u, effect, holds⟩ := exec_holdsLatch (c := c) ⟨restarts, writes, deadline⟩ p q
    rw [effect, Host.Outcome.next.injEq, State.mk.injEq] at runs
    exact runs.1 ▸ holds set
  case requests =>
    intro s answer refused
    have cab {o : PresetOp} (may : o.forCab = true) : maySend source o := sends.elim (fun cab => .inr ⟨cab, may⟩) .inl
    have refuse {o : PresetOp} {r : Result} (allowed : maySend source o)
        (check : p.checkPreset (some o) f.slot.toNat (f.includeCalibration ≠ 0) = some r) : refused o r :=
      exec_presetCommand_refused q dt allowed received check
    refine ⟨fun o closing allowed => ?closing, fun fromCab => ?barred, fun running => ?running⟩
    case closing =>
      refine refuse ?_ (checkPreset_of_shutdown (s := p) closing (some o) _ _)
      rcases allowed with tool | rfl | rfl | rfl | rfl
      · exact .inl tool
      all_goals exact cab rfl
    case barred =>
      subst fromCab
      exact ⟨exec_presetCommand_barred q dt received rfl, exec_presetCommand_barred q dt received rfl,
        exec_presetCommand_barred q dt received rfl⟩
    have aside {o : PresetOp} (fits : o.namesSlot = true → f.slot.toNat ≤ 15) (writes : o.writes = true)
        (off : o.onCalibration (f.includeCalibration ≠ 0) = false) :=
      checkPreset_of_aside (s := p) running fits writes off
    have calibration {o : PresetOp} (on : o.onCalibration (f.includeCalibration ≠ 0) = true) :=
      checkPreset_of_calibration (s := p) (slot := f.slot.toNat) running on
    have wipeAside (without : f.includeCalibration = 0) : PresetOp.wipe.onCalibration (f.includeCalibration ≠ 0) = false :=
      decide_eq_false (not_not.2 without)
    have wipeOn (included : f.includeCalibration ≠ 0) : PresetOp.wipe.onCalibration (f.includeCalibration ≠ 0) = true :=
      decide_eq_true included
    have wipeNamesNone (n : PresetOp.wipe.namesSlot = true) : f.slot.toNat ≤ 15 := Bool.noConfusion n
    refine ⟨fun beyond => ?beyond, fun fits latched => ?latched, fun tool latched => ⟨?wipeLatched, fun service => ?calLatched⟩,
      fun tool outside => ?outside, fun tool service unlatched locked => ?locked, fun tool service unlatched unlocked => ?free,
      fun unlatched busy => ?busy, fun fits busy => ?loadBusy, fun fits idle invalid => ?emptySlot,
      fun fits idle valid unread => ?noPreset, fun preset fits idle valid reads => ?loaded, ?inhibit⟩
    case beyond =>
      exact ⟨refuse (cab rfl) (checkPreset_of_beyond (s := p) running rfl beyond),
        refuse (cab rfl) (checkPreset_of_beyond (s := p) running rfl beyond),
        refuse (cab rfl) (checkPreset_of_beyond (s := p) running rfl beyond)⟩
    case latched =>
      exact ⟨refuse (cab rfl) ((aside (fun _ => fits) rfl rfl).trans (if_pos latched)),
        refuse (cab rfl) ((aside (fun _ => fits) rfl rfl).trans (if_pos latched))⟩
    case wipeLatched =>
      intro may
      refine refuse (.inl tool) ?_
      by_cases included : f.includeCalibration = 0
      · exact (aside wipeNamesNone rfl (wipeAside included)).trans (if_pos latched)
      · have service : p.service = true := may.resolve_right included
        rw [calibration (wipeOn included), if_neg (by simp [service]), if_pos latched]
    case calLatched =>
      have serving : ¬p.service = false := by simp [service]
      constructor <;> refine refuse (.inl tool) ?_ <;> rw [calibration rfl, if_neg serving, if_pos latched]
    case outside =>
      exact ⟨refuse (.inl tool) ((calibration rfl).trans (if_pos outside)),
        refuse (.inl tool) ((calibration rfl).trans (if_pos outside)),
        fun included => refuse (.inl tool) ((calibration (wipeOn included)).trans (if_pos outside))⟩
    case locked =>
      have serving : ¬p.service = false := by simp [service]
      have uninhibited : ¬p.store.inhibit = true := by simp [unlatched]
      have fails {o : PresetOp} (on : o.onCalibration (f.includeCalibration ≠ 0) = true) : refused o .locked :=
        refuse (.inl tool) (by rw [calibration on, if_neg serving, if_neg uninhibited, if_pos locked])
      exact ⟨fails rfl, fails rfl, fun included => fails (wipeOn included)⟩
    case free =>
      have serving : ¬p.service = false := by simp [service]
      have uninhibited : ¬p.store.inhibit = true := by simp [unlatched]
      have open' : ¬p.store.lockMark = true := by simp [unlocked]
      have judged {o : PresetOp} (on : o.onCalibration (f.includeCalibration ≠ 0) = true) :
          p.checkPreset (some o) f.slot.toNat (f.includeCalibration ≠ 0) =
            if o = .lockCal ∧ p.pageState 0 ≠ .valid then some .inconsistent
            else if p.store.op.isSome = true then some .busy else none := by
        rw [calibration on, if_neg serving, if_neg uninhibited, if_neg open']
      refine ⟨fun invalid => refuse (.inl tool) ((judged rfl).trans (if_pos ⟨rfl, invalid⟩)), fun busy => ⟨?_, fun valid => ?_, ?_⟩⟩
      · exact refuse (.inl tool) (by rw [judged rfl, if_neg (by simp), if_pos busy])
      · have valid' : ¬(PresetOp.lockCal = .lockCal ∧ p.pageState 0 ≠ .valid) := fun both => both.2 valid
        exact refuse (.inl tool) (by rw [judged rfl, if_neg valid', if_pos busy])
      · refine refuse (.inl tool) ?_
        by_cases included : f.includeCalibration = 0
        · rw [aside wipeNamesNone rfl (wipeAside included), if_neg uninhibited, if_pos busy]
        · rw [judged (wipeOn included), if_neg (by simp), if_pos busy]
    case busy =>
      have uninhibited : ¬p.store.inhibit = true := by simp [unlatched]
      have fails {o : PresetOp} (fits : o.namesSlot = true → f.slot.toNat ≤ 15) (writes : o.writes = true)
          (off : o.onCalibration (f.includeCalibration ≠ 0) = false) :
          p.checkPreset (some o) f.slot.toNat (f.includeCalibration ≠ 0) = some .busy := by
        rw [aside fits writes off, if_neg uninhibited, if_pos busy]
      exact ⟨fun fits => ⟨refuse (cab rfl) (fails (fun _ => fits) rfl rfl), refuse (cab rfl) (fails (fun _ => fits) rfl rfl)⟩,
        fun tool without => refuse (.inl tool) (fails wipeNamesNone rfl (wipeAside without))⟩
    case loadBusy => exact refuse (cab rfl) ((checkPreset_load (s := p) running fits).trans (if_pos busy))
    case emptySlot =>
      refine refuse (cab rfl) ?_
      rw [checkPreset_load (s := p) running fits, if_neg (by simp [idle]), if_pos invalid]
    case noPreset =>
      have valid' : ¬p.pageState (f.slot.toNat + 2) ≠ .valid := not_not.2 valid
      refine refuse (cab rfl) ?_
      rw [checkPreset_load (s := p) running fits, if_neg (by simp [idle]), if_neg valid', unread]
      rfl
    case loaded =>
      have valid' : ¬p.pageState (f.slot.toNat + 2) ≠ .valid := not_not.2 valid
      have passes : p.checkPreset (some .load) f.slot.toNat (f.includeCalibration ≠ 0) = none := by
        rw [checkPreset_load (s := p) running fits, if_neg (by simp [idle]), if_neg valid',
          if_neg (by simp [reads])]
      refine (exec_presetCommand_accepted q dt (cab rfl) received passes).trans ?_
      exact congrArg (fun u => Host.Outcome.next (State.mk u q)) (applyPreset_load (s := answer .accepted) reads)
    case inhibit =>
      exact exec_presetCommand_accepted q dt (cab rfl) received (checkPreset_inhibit (s := p) running)

end

section
/-! PROOFS. The ends of the store's operations (R159, R161, R162): the pages read back, STORE_DONE. -/

namespace Sys2Proof.Machine

/-- A page read back at the end of its operation: none is in flight then. -/
def Part.opEnded (s : Part) (page : Nat) (words : List Word) : Part :=
  { s with store := { s.store with
      op := none, memory := s.store.memory.setPage page words, pageStates := s.store.pageStates.set page (judgePage page words) } }

/-- STORE_DONE of a page that reads as judged, for an operation whose good end is the state given. -/
theorem storeDone_eq (s : Part) (kind : StoreKind) (page : Nat) (state : PageState) :
    s.storeDone kind page (state = kind.goodState) =
      s.raise .storeDone none kind.code (page + 256 * (if state = kind.goodState then 0 else 1)) := by
  simp only [Part.storeDone, decide_eq_true_eq]

theorem store_raise (s : Part) (e : Event) (c : Option Channel) (d8 d16 : Nat) : (s.raise e c d8 d16).store = s.store :=
  congrArg (·.store) (raise_eq s e c d8 d16)

/-- The end of an operation on one page. -/
theorem completeOp_of_flight {p : Part} (on : p.power = .on) {op : StoreOp} (flight : p.store.op = some op) {page : Nat}
    (pages : op.pages = [page]) (below : page < p.store.pageStates.length) {kind : StoreKind} (same : op.kind = kind) (back : ReadBack)
    (after : Part → Bool → Part) : p.completeOp kind back after =
      let state := judgePage page (back.getD op.image)
      after (((p.atTime op.endsAt).opEnded page (back.getD op.image)).raise .storeDone none kind.code
        (page + 256 * (if state = kind.goodState then 0 else 1))) (state = kind.goodState) := by
  have read : ((p.atTime op.endsAt).readBack page (back.getD op.image)).pageState page = judgePage page (back.getD op.image) :=
    pageState_readBack _ _ below
  dsimp only
  rw [← storeDone_eq]
  unfold Part.completeOp
  simp only [flight, same, if_true, Part.onExpiry_of_on on rfl, pages, List.headD_cons, read]
  rfl

end Sys2Proof.Machine

open Sys2Proof Sys2Proof.Machine

/-- Settles O50: the page is read back, STORE_DONE raised, and a good SAVE_CAL or LOCK_CAL sets its mark. -/
theorem storeOperationsEndWithStoreDone : Obligations.StoreOperationsEndWithStoreDone := by
  intro p q op page back on flight pages below words state s done
  have ends {kind : StoreKind} (same : op.kind = kind) (after : Part → Bool → Part) :=
    completeOp_of_flight on flight pages below same back after
  have next {t u : Part} (same : t = u) : (Host.Outcome.next ⟨t, q⟩ : Host.Outcome State Fault Refusal) = .next ⟨u, q⟩ :=
    congrArg (fun t => Host.Outcome.next (State.mk t q)) same
  refine ⟨fun same => next (ends same _), fun same => next (ends same _), fun same => next (ends same _),
    fun same => next ((ends same _).trans ?_), fun same => next ((ends same _).trans ?_)⟩
  all_goals
    by_cases good : state = .valid
    case neg =>
      rw [if_neg good]
      exact if_neg (Bool.eq_false_iff.1 (decide_eq_false good))
    rw [if_pos good]
    refine (if_pos (decide_eq_true good)).trans ?_
  · have kept : (done 7 .valid).store = s.store := store_raise s _ _ _ _
    exact congrArg (fun u : Store => ({ done 7 .valid with
      store := { u with pendingCal := { u.pendingCal with valid := true } } } : Part)) kept
  · have kept : (done 5 .valid).store = s.store := store_raise s _ _ _ _
    exact congrArg (fun u : Store => ({ done 5 .valid with store := { u with lockMark := true } } : Part)) kept

end

section
/-! PROOFS. The end of a WIPE (R159, R161): its pages read back one after another, one STORE_DONE. -/

namespace Sys2Proof.Machine

/-! ### The words of a page written -/

/-- A word of the page set. -/
theorem Memory.word_setPage {m : Memory} (h : m.wf) {page i : Nat} (existing : page < pageCount) (words : List Word) (within : i < 256) :
    (m.setPage page words).word page i = words.getD i 0xFFFF := by
  have low : 2 * i < pageBytes := by show 2 * i < 512; omega
  have high : 2 * i + 1 < pageBytes := by show 2 * i + 1 < 512; omega
  have half : (2 * i + 1) / 2 = i := by omega
  have odd : (2 * i + 1) % 2 = 1 := by omega
  unfold Memory.word
  rw [Memory.byte_setPage_inside h existing words low, Nat.add_assoc, Memory.byte_setPage_inside h existing words high]
  simp only [byteOfWords, half, odd]
  simp [Word.ofBytes_low_high]

/-! ### Pages read back one after another -/

section

variable (read : Nat → List Word)

/-- Pages set to what they read, in the order of the list. -/
def Memory.setPages (m : Memory) (pages : List Nat) : Memory := pages.foldl (fun m x => m.setPage x (read x)) m

/-- The states of pages set to what they read. -/
def setStates (states : List PageState) (pages : List Nat) : List PageState :=
  pages.foldl (fun states x => states.set x (judgePage x (read x))) states

theorem readBack_foldl (pages : List Nat) : ∀ s : Part, pages.foldl (fun s x => s.readBack x (read x)) s =
    { s with store := { s.store with
      memory := s.store.memory.setPages read pages, pageStates := setStates read s.store.pageStates pages } } := by
  induction pages with
  | nil => exact fun _ => rfl
  | cons x rest ih => exact fun s => ih (s.readBack x (read x))

theorem Memory.byte_setPages_of_outside {a : Nat} (pages : List Nat) : ∀ {m : Memory}, m.wf →
    (∀ x ∈ pages, a < x * pageBytes ∨ (x + 1) * pageBytes ≤ a) → (m.setPages read pages).byte a = m.byte a := by
  induction pages with
  | nil => exact fun _ _ => rfl
  | cons x rest ih =>
    intro m h outside
    rw [List.forall_mem_cons] at outside
    exact (ih (Memory.wf_setPage h x _) outside.2).trans (Memory.byte_setPage_of_outside h x _ outside.1)

theorem Memory.word_setPages_of_mem {x i : Nat} (existing : x < pageCount) (within : i < 256) (pages : List Nat) : ∀ {m : Memory}, m.wf →
    x ∈ pages → (m.setPages read pages).word x i = (read x).getD i 0xFFFF := by
  induction pages with
  | nil => exact fun _ absent => absurd absent List.not_mem_nil
  | cons y rest ih =>
    intro m h member
    have h' := Memory.wf_setPage h y (read y)
    by_cases later : x ∈ rest
    · exact ih h' later
    · obtain rfl : x = y := (List.mem_cons.1 member).resolve_right later
      have outside {a : Nat} (start : x * pageBytes + 2 * i ≤ a) (stop : a ≤ x * pageBytes + 2 * i + 1) :
          ∀ z ∈ rest, a < z * pageBytes ∨ (z + 1) * pageBytes ≤ a := by
        intro z listed
        have ne : z ≠ x := fun same => later (same ▸ listed)
        unfold pageBytes at start stop ⊢
        omega
      have kept : ((m.setPage x (read x)).setPages read rest).word x i = (m.setPage x (read x)).word x i := by
        unfold Memory.word
        rw [Memory.byte_setPages_of_outside read rest h' (outside le_rfl (Nat.le_succ _)),
          Memory.byte_setPages_of_outside read rest h' (outside (Nat.le_succ _) le_rfl)]
      exact kept.trans (Memory.word_setPage h existing _ within)

theorem getD_setStates_of_not_mem {x : Nat} (pages : List Nat) : ∀ states, x ∉ pages →
    (setStates read states pages).getD x .damaged = states.getD x .damaged := by
  induction pages with
  | nil => exact fun _ _ => rfl
  | cons y rest ih =>
    intro states absent
    rw [List.mem_cons, not_or] at absent
    obtain ⟨ne, later⟩ := absent
    exact (ih _ later).trans (by simp [Ne.symm ne])

theorem getD_setStates_of_mem {x : Nat} (pages : List Nat) : ∀ states, x < states.length → x ∈ pages →
    (setStates read states pages).getD x .damaged = judgePage x (read x) := by
  induction pages with
  | nil => exact fun _ _ absent => absurd absent List.not_mem_nil
  | cons y rest ih =>
    intro states below member
    by_cases later : x ∈ rest
    · exact ih _ (by rwa [List.length_set]) later
    · obtain rfl : x = y := (List.mem_cons.1 member).resolve_right later
      exact (getD_setStates_of_not_mem read rest _ later).trans (by simp [below])

/-- The pages of a WIPE read back: no operation is in flight then. -/
def Part.wipeEnded (s : Part) (pages : List Nat) : Part :=
  { s with store := { s.store with
      op := none, memory := s.store.memory.setPages read pages, pageStates := setStates read s.store.pageStates pages } }

end

/-- The end of a WIPE: what its pages read, and whether they all read erased. -/
theorem completeWipe_of_flight {p : Part} (on : p.power = .on) {op : StoreOp} (flight : p.store.op = some op) (wipes : op.kind = .wipe)
    (below : ∀ x ∈ op.pages, x < p.store.pageStates.length) (back : List (Nat × List Word)) (read : Nat → List Word)
    (reads : read = fun x => (back.lookup x).getD erasedWords) : p.completeWipe back =
      ((p.atTime op.endsAt).wipeEnded read op.pages).raise .storeDone none 4
          (255 + 256 * if ∀ x ∈ op.pages, judgePage x (read x) = .empty then 0 else 1) := by
  have judged : ∀ x ∈ op.pages, (setStates read p.store.pageStates op.pages).getD x .damaged = judgePage x (read x) :=
    fun x listed => getD_setStates_of_mem read _ _ (below x listed) listed
  have good : (op.pages.all fun x => (setStates read p.store.pageStates op.pages).getD x .damaged = .empty)
      = decide (∀ x ∈ op.pages, judgePage x (read x) = .empty) := by
    rw [Bool.eq_iff_iff, List.all_eq_true, decide_eq_true_iff]
    exact forall₂_congr fun x listed => by rw [decide_eq_true_iff, judged x listed]
  subst reads
  unfold Part.completeWipe
  simp only [flight, wipes, if_true, Part.onExpiry_of_on on rfl, readBack_foldl fun x => (back.lookup x).getD erasedWords]
  refine congrArg (fun bad => Part.raise (Part.wipeEnded _ (p.atTime op.endsAt) op.pages) .storeDone none 4 (255 + 256 * bad)) ?_
  have good' := Bool.eq_iff_iff.1 good
  rw [decide_eq_true_iff] at good'
  exact if_congr good' rfl rfl

end Sys2Proof.Machine

open Sys2Proof Sys2Proof.Machine

/-- Settles O51: each page of the WIPE is read back, in any order to the same store, and the others stay. -/
theorem aWipeEndsWithOneStoreDone : Obligations.AWipeEndsWithOneStoreDone := by
  intro p q op back on flight wipes below length form read bad
  have below' : ∀ x ∈ op.pages, x < p.store.pageStates.length := fun x listed => length ▸ below x listed
  refine ⟨p.store.memory.setPages read op.pages, setStates read p.store.pageStates op.pages, ?effect,
    fun x listed => ⟨?state, fun i within => ?word⟩,
    fun x absent => getD_setStates_of_not_mem read _ _ absent, fun a outside => Memory.byte_setPages_of_outside read _ form outside⟩
  case effect =>
    exact congrArg (fun t => Host.Outcome.next (State.mk t q)) (completeWipe_of_flight on flight wipes below' back read rfl)
  case state => exact getD_setStates_of_mem read _ _ (below' x listed) listed
  case word => exact Memory.word_setPages_of_mem read (below x listed) within _ form listed

end

section
/-! PROOFS. PARAM_REQUEST from the Service Tool (R163, R164): the pending value read, and the value written as its range takes it. -/

namespace Sys2Proof.Machine

/-! ### A written value and its range (R164) -/

/-- A value is brought into the range, and a choice outside the choices is not taken. -/
theorem ParamRange.accept_eq {r : ParamRange} (rises : r.lo ≤ r.hi) (v : Int) : r.accept v =
    if r.choice = true ∧ clamp r.lo r.hi v ≠ v then none else some (clamp r.lo r.hi v) := by
  unfold ParamRange.accept
  by_cases inside : r.lo ≤ v ∧ v ≤ r.hi
  · simp [clamp_of_range inside, inside]
  · have moved : clamp r.lo r.hi v ≠ v := fun same => inside (same ▸ clamp_range rises v)
    cases choice : r.choice <;> simp [moved, inside]

theorem Calibration.write_eq_ite (s : Calibration) (a : CalParam) (v : Int) : s.write a v =
    if a.range.choice = true ∧ clamp a.range.lo a.range.hi v ≠ v then none
    else if (s.put a (clamp a.range.lo a.range.hi v)).ordered a = true then some (s.put a (clamp a.range.lo a.range.hi v)) else none := by
  unfold Calibration.write
  rw [ParamRange.accept_eq a.range_ordered]
  split_ifs <;> simp_all

theorem Preset.write_eq_ite (s : Preset) (a : PresetParam) (v : Int) : s.write a v =
    if a.range.choice = true ∧ clamp a.range.lo a.range.hi v ≠ v then none
    else if (s.put a (clamp a.range.lo a.range.hi v)).ordered a = true then some (s.put a (clamp a.range.lo a.range.hi v)) else none := by
  unfold Preset.write
  rw [ParamRange.accept_eq a.range_ordered]
  split_ifs <;> simp_all

/-! ### A WRITE that passes its checks -/

theorem reply_param (s : Part) (source tag : Byte) (r : Result) (v : Word) :
    s.reply ⟨source, kindParam, tag, 0xFF⟩ r v = s.answered source 0x04 tag r 0xFF v := by
  have code : kindLow kindParam = 0x04 := by decide
  unfold Part.reply
  dsimp only
  rw [code]
  rfl

section

variable {s : Part} {k : Param} {value : Word} (a : Asked)

/-- A calibration number is written in service mode alone, and not under the lock mark (R163 check 3). -/
def Part.mayWrite (s : Part) (k : Param) : Prop := k.isCal = true → s.service = true ∧ s.store.lockMark = false

theorem writeParam_of_barred (calibration : k.isCal = true) (outside : s.service = false) :
    s.writeParam value k a = s.reply a .notPermitted 0 := if_pos (by simp [calibration, outside])

theorem writeParam_of_locked (calibration : k.isCal = true) (service : s.service = true) (locked : s.store.lockMark = true) :
    s.writeParam value k a = s.reply a .locked 0 := by
  unfold Part.writeParam
  rw [if_neg (by simp [service]), if_pos (by simp [calibration, locked])]

theorem writeParam_of_mayWrite (may : s.mayWrite k) : s.writeParam value k a =
    match s.writePending k (k.range.read value) with
    | none => s.reply a .inconsistent 0
    | some t => t.replyAccepted a (wordOf (t.pendingValue k)) (wordOf (t.pendingValue k)) (t.pendingValue k ≠ k.range.read value) := by
  have unbarred : ¬(k.isCal && !s.service) = true := by
    rw [Bool.and_eq_true]
    rintro ⟨calibration, outside⟩
    simp [(may calibration).1] at outside
  have unlocked : ¬(k.isCal && s.store.lockMark) = true := by
    rw [Bool.and_eq_true]
    rintro ⟨calibration, locked⟩
    simp [(may calibration).2] at locked
  unfold Part.writeParam
  exact (if_neg unbarred).trans ((if_neg unlocked).trans rfl)

theorem writeParam_of_refused (may : s.mayWrite k) (refused : s.writePending k (k.range.read value) = none) :
    s.writeParam value k a = s.reply a .inconsistent 0 := by
  rw [writeParam_of_mayWrite a may, refused]

/-- A value written is answered as it is stored, clamped or not. -/
theorem writeParam_of_written (may : s.mayWrite k) {t : Part} (written : s.writePending k (k.range.read value) = some t) {stored : Int}
    (reads : t.pendingValue k = stored) : s.writeParam value k a =
      t.reply a (if stored = k.range.read value then .accepted else .acceptedClamped) (wordOf stored) := by
  rw [writeParam_of_mayWrite a may, written]
  dsimp only
  rw [reads]
  unfold Part.replyAccepted
  by_cases same : stored = k.range.read value <;> simp [same]

/-- A WRITE that passes its checks, by what it makes of the pending set: t, which reads the value stored, where R164 takes it. -/
theorem writeParam_cases (source tag : Byte) (may : s.mayWrite k) {t : Part} {stored : Int} {ordered : Bool}
    (reads : t.pendingValue k = stored) (effect : s.writePending k (k.range.read value) =
      if k.range.choice = true ∧ stored ≠ k.range.read value then none else if ordered = true then some t else none) :
    let written := s.writeParam value k ⟨source, kindParam, tag, 0xFF⟩
    (k.range.choice = true → stored ≠ k.range.read value → written = s.answered source 0x04 tag .inconsistent 0xFF 0)
    ∧ (ordered = false → written = s.answered source 0x04 tag .inconsistent 0xFF 0)
    ∧ (ordered = true → stored = k.range.read value → written = t.answered source 0x04 tag .accepted 0xFF (wordOf stored))
    ∧ (ordered = true → k.range.choice = false → stored ≠ k.range.read value →
        written = t.answered source 0x04 tag .acceptedClamped 0xFF (wordOf stored)) := by
  intro written
  simp only [← reply_param]
  refine ⟨fun choice moved => ?_, fun disordered => ?_, fun fits same => ?_, fun fits range moved => ?_⟩
  · exact writeParam_of_refused _ may (effect.trans (if_pos ⟨choice, moved⟩))
  · refine writeParam_of_refused _ may (effect.trans ?_)
    simp [disordered]
  · have taken : s.writePending k (k.range.read value) = some t := by
      rw [effect, if_neg (fun both => both.2 same), if_pos fits]
    exact (writeParam_of_written _ may taken reads).trans (by rw [if_pos same])
  · have taken : s.writePending k (k.range.read value) = some t := by
      rw [effect, if_neg (by simp [range]), if_pos fits]
    exact (writeParam_of_written _ may taken reads).trans (by rw [if_neg moved])

end

/-! ### The pending sets written -/

/-- The part with a parameter of the pending calibration put. -/
def Part.calibrationPut (s : Part) (a : CalParam) (n : Int) : Part :=
  { s with store := { s.store with pendingCal := { s.store.pendingCal with figures := s.store.pendingCal.figures.put a n } } }

/-- The part with a parameter of the pending preset put. -/
def Part.presetPut (s : Part) (a : PresetParam) (n : Int) : Part :=
  { s with store := { s.store with pendingPreset := s.store.pendingPreset.put a n } }

theorem writePending_calibration (s : Part) (a : CalParam) (v : Int) : s.writePending (.cal a) v =
    if a.range.choice = true ∧ clamp a.range.lo a.range.hi v ≠ v then none
    else if (s.store.pendingCal.figures.put a (clamp a.range.lo a.range.hi v)).ordered a = true
      then some (s.calibrationPut a (clamp a.range.lo a.range.hi v)) else none := by
  unfold Part.writePending
  dsimp only
  rw [Calibration.write_eq_ite]
  split_ifs <;> rfl

theorem writePending_preset (s : Part) (a : PresetParam) (v : Int) : s.writePending (.preset a) v =
    if a.range.choice = true ∧ clamp a.range.lo a.range.hi v ≠ v then none
    else if (s.store.pendingPreset.put a (clamp a.range.lo a.range.hi v)).ordered a = true
      then some (s.presetPut a (clamp a.range.lo a.range.hi v)) else none := by
  unfold Part.writePending
  dsimp only
  rw [Preset.write_eq_ite]
  split_ifs <;> rfl

/-! ### The request received -/

/-- A PARAM_REQUEST of the Service Tool heard with its bytes: refused in a shutdown or for an undefined number, and handed on otherwise. -/
theorem onParam_of_received {s : Part} {h : FrameHeader} (received : s.receives h serviceAddress 6) (f : ParamFields)
    (op : Part → Param → Asked → Part) : s.onParam h f (some op) =
      if s.shutdown.isSome = true then s.answered serviceAddress 0x04 f.tag .shuttingDown 0xFF 0
      else match Param.ofNumber f.number.toNat with
        | some k => op s k ⟨serviceAddress, kindParam, f.tag, 0xFF⟩
        | none => s.answered serviceAddress 0x04 f.tag .unknown 0xFF 0 := by
  obtain ⟨-, silent, destination, source, self, long⟩ := received
  have permitted (cabMay : Bool) : serves h 3 cabMay = true := by simp [serves, source]
  have asked : paramLayout.asked h f.tag 0xFF = ⟨serviceAddress, kindParam, f.tag, 0xFF⟩ := by
    rw [← source]
    exact congrArg (Asked.mk h.source kindParam · 0xFF) (if_pos long)
  have heard : s.hearsFrame h := ⟨silent, destination, source ▸ self⟩
  unfold Part.onParam
  dsimp only
  rw [permitted, Part.judgeRequest_handed heard long, asked, reply_param, reply_param]
  cases Param.ofNumber f.number.toNat <;> rfl

theorem onParam_of_number {s : Part} {h : FrameHeader} (received : s.receives h serviceAddress 6) (runs : s.shutdown = none)
    {f : ParamFields} {k : Param} (number : Param.ofNumber f.number.toNat = some k) (op : Part → Param → Asked → Part) :
    s.onParam h f (some op) = op s k ⟨serviceAddress, kindParam, f.tag, 0xFF⟩ := by
  rw [onParam_of_received received, if_neg (Option.not_isSome_iff_eq_none.2 runs), number]

section

variable {p : Part} {h : FrameHeader} (received : p.receives h serviceAddress 6) (q : List Instr) (dt : Nat) (f : ParamFields)

include received

theorem exec_paramRead_of_received : exec (.paramRead dt h f) ⟨p, q⟩ =
    .next ⟨(p.later dt).onParam h f (some Part.readParam), q⟩ :=
  congrArg (fun t => Host.Outcome.next (State.mk t q)) (Part.onEvent_of_on received.1 dt _)

theorem exec_paramWrite_of_received : exec (.paramWrite dt h f) ⟨p, q⟩ =
    .next ⟨(p.later dt).onParam h f (some fun s k a => s.writeParam f.value k a), q⟩ :=
  congrArg (fun t => Host.Outcome.next (State.mk t q)) (Part.onEvent_of_on received.1 dt _)

/-- A WRITE of a defined number outside a shutdown. -/
theorem exec_paramWrite_of_number (runs : p.shutdown = none) {k : Param} (number : Param.ofNumber f.number.toNat = some k) :
    exec (.paramWrite dt h f) ⟨p, q⟩ = .next ⟨(p.later dt).writeParam f.value k ⟨serviceAddress, kindParam, f.tag, 0xFF⟩, q⟩ := by
  rw [exec_paramWrite_of_received received, onParam_of_number (s := p.later dt) received runs number]

end

end Sys2Proof.Machine

open Sys2Proof Sys2Proof.Machine

/-- Settles O52: the checks of R163 one after another, and the value written as R164 stores it. -/
theorem paramRequestsReadAndWriteThePendingSet : Obligations.ParamRequestsReadAndWriteThePendingSet := by
  intro p q dt h f received s answer read write
  have next {t u : Part} (same : t = u) : (Host.Outcome.next ⟨t, q⟩ : Host.Outcome State Fault Refusal) = .next ⟨u, q⟩ :=
    congrArg (fun t => Host.Outcome.next (State.mk t q)) same
  have taken (op : Part → Param → Asked → Part) := onParam_of_received (s := s) received f op
  refine ⟨fun closing => ?closing, fun runs undefined => ?undefined, fun a runs number => ?read, fun a runs number => ?calibration,
    fun a runs number table name => ?preset⟩
  case closing =>
    have refused (op : Part → Param → Asked → Part) := next ((taken op).trans (if_pos closing))
    exact ⟨(exec_paramRead_of_received received q dt f).trans (refused _),
      (exec_paramWrite_of_received received q dt f).trans (refused _)⟩
  case undefined =>
    have refused (op : Part → Param → Asked → Part) : s.onParam h f (some op) = answer .unknown 0 := by
      rw [taken, undefined]
      exact if_neg (Option.not_isSome_iff_eq_none.2 runs)
    exact ⟨(exec_paramRead_of_received received q dt f).trans (next (refused _)),
      (exec_paramWrite_of_received received q dt f).trans (next (refused _))⟩
  case read =>
    refine (exec_paramRead_of_received received q dt f).trans (next ?_)
    rw [onParam_of_number (s := s) received runs number]
    exact reply_param s _ _ _ _
  case calibration =>
    have writes {t : Part} (effect : s.writeParam f.value (.cal a) ⟨serviceAddress, kindParam, f.tag, 0xFF⟩ = t) : write t :=
      (exec_paramWrite_of_number received q dt f runs number).trans (next effect)
    refine ⟨fun outside => writes ?_, fun service locked => writes ?_, fun service unlocked => ?_⟩
    · rw [writeParam_of_barred (s := s) _ rfl outside, reply_param]
    · rw [writeParam_of_locked (s := s) _ rfl service locked, reply_param]
    have may : s.mayWrite (.cal a) := fun _ => ⟨service, unlocked⟩
    have reads : (s.calibrationPut a (clamp a.range.lo a.range.hi (a.range.read f.value))).pendingValue (.cal a) = _ :=
      Calibration.get_put_self _ a (clamp_range a.range_ordered _)
    obtain ⟨outside, disordered, kept, clamped⟩ := writeParam_cases (value := f.value) serviceAddress f.tag may
      reads (writePending_calibration s a _)
    exact ⟨fun choice moved => writes (outside choice moved), fun breaks => writes (disordered breaks),
      fun fits same => writes (kept fits same), fun fits range moved => writes (clamped fits range moved)⟩
  case preset =>
    have writes {t : Part} (effect : s.writeParam f.value (.preset a) ⟨serviceAddress, kindParam, f.tag, 0xFF⟩ = t) : write t :=
      (exec_paramWrite_of_number received q dt f runs number).trans (next effect)
    have may : s.mayWrite (.preset a) := fun calibration => Bool.noConfusion calibration
    have shaped : p.store.pendingPreset.shaped := ⟨table, name⟩
    have reads : (s.presetPut a (clamp a.range.lo a.range.hi (a.range.read f.value))).pendingValue (.preset a) = _ :=
      Preset.get_put_self shaped (Param.ofNumber_mem number) (clamp_range a.range_ordered _)
    obtain ⟨outside, disordered, kept, clamped⟩ := writeParam_cases (value := f.value) serviceAddress f.tag may
      reads (writePending_preset s a _)
    exact ⟨fun choice moved => writes (outside choice moved), fun breaks => writes (disordered breaks),
      fun fits same => writes (kept fits same), fun fits range moved => writes (clamped fits range moved)⟩

end

section
/-! PROOFS. What every restart leaves (R101, R159, R167, R169, R170). -/

namespace Sys2Proof.Machine

/-- An operation in flight is dropped into the store's bytes and the index of the next free value alone. -/
theorem dropOp_eq (s : Part) : ∃ (m : Memory) (k : Nat), s.dropOp = { s with
    freeIndex := k, store := { s.store with op := none, memory := m } } ∧ (s.store.op = none → k = s.freeIndex) := by
  cases flight : s.store.op with
  | none => exact ⟨s.store.memory, s.freeIndex, (dropOp_of_idle flight).trans (by rw [← flight]), fun _ => rfl⟩
  | some op =>
    refine ⟨s.dropOp.store.memory, s.dropOp.freeIndex, ?_, fun idle => absurd idle (Option.some_ne_none op)⟩
    unfold Part.dropOp
    rw [flight]

section

variable (s : Part) (causes : ResetCauses)

theorem startState_hold (c : Channel) : ((s.startState causes).entryOf c).hold = none := by
  simp only [Part.startState, Part.entryOf, PerChannel.get_build, StartReading.entry]
  split <;> rfl

theorem restarted_startedUp : (s.startedUp causes).restarted s.now causes := by
  have rests := startState_rests s causes
  refine ⟨rfl, rfl, rfl, rfl, rfl, rfl, rfl, rfl, rfl, fun c => ⟨(rests c).1, startState_hold s causes c, (rests c).2⟩,
    rfl, rfl, rfl, rfl, rfl, rfl, rfl, rfl, ⟨_, _, _, rfl, rfl⟩, ?_⟩
  show (Part.startShutdown _).isSome = true ↔ s.lines.key = false
  unfold Part.startShutdown
  show (if s.lines.key = true then none else some _).isSome = true ↔ _
  cases s.lines.key <;> simp

theorem restarted_startUp : (s.startUp causes).restarted s.now causes := by
  obtain ⟨m, k, drop, -⟩ := dropOp_eq s
  have now : s.dropOp.now = s.now := by rw [drop]
  rw [startUp_eq, ← now]
  exact restarted_startedUp s.dropOp causes

theorem lines_startUp : (s.startUp causes).lines = s.lines := by
  obtain ⟨m, k, drop, -⟩ := dropOp_eq s
  rw [startUp_eq, drop]
  rfl

theorem memory_startUp : (s.startUp causes).store.memory = s.dropOp.store.memory := by
  rw [startUp_eq]
  rfl

theorem cutShort_startUp : s.cutShort s.now (s.startUp causes).store.memory := by
  rw [memory_startUp]
  exact s.cutShort_dropOp

end

end Sys2Proof.Machine

end

section
/-! PROOFS. The ends of a shutdown (R166 to R168, R170): the write of the position record, its completion, the deadline, KEY back. -/

namespace Sys2Proof.Machine

/-! ### Plug Relief judged again (R145) -/

/-- Plug Relief judged again writes its own state, the RELIEF mark, the Feed Restrain and the notice of it. -/
theorem disarm_eq (s : Part) : ∃ (e : Evaluator) (b : Bus), s.disarm = { s with
    override := Override.reset, evaluator := e, bus := b } := by
  cases opens : s.override.relief.opens with
  | false => exact ⟨_, _, disarm_of_closed opens⟩
  | true =>
    rw [disarm_of_opens opens]
    unfold Part.announceRestrain
    split
    · exact ⟨_, _, rfl⟩
    · exact ⟨_, _, rfl⟩

theorem judgeRelief_disarms {s : Part} (barred : s.reliefBarred = true) (active : s.override.relief ≠ .disarmed) :
    ∃ (e : Evaluator) (b : Bus), s.judgeRelief = { s with override := Override.reset, evaluator := e, bus := b } := by
  rw [override_judgeRelief_barred barred active]
  exact disarm_eq s

theorem judgeRelief_arms {s : Part} (unbarred : s.reliefBarred = false) (disarmed : s.override.relief = .disarmed) :
    s.judgeRelief = { s with override := { s.override with relief := .spinup } } := by
  unfold Part.judgeRelief
  rw [if_neg (by simp [unbarred]), if_pos disarmed]
  rfl

theorem judgeRelief_stays {s : Part} (unbarred : s.reliefBarred = false) (active : s.override.relief ≠ .disarmed) :
    s.judgeRelief = s := by
  unfold Part.judgeRelief
  rw [if_neg (by simp [unbarred]), if_neg active]

/-- A judgement changes Plug Relief, the Feed Restrain and its notice alone, and of a DISARMED one no notice tells. -/
theorem judgeRelief_eq (s : Part) : ∃ (o : Override) (e : Evaluator) (b : Bus),
    s.judgeRelief = { s with override := o, evaluator := e, bus := b } ∧ (s.override.relief = .disarmed → b = s.bus) := by
  cases barred : s.reliefBarred <;> by_cases disarmed : s.override.relief = .disarmed
  · exact ⟨_, _, _, judgeRelief_arms barred disarmed, fun _ => rfl⟩
  · exact ⟨_, _, _, judgeRelief_stays barred disarmed, fun _ => rfl⟩
  · exact ⟨_, _, _, judgeRelief_of_disarmed barred disarmed, fun _ => rfl⟩
  · obtain ⟨e, b, same⟩ := judgeRelief_disarms barred disarmed
    exact ⟨_, e, b, same, fun d => absurd d disarmed⟩

/-! ### The end of a shutdown, by its kind and KEY -/

section

variable {s : Part} {k : ShutdownKind} {d : Option Nat}

/-- With KEY low a shutdown ends in the release of PHOLD. -/
theorem recordWritten_of_low (closing : s.shutdown = some ⟨k, d⟩) (low : s.lines.key = false) : s.recordWritten = s.release := by
  unfold Part.recordWritten Part.endCommanded
  rw [closing]
  cases k <;> simp [low]

theorem recordWritten_of_commanded (closing : s.shutdown = some ⟨.commanded, d⟩) (high : s.lines.key = true) :
    s.recordWritten = s.startUp { s.store.resetCauses with commanded := true } := by
  unfold Part.recordWritten Part.endCommanded
  rw [closing]
  exact if_pos high

theorem recordWritten_of_keyOff (closing : s.shutdown = some ⟨.keyOff, d⟩) (high : s.lines.key = true) :
    s.recordWritten = s.cancelShutdown.beginOp .positionErase [1] erasedWords eraseTime := by
  unfold Part.recordWritten
  rw [closing]
  exact if_pos high

theorem deadlinePasses_of_released (closing : s.shutdown = some ⟨k, d⟩) (released : k = .keyOff ∨ s.lines.key = false) :
    s.deadlinePasses = s.release := by
  unfold Part.deadlinePasses Part.endCommanded
  rw [closing]
  cases k with
  | keyOff => rfl
  | commanded => simp [released.resolve_left (by decide)]

theorem deadlinePasses_of_commanded (closing : s.shutdown = some ⟨.commanded, d⟩) (high : s.lines.key = true) :
    s.deadlinePasses = s.startUp { s.store.resetCauses with commanded := true } := by
  unfold Part.deadlinePasses Part.endCommanded
  rw [closing]
  exact if_pos high

/-- The position record's write starts in a shutdown with every channel at rest and the store free (R167 step 3). -/
theorem startPositionWrite_of_ready (closing : s.shutdown.isSome = true) (free : s.store.op = none)
    (rests : ∀ c, (s.motionOf c).phase = .idle ∨ ∃ cause, (s.motionOf c).phase = .faulted cause) : s.startPositionWrite =
      s.beginOp .positionWrite [1] (recordPage s.positionRecord) (if s.pageState 1 = .empty then 20000 else 60000) := by
  have still : Channel.all.all (fun c => (s.motionOf c).atRest) = true := by
    rw [List.all_eq_true]
    intro c _
    unfold Motion.atRest
    rcases rests c with idle | ⟨cause, faulted⟩
    · rw [idle]
    · rw [faulted]
  unfold Part.startPositionWrite
  rw [closing, free, still]
  rfl

end

/-! ### KEY back (R168) -/

/-- The part as KEY_RETURNS finds it: later, with the line high. -/
def Part.keyed (s : Part) (dt : Nat) : Part := { s with now := s.now + dt, lines := { s.lines with key := true } }

theorem exec_keyReturns (p : Part) (q : List Instr) (dt : Nat) : exec (.keyReturns dt) ⟨p, q⟩ = .next ⟨(p.keyed dt).keyBack, q⟩ := rfl

section

variable {s : Part} {d : Option Nat}

theorem keyBack_of_writing (on : s.power = .on) (closing : s.shutdown = some ⟨.keyOff, d⟩) (writing : s.writingRecord = true) :
    s.keyBack = { s with shutdown := some ⟨.keyOff, none⟩ } := by
  unfold Part.keyBack
  rw [on, closing]
  exact if_pos writing

theorem keyBack_of_keyOff (on : s.power = .on) (closing : s.shutdown = some ⟨.keyOff, d⟩) (idle : s.writingRecord = false) :
    s.keyBack = s.cancelShutdown := by
  unfold Part.keyBack
  rw [on, closing]
  exact if_neg (by simp [idle])

end

/-! ### The commands -/

section

variable {p : Part} (q : List Instr)

theorem exec_positionWriteStart_of_on (on : p.power = .on) :
    exec .positionWriteStart ⟨p, q⟩ = .next ⟨(p.later 0).startPositionWrite, q⟩ :=
  congrArg (fun t => Host.Outcome.next (State.mk t q)) (Part.onEvent_of_on on 0 _)

theorem exec_deadlineTimerExpiry_of_on (on : p.power = .on) {k : ShutdownKind} {d : Nat} (closing : p.shutdown = some ⟨k, some d⟩) :
    exec .deadlineTimerExpiry ⟨p, q⟩ = .next ⟨(p.atTime d).deadlinePasses, q⟩ :=
  congrArg (fun t => Host.Outcome.next (State.mk t q)) (Part.onExpiry_of_on on (by rw [closing]; rfl) _)

/-- The write of the position record completed: its page read back, STORE_DONE, then the end of the shutdown. -/
theorem exec_positionWriteCompletes_of_flight (on : p.power = .on) {op : StoreOp} (flight : p.store.op = some op)
    (kind : op.kind = .positionWrite) (pages : op.pages = [1]) (length : p.store.pageStates.length = 18) (back : ReadBack) :
    exec (.positionWriteCompletes back) ⟨p, q⟩ = .next ⟨(((p.atTime op.endsAt).opEnded 1 (back.getD op.image)).raise .storeDone none 8
      (if judgePage 1 (back.getD op.image) = .valid then 1 else 257)).recordWritten, q⟩ := by
  have detail : (1 + 256 * if judgePage 1 (back.getD op.image) = PageState.valid then 0 else 1)
      = if judgePage 1 (back.getD op.image) = .valid then 1 else 257 := by split_ifs <;> rfl
  refine congrArg (fun t => Host.Outcome.next (State.mk t q))
    ((completeOp_of_flight on flight pages (by rw [length]; decide) kind back _).trans ?_)
  rw [← detail]
  rfl

end

end Sys2Proof.Machine

open Sys2Proof Sys2Proof.Machine

/-- Settles O54: the write begun, then the end of the shutdown by its kind and by KEY, at the completion and at the deadline. -/
theorem thePositionRecordIsWrittenBeforeRelease : Obligations.ThePositionRecordIsWrittenBeforeRelease := by
  refine ⟨fun p q on closing free rests => ?starts, fun p q op d k back on flight kind pages length closing => ?completes,
    fun p q k d on closing => ?deadline, fun p q dt op d on flight kind closing => ?key⟩
  case starts =>
    rw [exec_positionWriteStart_of_on q on, startPositionWrite_of_ready (s := p.later 0) closing free rests]
    rfl
  case completes =>
    intro words state s done
    have effect : exec (.positionWriteCompletes back) ⟨p, q⟩ = .next ⟨done.recordWritten, q⟩ :=
      exec_positionWriteCompletes_of_flight q on flight kind pages length back
    obtain ⟨bus, raised⟩ : ∃ bus, done = { s with bus := bus } := ⟨_, raise_eq s _ _ _ _⟩
    clear_value done
    subst raised
    refine ⟨fun low => ?low, fun high keyOff => ?keyOff, fun high commanded => ?commanded⟩
    case low =>
      rw [effect, recordWritten_of_low (s := { s with bus := bus }) closing low]
      rfl
    case keyOff =>
      subst keyOff
      obtain ⟨o, e, b, judged, quiet⟩ := judgeRelief_eq { { s with bus := bus } with shutdown := none }
      have cancelled : Part.cancelShutdown { s with bus := bus } = _ := judged
      rw [recordWritten_of_keyOff (s := { s with bus := bus }) closing high, cancelled] at effect
      exact ⟨_, effect, rfl, rfl, on, rfl, rfl, quiet, rfl, rfl, rfl, rfl, rfl, rfl, rfl⟩
    case commanded =>
      subst commanded
      rw [recordWritten_of_commanded (s := { s with bus := bus }) closing high] at effect
      exact ⟨_, effect, restarted_startUp _ _, lines_startUp _ _, (memory_startUp _ _).trans (by rw [dropOp_of_idle rfl])⟩
  case deadline =>
    have effect := exec_deadlineTimerExpiry_of_on q on closing
    refine ⟨fun released => ?_, fun commanded high => ?_⟩
    · rw [effect, deadlinePasses_of_released (s := p.atTime d) closing released]
      rfl
    · subst commanded
      rw [deadlinePasses_of_commanded (s := p.atTime d) closing high] at effect
      exact ⟨_, effect, restarted_startUp _ _, lines_startUp _ _, cutShort_startUp (p.atTime d) _⟩
  case key =>
    have writing : (p.later dt).writingRecord = true := by
      unfold Part.writingRecord
      rw [show (p.later dt).store.op = some op from flight]
      exact decide_eq_true kind
    exact congrArg (fun t => Host.Outcome.next (State.mk t q)) (keyBack_of_writing (s := p.keyed dt) on closing writing)

end

section
/-! PROOFS. What a page written from a parameter set or a position record reads as (R158, R161, R162, R166, R169). -/

namespace Sys2Proof.Machine

/-! ### A page image (R158) -/

section

variable (page : Nat) {contents : List Word}

/-- The words of a page image before the check value: the contents, then erased words. -/
def imageBody (contents : List Word) : List Word := (contents ++ List.replicate (pageWords - 1) 0xFFFF).take (pageWords - 1)

theorem pageImage_eq (contents : List Word) : pageImage page contents = imageBody contents ++ [checkValue page (imageBody contents)] := rfl

theorem imageBody_length (contents : List Word) : (imageBody contents).length = 255 := by
  rw [imageBody, List.length_take, List.length_append, List.length_replicate]
  exact Nat.min_eq_left (Nat.le_add_left _ _)

theorem image_length (contents : List Word) : (pageImage page contents).length = 256 := by
  rw [pageImage_eq, List.length_append, imageBody_length]
  rfl

/-- A word before the last is the contents', or erased. -/
theorem image_getD {i : Nat} (before : i < 255) (contents : List Word) :
    (pageImage page contents).getD i 0xFFFF = contents.getD i 0xFFFF := by
  rw [pageImage_eq, List.getD_append _ _ _ _ (by rwa [imageBody_length])]
  unfold imageBody
  rw [List.getD_eq_getElem?_getD, List.getElem?_take_of_lt (show i < pageWords - 1 from before), List.getD_eq_getElem?_getD]
  by_cases inside : i < contents.length
  · rw [List.getElem?_append_left inside]
  · rw [List.getElem?_append_right (Nat.le_of_not_lt inside), List.getElem?_eq_none (Nat.le_of_not_lt inside)]
    have within : i - contents.length < pageWords - 1 := Nat.lt_of_le_of_lt (Nat.sub_le _ _) before
    rw [List.getElem?_replicate, if_pos within]
    rfl

/-- The check value of an image is that of its body. -/
theorem checkValue_image (contents : List Word) : checkValue page (pageImage page contents) = checkValue page (imageBody contents) := by
  have long := imageBody_length contents
  have same : summedWords page (pageImage page contents) = summedWords page (imageBody contents) := by
    unfold summedWords
    rw [pageImage_eq]
    split_ifs
    · rw [List.set_append_left _ _ (by rw [long]; decide), List.take_append_of_le_length (by rw [List.length_set, long]; decide)]
    · rw [List.take_append_of_le_length (by rw [long]; decide)]
  unfold checkValue
  rw [same]

/-- The image of contents that are not all erased is VALID. -/
theorem judgePage_image {i : Nat} (before : i < 255) (written : contents.getD i 0xFFFF ≠ 0xFFFF) :
    judgePage page (pageImage page contents) = .valid := by
  have last : (pageImage page contents).getD (pageWords - 1) 0xFFFF = checkValue page (imageBody contents) := by
    rw [pageImage_eq, List.getD_append_right _ _ _ _ (by rw [imageBody_length]; decide), imageBody_length]
    rfl
  have notErased : ¬(pageImage page contents).all (· = 0xFFFF) = true := by
    rw [List.all_eq_true]
    intro erased
    have at_i : (pageImage page contents).getD i 0xFFFF = 0xFFFF := by
      have inside : i < (pageImage page contents).length := by rw [image_length]; omega
      rw [List.getD_eq_getElem _ _ inside]
      exact of_decide_eq_true (erased _ (List.getElem_mem inside))
    exact written ((image_getD page before contents).symm.trans at_i)
  unfold judgePage
  rw [if_neg notErased, last, checkValue_image, if_pos rfl]

end

/-! ### A parameter's value as a word (09 9.3 note 2) -/

/-- The values of a range fit the 16 bits of a word, signed where the range has negative values. -/
def ParamRange.fitsWord (r : ParamRange) : Prop := if r.lo < 0 then -32768 ≤ r.lo ∧ r.hi ≤ 32767 else r.hi ≤ 65535

theorem toInt_wordOf {v : Int} (within : -32768 ≤ v ∧ v ≤ 32767) : (wordOf v).toInt = v := by
  unfold wordOf
  rw [BitVec.toInt_ofInt]
  exact Int.bmod_eq_of_le (by omega) (by omega)

theorem ParamRange.read_wordOf {r : ParamRange} (fits : r.fitsWord) {v : Int} (within : r.lo ≤ v ∧ v ≤ r.hi) :
    r.read (wordOf v) = v := by
  unfold ParamRange.fitsWord at fits
  unfold ParamRange.read
  split_ifs at fits ⊢ with negative
  · exact toInt_wordOf (by omega)
  · rw [wordOf, BitVec.toNat_ofInt]
    omega

theorem storedValue_wordOf {r : ParamRange} (fits : r.fitsWord) {v : Int} (within : r.lo ≤ v ∧ v ≤ r.hi) :
    storedValue r (wordOf v) = some v := by
  unfold storedValue
  rw [ParamRange.read_wordOf fits within, ParamRange.accept_eq (within.1.trans within.2), clamp_of_range within]
  simp

theorem CalParam.range_fitsWord (a : CalParam) : a.range.fitsWord := by
  unfold ParamRange.fitsWord
  cases a with
  | factoryMin c | factoryMax c => cases c <;> decide
  | _ => simp [CalParam.range, ParamRange.clamped, ParamRange.choices]

theorem PresetParam.range_fitsWord (a : PresetParam) : a.range.fitsWord := by
  unfold ParamRange.fitsWord
  cases a with
  | initialSetpoint c | envelopeMin c | envelopeMax c => cases c <;> decide
  | setThreshold k | clearThreshold k => cases k <;> decide
  | trim i f => cases f <;> simp [PresetParam.range, ParamRange.clamped, ParamRange.choices]
  | _ => simp [PresetParam.range, ParamRange.clamped, ParamRange.choices]

/-! ### A set is what its parameters read -/

theorem EdgeSelection.code_injective : Function.Injective EdgeSelection.code := by
  intro a b
  cases a <;> cases b <;> simp [EdgeSelection.code]

theorem Direction.code_injective : Function.Injective Direction.code := by
  intro a b
  cases a <;> cases b <;> simp [Direction.code]

theorem Mode.code_injective : Function.Injective Mode.code := by
  intro a b
  cases a <;> cases b <;> simp [Mode.code]

theorem ArbiterMode.code_injective : Function.Injective ArbiterMode.code := by
  intro a b
  cases a <;> cases b <;> simp [ArbiterMode.code]

theorem ofFlag_injective : Function.Injective ofFlag := by
  intro a b
  cases a <;> cases b <;> simp [ofFlag]

theorem CalParam.mem_all (a : CalParam) : a ∈ CalParam.all := by
  cases a with
  | gain i => cases i <;> decide
  | factoryMin c | factoryMax c => cases c <;> decide
  | teeth v | ratio16 v | edges v | settleTime v | maxDriveTime v => cases v <;> decide
  | cal16 x | homeDirection x | homeValue x | deadband x | homeTravel x | coastTime x | stallTime x | parkValue x | inParkMask x =>
    cases x <;> decide
  | _ => decide

theorem SpeedCal.ext_get {s t : Calibration} (same : ∀ a, s.get a = t.get a) (v : SpeedChannel) : s.speed.get v = t.speed.get v := by
  have teeth := same (.teeth v)
  have ratio := same (.ratio16 v)
  have edges := EdgeSelection.code_injective (same (.edges v))
  have settle := same (.settleTime v)
  have drive := same (.maxDriveTime v)
  simp only [Calibration.get, Nat.cast_inj] at teeth ratio settle drive
  generalize s.speed.get v = a, t.speed.get v = b at *
  cases a
  cases b
  simp_all

theorem PosCal.ext_get {s t : Calibration} (same : ∀ a, s.get a = t.get a) (x : PosChannel) : s.pos.get x = t.pos.get x := by
  have cal := same (.cal16 x)
  have direction := Direction.code_injective (same (.homeDirection x))
  have home := same (.homeValue x)
  have deadband := same (.deadband x)
  have travel := same (.homeTravel x)
  have coast := same (.coastTime x)
  have stall := same (.stallTime x)
  have park := same (.parkValue x)
  have mask := ofFlag_injective (same (.inParkMask x))
  simp only [Calibration.get, Nat.cast_inj] at cal home deadband travel coast stall park
  generalize s.pos.get x = a, t.pos.get x = b at *
  cases a
  cases b
  simp_all

/-- A calibration is what its parameters read. -/
theorem Calibration.ext_get {s t : Calibration} (same : ∀ a, s.get a = t.get a) : s = t := by
  have address : s.nodeAddress = t.nodeAddress := BitVec.eq_of_toNat_eq (Nat.cast_inj.1 (same .nodeAddress))
  have dead : s.deadTime = t.deadTime := Nat.cast_inj.1 (same .deadTime)
  have gain : s.gain = t.gain := PerLoss.ext_get fun i => Nat.cast_inj.1 (same (.gain i))
  have roll : s.rollZero = t.rollZero := same .rollZero
  have pitch : s.pitchZero = t.pitchZero := same .pitchZero
  have zero : s.feedZero = t.feedZero := Nat.cast_inj.1 (same .feedZero)
  have span : s.feedSpan = t.feedSpan := Nat.cast_inj.1 (same .feedSpan)
  have factory : s.factory = t.factory := PerChannel.ext_get fun c => (Limits.mk.injEq ..).mpr ⟨same (.factoryMin c), same (.factoryMax c)⟩
  have speed : s.speed = t.speed := PerSpeed.ext_get (SpeedCal.ext_get same)
  have pos : s.pos = t.pos := PerPos.ext_get (PosCal.ext_get same)
  cases s
  cases t
  simp_all

/-! ### The calibration read back (R169 step 1) -/

/-- A calibration with one parameter taken from a page, as it is stored there. -/
def takeFigure (words : List Word) (s : Calibration) (x : CalParam × Nat) : Calibration :=
  match storedValue x.1.range (words.getD x.2 0xFFFF) with
  | some n => s.put x.1 n
  | none => s

theorem readCalibration_eq (words : List Word) :
    readCalibration words = (CalParam.all.zipIdx.foldl (takeFigure words) Calibration.default).repair := rfl

/-- Lawful limits and a free address need no repair. -/
theorem Calibration.repair_of_lawful {k : Calibration} (lawful : k.lawful) : k.repair = k := by
  have address : ¬takenAddresses.contains k.nodeAddress = true := by
    have free := (lawful .nodeAddress (CalParam.mem_all _)).2.2
    simpa only [Calibration.ordered, Bool.not_eq_true', Bool.not_eq_true] using free
  have factory : (PerChannel.build fun c => if (k.factory.get c).min ≤ (k.factory.get c).max then k.factory.get c
      else defaultFactory.get c) = k.factory :=
    PerChannel.ext_get fun c => by rw [PerChannel.get_build, if_pos (lawful.factoryOrdered c)]
  unfold Calibration.repair
  rw [if_neg address, factory]

/-- A parameter taken over reads as the page has it, and the others as before. -/
theorem get_takeFigures {words : List Word} {k : Calibration} (ranged : k.ranged) (l : List (CalParam × Nat))
    (stored : ∀ x ∈ l, words.getD x.2 0xFFFF = wordOf (k.get x.1)) : ∀ s : Calibration,
      (∀ a, s.get a = k.get a ∨ a ∈ l.map (·.1)) → ∀ a, (l.foldl (takeFigure words) s).get a = k.get a := by
  induction l with
  | nil => exact fun s known a => (known a).resolve_right List.not_mem_nil
  | cons x rest ih =>
    intro s known
    rw [List.forall_mem_cons] at stored
    have range := ranged x.1 (CalParam.mem_all _)
    have taken : takeFigure words s x = s.put x.1 (k.get x.1) := by
      unfold takeFigure
      rw [stored.1, storedValue_wordOf x.1.range_fitsWord range]
    rw [List.foldl_cons, taken]
    refine ih stored.2 _ fun a => ?_
    by_cases here : a = x.1
    · subst here
      exact .inl (s.get_put_self x.1 range)
    · rw [s.get_put_ne _ here]
      exact (known a).imp_right fun listed => (List.mem_cons.1 listed).resolve_left here

theorem readCalibration_of_stored {words : List Word} {k : Calibration} (lawful : k.lawful)
    (stored : ∀ x ∈ CalParam.all.zipIdx, words.getD x.2 0xFFFF = wordOf (k.get x.1)) : readCalibration words = k := by
  have read : CalParam.all.zipIdx.foldl (takeFigure words) Calibration.default = k :=
    Calibration.ext_get (get_takeFigures lawful.ranged _ stored _ fun a => .inr (by
      rw [List.zipIdx_map_fst]
      exact CalParam.mem_all a))
  rw [readCalibration_eq, read, Calibration.repair_of_lawful lawful]

/-! ### The calibration's page (R162) -/

/-- A list's image under f, at the place of one of its members. -/
theorem getD_map_of_mem_zipIdx {α : Type} {l : List α} {x : α × Nat} (placed : x ∈ l.zipIdx) (f : α → Word) (d : Word) :
    (l.map f).getD x.2 d = f x.1 := by
  have at_place : l[x.2]? = some x.1 := List.mem_zipIdx_iff_getElem?.1 placed
  rw [List.getD_eq_getElem?_getD, List.getElem?_map, at_place]
  rfl

theorem place_lt_of_mem_zipIdx {α : Type} {l : List α} {x : α × Nat} (placed : x ∈ l.zipIdx) : x.2 < l.length := by
  have at_place : l[x.2]? = some x.1 := List.mem_zipIdx_iff_getElem?.1 placed
  exact (List.getElem?_eq_some_iff.1 at_place).1

theorem calibrationPage_getD (k : Calibration) {x : CalParam × Nat} (placed : x ∈ CalParam.all.zipIdx) :
    (calibrationPage k).getD x.2 0xFFFF = wordOf (k.get x.1) := by
  have place : x.2 < 67 := place_lt_of_mem_zipIdx placed
  exact (image_getD 0 (by omega) _).trans (getD_map_of_mem_zipIdx placed _ _)

theorem readCalibration_calibrationPage {k : Calibration} (lawful : k.lawful) : readCalibration (calibrationPage k) = k :=
  readCalibration_of_stored lawful fun _ placed => calibrationPage_getD k placed

/-- The lock word is none of the calibration's. -/
theorem readCalibration_locked {k : Calibration} (lawful : k.lawful) :
    readCalibration ((calibrationPage k).set lockWordIndex lockMarkWord) = k := by
  refine readCalibration_of_stored lawful fun x placed => ?_
  have place : x.2 < 67 := place_lt_of_mem_zipIdx placed
  have apart : lockWordIndex ≠ x.2 := by
    unfold lockWordIndex
    omega
  rw [List.getD_eq_getElem?_getD, List.getElem?_set_ne apart, ← List.getD_eq_getElem?_getD, calibrationPage_getD k placed]

/-- A value from 0 to 65534 is no erased word. -/
theorem wordOf_ne_erased {v : Int} (low : 0 ≤ v) (high : v < 65535) : wordOf v ≠ 0xFFFF := by
  intro same
  have value := congrArg BitVec.toNat same
  unfold wordOf at value
  rw [BitVec.toNat_ofInt] at value
  have full : BitVec.toNat (0xFFFF : Word) = 65535 := rfl
  omega

theorem judgePage_calibrationPage {k : Calibration} (lawful : k.lawful) : judgePage 0 (calibrationPage k) = .valid := by
  have range := lawful.ranged .nodeAddress (CalParam.mem_all _)
  have range' : (1 : Int) ≤ k.get .nodeAddress ∧ k.get .nodeAddress ≤ 254 := range
  refine judgePage_image 0 (i := 0) (by decide) ?_
  show wordOf (k.get .nodeAddress) ≠ 0xFFFF
  exact wordOf_ne_erased (by omega) (by omega)

theorem lockWord_calibrationPage (k : Calibration) : (calibrationPage k).getD lockWordIndex 0xFFFF = 0xFFFF :=
  image_getD 0 (by decide) _

/-! ### The preset read back (R161, R169 step 3) -/

theorem Symptom.index_injective : Function.Injective Symptom.index := by
  intro a b
  cases a <;> cases b <;> simp [Symptom.index]

theorem Channel.index_injective : Function.Injective Channel.index := by
  intro a b
  cases a <;> cases b <;> simp [Channel.index]

theorem TrimEntry.ext_get {a b : TrimEntry} (same : ∀ f, a.get f = b.get f) : a = b := by
  have enabled : a.enabled = b.enabled := ofFlag_injective (same .enabled)
  have required : a.required = b.required := Symptom.index_injective (Nat.cast_inj.1 (same .required))
  have excluded : a.excluded = b.excluded := by
    have codes : (match a.excluded with | none => -1 | some k => (k.index : Int))
        = match b.excluded with | none => -1 | some k => (k.index : Int) := same .excluded
    generalize a.excluded = x, b.excluded = y at codes ⊢
    cases x with
    | none =>
      cases y with
      | none => rfl
      | some l => exact absurd codes (by dsimp only; omega)
    | some k =>
      cases y with
      | none => exact absurd codes (by dsimp only; omega)
      | some l => exact congrArg some (Symptom.index_injective (Nat.cast_inj.1 codes))
  have channel : a.channel = b.channel := Channel.index_injective (Nat.cast_inj.1 (same .channel))
  have step : a.step = b.step := same .step
  cases a
  cases b
  simp_all

theorem PresetParam.mem_all {a : PresetParam} (crop : ∀ i, a = .cropName i → i < 6) (trim : ∀ i f, a = .trim i f → i < 16) :
    a ∈ PresetParam.all := by
  cases a with
  | cropName i => simp [PresetParam.all, crop i rfl]
  | trim i f => cases f <;> simp [PresetParam.all, trim i _ rfl]
  | initialSetpoint c | envelopeMin c | envelopeMax c | initialMode c | rank c => cases c <;> decide
  | setThreshold k | clearThreshold k => cases k <;> decide
  | approachBand v | holdBand v => cases v <;> decide
  | _ => decide

theorem PerSymptom.ext_get {α : Type} {t u : PerSymptom α} (same : ∀ k, t.get k = u.get k) : t = u := by
  cases t
  cases u
  simp only [PerSymptom.mk.injEq]
  exact ⟨same .sieveLoss, same .walkerLoss, same .tailingsHigh, same .drumDroop, same .sideImbalance, same .grainDirty,
    same .grainBroken⟩

/-- A preset set of the right shape is what its parameters read. -/
theorem Preset.ext_get {s t : Preset} (left : s.shaped) (right : t.shaped) (same : ∀ a ∈ PresetParam.all, s.get a = t.get a) :
    s = t := by
  have plain (a : PresetParam) (crop : ∀ i, a ≠ .cropName i := by simp) (trim : ∀ i f, a ≠ .trim i f := by simp) : s.get a = t.get a :=
    same a (PresetParam.mem_all (fun i is => absurd is (crop i)) fun i f is => absurd is (trim i f))
  have number (a : PresetParam) {m n : Nat} (reads : s.get a = m := by rfl) (reads' : t.get a = n := by rfl)
      (crop : ∀ i, a ≠ .cropName i := by simp) (trim : ∀ i f, a ≠ .trim i f := by simp) : m = n :=
    Nat.cast_inj.1 (reads.symm.trans ((plain a crop trim).trans reads'))
  have code : s.cropCode = t.cropCode := BitVec.eq_of_toNat_eq (Nat.cast_inj.1 (plain .cropCode))
  have name : s.cropName = t.cropName := by
    refine List.ext_getElem (left.2.trans right.2.symm) fun i inside inside' => ?_
    have letter := same (.cropName i) (PresetParam.mem_all (fun j is => by simp_all [left.2]) (by simp))
    simp only [Preset.get, Nat.cast_inj, List.getD_eq_getElem _ _ inside, List.getD_eq_getElem _ _ inside'] at letter
    exact BitVec.eq_of_toNat_eq letter
  have table : s.trimTable = t.trimTable := by
    refine List.ext_getElem (left.1.trans right.1.symm) fun i inside inside' => TrimEntry.ext_get fun f => ?_
    have field := same (.trim i f) (PresetParam.mem_all (by simp) (fun j g is => by simp_all [left.1]))
    simpa only [Preset.get, Preset.trimEntry, List.getD_eq_getElem _ _ inside, List.getD_eq_getElem _ _ inside'] using field
  have setpoint : s.initialSetpoint = t.initialSetpoint := PerChannel.ext_get fun c => plain (.initialSetpoint c)
  have envelope : s.envelope = t.envelope := PerChannel.ext_get fun c => (Limits.mk.injEq ..).mpr
    ⟨plain (.envelopeMin c), plain (.envelopeMax c)⟩
  have mode : s.initialMode = t.initialMode := PerChannel.ext_get fun c => Mode.code_injective (plain (.initialMode c))
  have thresholds : s.thresholds = t.thresholds := PerSymptom.ext_get fun k =>
    (ThresholdPair.mk.injEq ..).mpr ⟨number (.setThreshold k), number (.clearThreshold k)⟩
  have restrain : s.restrain = t.restrain := (RestrainParams.mk.injEq ..).mpr
    ⟨number .restrainSet, number .restrainClear, number .restrainConfirm, number .restrainMinHold, number .restrainReduction⟩
  have relief : s.relief = t.relief := (ReliefParams.mk.injEq ..).mpr
    ⟨ofFlag_injective (plain .reliefEnable), number .enterPercent, number .recoverPercent, number .confirmTime, number .recoverTime,
      number .giveUpTime, plain .reliefGap⟩
  have slope : s.slope = t.slope := (SlopeParams.mk.injEq ..).mpr
    ⟨plain .louverGain16, number .louverDeadband, number .louverTrimStep, number .louverTrimMax, plain .fanPitchGain16⟩
  have arbiter : s.arbiterMode = t.arbiterMode := ArbiterMode.code_injective (plain .arbiterMode)
  have rank : s.rank = t.rank := PerChannel.ext_get fun c => number (.rank c)
  have bands : s.bands = t.bands := PerSpeed.ext_get fun v =>
    (SpeedBands.mk.injEq ..).mpr ⟨number (.approachBand v), number (.holdBand v)⟩
  have windowLength : s.windowLength = t.windowLength := number .windowLength
  have averagingDepth : s.averagingDepth = t.averagingDepth := number .averagingDepth
  have settleCount : s.settleCount = t.settleCount := number .settleCount
  have holdTime : s.holdTime = t.holdTime := number .holdTime
  have qualityMaxAge : s.qualityMaxAge = t.qualityMaxAge := number .qualityMaxAge
  have qualityMinSamples : s.qualityMinSamples = t.qualityMinSamples := number .qualityMinSamples
  have stint : s.stint = t.stint := number .stint
  have minHarvestSpeed : s.minHarvestSpeed = t.minHarvestSpeed := number .minHarvestSpeed
  cases s
  cases t
  simp_all

/-- A parameter taken over reads as the page has it, and the others as before. -/
theorem get_takeStored {words : List Word} {k : Preset} (ranged : k.ranged) (l : List (PresetParam × Nat))
    (listed : ∀ x ∈ l, x.1 ∈ PresetParam.all) (stored : ∀ x ∈ l, words.getD x.2 0xFFFF = wordOf (k.get x.1)) :
    ∀ s : Preset, s.shaped → (∀ a ∈ PresetParam.all, s.get a = k.get a ∨ a ∈ l.map (·.1)) →
      l.foldl (takeStored words) (some s) = some k := by
  induction l with
  | nil =>
    intro s shaped known
    have same : s = k := Preset.ext_get shaped ranged.1 fun a member => (known a member).resolve_right List.not_mem_nil
    exact congrArg some same
  | cons x rest ih =>
    intro s shaped known
    rw [List.forall_mem_cons] at stored listed
    have range := ranged.2 x.1 listed.1
    have taken : takeStored words (some s) x = some (s.put x.1 (k.get x.1)) := by
      unfold takeStored
      rw [stored.1, storedValue_wordOf x.1.range_fitsWord range]
    rw [List.foldl_cons, taken]
    refine ih listed.2 stored.2 _ (Preset.shaped_put shaped _ _) fun a member => ?_
    by_cases here : a = x.1
    · subst here
      exact .inl (Preset.get_put_self shaped listed.1 range)
    · rw [Preset.get_put_ne shaped listed.1 _ here]
      exact (known a member).imp_right fun found => (List.mem_cons.1 found).resolve_left here

theorem presetPage_getD (page : Nat) (k : Preset) {x : PresetParam × Nat} (placed : x ∈ PresetParam.all.zipIdx) :
    (presetPage page k).getD x.2 0xFFFF = wordOf (k.get x.1) := by
  have place : x.2 < 161 := place_lt_of_mem_zipIdx placed
  exact (image_getD page (by omega) _).trans (getD_map_of_mem_zipIdx placed _ _)

theorem readPreset_presetPage (page : Nat) {k : Preset} (lawful : k.lawful) : readPreset (presetPage page k) = some k := by
  have read : PresetParam.all.zipIdx.foldl (takeStored (presetPage page k)) (some (Preset.fallback defaultFactory)) = some k :=
    get_takeStored lawful.ranged _ (fun x placed => List.fst_mem_of_mem_zipIdx placed) (fun x placed => presetPage_getD page k placed) _
      Preset.fallback_default_lawful.ranged.1 fun a member => .inr (by rwa [List.zipIdx_map_fst])
  have ordered : PresetParam.all.all (fun a => k.ordered a) = true :=
    List.all_eq_true.2 fun a member => (lawful.2.2 a member).2.2
  unfold readPreset
  rw [read]
  exact if_pos ordered

theorem judgePage_presetPage (page : Nat) {k : Preset} (lawful : k.lawful) : judgePage page (presetPage page k) = .valid := by
  have range : (5 : Int) ≤ k.get .windowLength ∧ k.get .windowLength ≤ 100 :=
    lawful.ranged.2 .windowLength (PresetParam.mem_all (by simp) (by simp))
  refine judgePage_image page (i := 31) (by decide) ?_
  show wordOf (k.get .windowLength) ≠ 0xFFFF
  exact wordOf_ne_erased (by omega) (by omega)

/-! ### The position record read back (R166, R169 step 2) -/

section

variable {r : PositionRecord}

/-- A word of a position record's page is the one written there. -/
theorem recordPage_getD (r : PositionRecord) {i : Nat} (before : i < 255) : (recordPage r).getD i 0xFFFF =
    ([BitVec.ofNat 16 r.number, BitVec.ofNat 16 (r.number / 65536), match r.slot with
        | none => 0xFFFF
        | some n => BitVec.ofNat 16 n]
      ++ PosChannel.all.map (fun x => wordOf (r.position.get x))
      ++ PosChannel.all.map (fun x => wordOf (ofFlag (r.referenced.get x)))
      ++ Channel.all.map (fun c => wordOf (r.setpoint.get c))
      ++ Channel.all.map (fun c => (BitVec.ofNat 16 (r.origin.get c).code : Word))).getD i 0xFFFF :=
  image_getD 1 before _

theorem wordOf_ofFlag (b : Bool) : decide (wordOf (ofFlag b) = 1) = b := by
  cases b <;> decide

theorem Origin.ofCode_code (o : Origin) : Origin.ofCode ((BitVec.ofNat 16 o.code : Word).toNat) = o := by
  cases o <;> rfl

theorem readRecord_recordPage (lawful : r.lawful) : readRecord (recordPage r) = r := by
  obtain ⟨first, last, slots, positions, setpoints⟩ := lawful
  have low : (recordPage r).getD 0 0xFFFF = BitVec.ofNat 16 r.number := recordPage_getD r (by decide)
  have high : (recordPage r).getD 1 0xFFFF = BitVec.ofNat 16 (r.number / 65536) := recordPage_getD r (by decide)
  have slotWord : (recordPage r).getD 2 0xFFFF = match r.slot with
      | none => 0xFFFF
      | some n => BitVec.ofNat 16 n := recordPage_getD r (by decide)
  have position (x : PosChannel) : (recordPage r).getD (3 + PosChannel.place x) 0xFFFF = wordOf (r.position.get x) := by
    cases x <;> exact recordPage_getD r (by decide)
  have referenced (x : PosChannel) : (recordPage r).getD (7 + PosChannel.place x) 0xFFFF = wordOf (ofFlag (r.referenced.get x)) := by
    cases x <;> exact recordPage_getD r (by decide)
  have setpoint (c : Channel) : (recordPage r).getD (11 + c.index) 0xFFFF = wordOf (r.setpoint.get c) := by
    cases c <;> exact recordPage_getD r (by decide)
  have origin (c : Channel) : (recordPage r).getD (17 + c.index) 0xFFFF = BitVec.ofNat 16 (r.origin.get c).code := by
    cases c <;> exact recordPage_getD r (by decide)
  have number : (BitVec.ofNat 16 r.number).toNat + 65536 * (BitVec.ofNat 16 (r.number / 65536)).toNat = r.number := by
    simp only [BitVec.toNat_ofNat]
    omega
  have slot : (if ((recordPage r).getD 2 0xFFFF).toNat < 16 then some ((recordPage r).getD 2 0xFFFF).toNat else none) = r.slot := by
    rw [slotWord]
    cases held : r.slot with
    | none => rfl
    | some n =>
      have below := slots n held
      have value : (BitVec.ofNat 16 n).toNat = n := by
        rw [BitVec.toNat_ofNat]
        omega
      dsimp only
      rw [value, if_pos below]
  unfold readRecord
  simp only [low, high, number, slot, position, referenced, setpoint, origin, wordOf_ofFlag, Origin.ofCode_code]
  have positionsRead : (PerPos.build fun x => (wordOf (r.position.get x)).toInt) = r.position :=
    PerPos.ext_get fun x => by rw [PerPos.get_build, toInt_wordOf (positions x)]
  have referencesRead : (PerPos.build fun x => r.referenced.get x) = r.referenced := PerPos.ext_get fun x => PerPos.get_build _ x
  have setpointsRead : (PerChannel.build fun c => (wordOf (r.setpoint.get c)).toInt) = r.setpoint :=
    PerChannel.ext_get fun c => by rw [PerChannel.get_build, toInt_wordOf (setpoints c)]
  have originsRead : (PerChannel.build fun c => r.origin.get c) = r.origin := PerChannel.ext_get fun c => PerChannel.get_build _ c
  rw [positionsRead, referencesRead, setpointsRead, originsRead]

theorem judgePage_recordPage (r : PositionRecord) : judgePage 1 (recordPage r) = .valid := by
  refine judgePage_image 1 (i := 17) (by decide) ?_
  show (BitVec.ofNat 16 (r.origin.get .drum).code : Word) ≠ 0xFFFF
  cases r.origin.get .drum <;> decide

end

end Sys2Proof.Machine

end

section
/-! PROOFS. Start-up and supply (R101, R145, R166 to R170): what a start-up reads from the store, and the commands that bring it. -/

namespace Sys2Proof.Machine

/-! ### The store read (R169 steps 1 to 3) -/

section

variable {m : Memory}

theorem startReading_cal_of_valid (valid : judgePage 0 (m.page 0) = .valid) :
    m.startReading.cal = ⟨readCalibration (m.page 0), true⟩ := by
  have state : m.judge.getD 0 .damaged = .valid := (judge_getD m (by decide) _).trans valid
  simp only [Memory.startReading, state, decide_true, if_true]

theorem startReading_cal_of_invalid (invalid : judgePage 0 (m.page 0) ≠ .valid) : m.startReading.cal = ⟨.default, false⟩ := by
  have state : m.judge.getD 0 .damaged ≠ .valid := by rwa [judge_getD m (by decide)]
  simp only [Memory.startReading, state, decide_false, Bool.false_eq_true, if_false]

theorem startReading_lockMark_of_valid (valid : judgePage 0 (m.page 0) = .valid) :
    m.startReading.lockMark = decide ((m.page 0).getD lockWordIndex 0xFFFF = lockMarkWord) := by
  have state : m.judge.getD 0 .damaged = .valid := (judge_getD m (by decide) _).trans valid
  simp only [Memory.startReading, state, decide_true, Bool.true_and]

theorem startReading_lockMark_of_invalid (invalid : judgePage 0 (m.page 0) ≠ .valid) : m.startReading.lockMark = false := by
  have state : m.judge.getD 0 .damaged ≠ .valid := by rwa [judge_getD m (by decide)]
  simp only [Memory.startReading, state, decide_false, Bool.false_and]

theorem startReading_record_of_valid (valid : judgePage 1 (m.page 1) = .valid) :
    m.startReading.record = some (readRecord (m.page 1)) := by
  have state : m.judge.getD 1 .damaged = .valid := (judge_getD m (by decide) _).trans valid
  simp only [Memory.startReading, state, if_true]

theorem startReading_record_of_invalid (invalid : judgePage 1 (m.page 1) ≠ .valid) : m.startReading.record = none := by
  have state : m.judge.getD 1 .damaged ≠ .valid := by rwa [judge_getD m (by decide)]
  simp only [Memory.startReading, state, if_false]

/-- The usable preset of the record's slot, with the slot. -/
def Memory.loaded (m : Memory) : Option (Nat × Preset) :=
  match m.startReading.record.bind (·.slot) with
  | some n => (m.presetOf m.judge n).map fun k => (n, k)
  | none => none

/-- The preset of start-up before its envelopes are clamped. -/
def Memory.startPreset (m : Memory) : Preset :=
  match m.loaded with
  | some x => x.2
  | none => Preset.fallback m.startReading.cal.figures.factory

theorem startReading_slot (m : Memory) : m.startReading.slot = m.loaded.map (·.1) := rfl

theorem startReading_preset_eq (m : Memory) :
    m.startReading.preset = m.startPreset.clampEnvelopes m.startReading.cal.figures.factory := rfl

theorem presetOf_of_page {n : Nat} (below : n < 16) {k : Preset} (lawful : k.lawful) (page : m.page (n + 2) = presetPage (n + 2) k) :
    m.presetOf m.judge n = some k := by
  have state : m.judge.getD (slotPage n) .damaged = .valid := by
    rw [slotPage, judge_getD m (by omega), page, judgePage_presetPage _ lawful]
  unfold Memory.presetOf
  rw [if_pos state, slotPage, page, readPreset_presetPage _ lawful]

theorem presetOf_of_invalid {n : Nat} (below : n < 16) (invalid : judgePage (n + 2) (m.page (n + 2)) ≠ .valid) :
    m.presetOf m.judge n = none := by
  have state : m.judge.getD (slotPage n) .damaged ≠ .valid := by rwa [slotPage, judge_getD m (by omega)]
  exact if_neg state

theorem loaded_of_page {r : PositionRecord} (record : m.startReading.record = some r) {n : Nat} (slot : r.slot = some n) (below : n < 16)
    {k : Preset} (lawful : k.lawful) (page : m.page (n + 2) = presetPage (n + 2) k) : m.loaded = some (n, k) := by
  unfold Memory.loaded
  rw [record, Option.bind_some, slot]
  dsimp only
  rw [presetOf_of_page below lawful page]
  rfl

theorem loaded_of_invalid {r : PositionRecord} (record : m.startReading.record = some r) (below : ∀ n ∈ r.slot, n < 16)
    (invalid : ∀ n, r.slot = some n → judgePage (n + 2) (m.page (n + 2)) ≠ .valid) : m.loaded = none := by
  unfold Memory.loaded
  rw [record, Option.bind_some]
  cases slot : r.slot with
  | none => rfl
  | some n =>
    dsimp only
    rw [presetOf_of_invalid (below n slot) (invalid n slot)]
    rfl

theorem loaded_of_noRecord (record : m.startReading.record = none) : m.loaded = none := by
  unfold Memory.loaded
  rw [record]
  rfl

theorem startPreset_of_loaded {n : Nat} {k : Preset} (loaded : m.loaded = some (n, k)) : m.startPreset = k := by
  unfold Memory.startPreset
  rw [loaded]

theorem startPreset_of_unloaded (unloaded : m.loaded = none) : m.startPreset = Preset.fallback m.startReading.cal.figures.factory := by
  unfold Memory.startPreset
  rw [unloaded]

end

/-! ### The channels after the reading -/

section

variable {r : StartReading}

theorem startReading_entry_of_record {known : PositionRecord} (record : r.record = some known) (c : Channel) : r.entry c =
    .reset (clamp (r.preset.envelope.get c).min (r.preset.envelope.get c).max (known.setpoint.get c)) (known.origin.get c)
      (r.preset.initialMode.get c) := by
  unfold StartReading.entry
  dsimp only
  rw [record]

theorem startReading_entry_of_noRecord (record : r.record = none) (c : Channel) : r.entry c =
    .reset (clamp (r.preset.envelope.get c).min (r.preset.envelope.get c).max (r.preset.initialSetpoint.get c)) .preset
      (r.preset.initialMode.get c) := by
  unfold StartReading.entry
  dsimp only
  rw [record]

theorem startReading_entry_mode (r : StartReading) (c : Channel) : (r.entry c).mode = r.preset.initialMode.get c := by
  cases record : r.record with
  | none => rw [startReading_entry_of_noRecord record]; rfl
  | some known => rw [startReading_entry_of_record record]; rfl

theorem startReading_motion_of_record {known : PositionRecord} (record : r.record = some known) (x : PosChannel) :
    (r.motion x.channel).position = known.position.get x
      ∧ (r.motion x.channel).referenced = (known.referenced.get x && r.cal.valid) := by
  unfold StartReading.motion
  rw [record]
  cases x <;> exact ⟨rfl, rfl⟩

theorem startReading_motion_of_noRecord (record : r.record = none) (x : PosChannel) :
    (r.motion x.channel).position = 0 ∧ (r.motion x.channel).referenced = false := by
  unfold StartReading.motion
  rw [record]
  cases x <;> exact ⟨rfl, rfl⟩

theorem startReading_motion_phase (invalid : r.cal.valid = false) (c : Channel) : (r.motion c).phase = .faulted .noCalibration := by
  unfold StartReading.motion
  rw [invalid]
  dsimp only
  split <;> rfl

end

/-! ### The part after a start-up -/

/-- The part holds what a start-up has read (R169 steps 1 to 3). -/
def Part.holds (t : Part) (r : StartReading) : Prop :=
  t.store.pageStates = r.pageStates ∧ (t.store.activeCal = r.cal ∧ t.store.pendingCal = r.cal ∧ t.store.lockMark = r.lockMark)
    ∧ (t.store.activePreset = r.preset ∧ t.store.pendingPreset = r.preset ∧ t.store.activeSlot = r.slot)
    ∧ t.store.recordNumber = (match r.record with
      | some known => known.number
      | none => 0)
    ∧ (∀ c, t.entryOf c = r.entry c) ∧ ∀ c, t.motionOf c = r.motion c

theorem holds_startUp (s : Part) (causes : ResetCauses) :
    (s.startUp causes).holds (s.startUp causes).store.memory.startReading := by
  rw [startUp_eq]
  exact ⟨rfl, ⟨rfl, rfl, rfl⟩, ⟨rfl, rfl, rfl⟩, rfl, fun c => PerChannel.get_build _ c, fun c => PerChannel.get_build _ c⟩

section

variable {t : Part} (holds : t.holds t.store.memory.startReading)

include holds

theorem pageState_of_holds {n : Nat} (below : n < 18) : t.pageState n = judgePage n (t.store.memory.page n) := by
  obtain ⟨states, -⟩ := holds
  unfold Part.pageState
  rw [states]
  exact judge_getD _ below _

/-- The calibration of a VALID page 0, with its lock mark. -/
theorem calibration_of_holds {k : Calibration} (valid : judgePage 0 (t.store.memory.page 0) = .valid)
    (reads : readCalibration (t.store.memory.page 0) = k) : t.store.activeCal = ⟨k, true⟩ ∧ t.store.pendingCal = ⟨k, true⟩
      ∧ t.store.lockMark = decide ((t.store.memory.page 0).getD lockWordIndex 0xFFFF = lockMarkWord) := by
  obtain ⟨-, ⟨active, pending, lock⟩, -⟩ := holds
  have cal := startReading_cal_of_valid valid
  rw [reads] at cal
  exact ⟨active.trans cal, pending.trans cal, lock.trans (startReading_lockMark_of_valid valid)⟩

theorem noCalibration_of_holds (invalid : judgePage 0 (t.store.memory.page 0) ≠ .valid) : t.store.activeCal = ⟨.default, false⟩
    ∧ t.store.pendingCal = ⟨.default, false⟩ ∧ t.store.lockMark = false ∧ ∀ c, (t.motionOf c).phase = .faulted .noCalibration := by
  obtain ⟨-, ⟨active, pending, lock⟩, -, -, -, motions⟩ := holds
  have cal := startReading_cal_of_invalid invalid
  refine ⟨active.trans cal, pending.trans cal, lock.trans (startReading_lockMark_of_invalid invalid), fun c => ?_⟩
  rw [motions c, startReading_motion_phase (by rw [cal])]

/-- The preset of start-up, its envelopes clamped to the factory limits. -/
theorem preset_of_holds {loaded : Option Nat} {k : Preset} (slot : t.store.memory.loaded.map (·.1) = loaded)
    (reads : t.store.memory.startPreset = k) : t.store.activeSlot = loaded
      ∧ t.store.activePreset = k.clampEnvelopes t.store.activeCal.figures.factory ∧ t.store.pendingPreset = t.store.activePreset := by
  obtain ⟨-, ⟨active, -⟩, ⟨preset, pending, held⟩, -⟩ := holds
  refine ⟨held.trans ((startReading_slot _).trans slot), ?_, pending.trans preset.symm⟩
  rw [preset, active, startReading_preset_eq, reads]

/-- Without a usable preset the fallback is taken. -/
theorem fallback_of_holds (unloaded : t.store.memory.loaded = none) : t.store.activeSlot = none
    ∧ t.store.activePreset = (Preset.fallback t.store.activeCal.figures.factory).clampEnvelopes t.store.activeCal.figures.factory
    ∧ t.store.pendingPreset = t.store.activePreset := by
  refine preset_of_holds holds (by rw [unloaded]; rfl) ?_
  obtain ⟨-, ⟨active, -⟩, -⟩ := holds
  rw [startPreset_of_unloaded unloaded, active]

/-- What of the position record of page 1 a start-up takes over. -/
theorem record_of_holds {r : PositionRecord} (record : t.store.memory.startReading.record = some r) :
    t.store.recordNumber = r.number
    ∧ (∀ x : PosChannel, (t.motionOf x.channel).position = r.position.get x
      ∧ (t.motionOf x.channel).referenced = (r.referenced.get x && t.store.activeCal.valid))
    ∧ ∀ c, (t.entryOf c).setpoint = t.clampToEnvelope c (r.setpoint.get c) ∧ (t.entryOf c).origin = r.origin.get c := by
  obtain ⟨-, ⟨active, -⟩, ⟨preset, -⟩, number, entries, motions⟩ := holds
  rw [record] at number
  refine ⟨number, fun x => ?_, fun c => ?_⟩
  · rw [motions, active]
    exact startReading_motion_of_record record x
  · rw [entries c, startReading_entry_of_record record, Part.clampToEnvelope, Part.envelope, Part.params, preset]
    exact ⟨rfl, rfl⟩

theorem noRecord_of_holds (record : t.store.memory.startReading.record = none) : t.store.recordNumber = 0
    ∧ (∀ x : PosChannel, (t.motionOf x.channel).position = 0 ∧ (t.motionOf x.channel).referenced = false)
    ∧ ∀ c, (t.entryOf c).setpoint = t.clampToEnvelope c (t.store.activePreset.initialSetpoint.get c)
      ∧ (t.entryOf c).origin = .preset := by
  obtain ⟨-, -, ⟨preset, -⟩, number, entries, motions⟩ := holds
  rw [record] at number
  refine ⟨number, fun x => ?_, fun c => ?_⟩
  · rw [motions]
    exact startReading_motion_of_noRecord record x
  · rw [entries c, startReading_entry_of_noRecord record, Part.clampToEnvelope, Part.envelope, Part.params, preset]
    exact ⟨rfl, rfl⟩

theorem mode_of_holds (c : Channel) : (t.entryOf c).mode = t.store.activePreset.initialMode.get c := by
  obtain ⟨-, -, ⟨preset, -⟩, -, entries, -⟩ := holds
  rw [entries, startReading_entry_mode, preset]

end

/-- A start-up with KEY low begins a key-off shutdown (R169). -/
theorem shutdown_startUp (s : Part) (causes : ResetCauses) : (s.startUp causes).shutdown =
    if s.lines.key = true then none else some ⟨.keyOff, some (s.now + 3000000)⟩ := by
  obtain ⟨m, k, drop, -⟩ := dropOp_eq s
  rw [startUp_eq, drop]
  rfl

/-- A start-up queues no STORE_DONE. -/
theorem noStoreDone_startUp (s : Part) (causes : ResetCauses) :
    ∀ f ∈ (s.startUp causes).bus.queue, ∀ c d8 d16 overrun window, f.body ≠ .event .storeDone c d8 d16 overrun window := by
  rw [startUp_eq]
  show ∀ f ∈ (s.dropOp.startState causes).startNotices causes, _
  unfold Part.startNotices
  intro f queued c d8 d16 overrun window
  rcases List.mem_cons.1 queued with rfl | faults
  · simp
  · split at faults
    · exact absurd faults List.not_mem_nil
    · obtain ⟨d, -, rfl⟩ := List.mem_map.1 faults
      simp

/-! ### KEY and the supply -/

theorem exec_supplyDip_of_supplied {p : Part} (supplied : p.power ≠ .off) (q : List Instr) (dt : Nat) :
    exec (.supplyDip dt) ⟨p, q⟩ = .next ⟨(p.later dt).startUp { p.store.resetCauses with supplyDip := true }, q⟩ :=
  congrArg (fun t => Host.Outcome.next (State.mk t q)) (if_neg supplied)

theorem exec_supplyDip_of_off {p : Part} (off : p.power = .off) (q : List Instr) (dt : Nat) :
    exec (.supplyDip dt) ⟨p, q⟩ = .next ⟨p.later dt, q⟩ :=
  congrArg (fun t => Host.Outcome.next (State.mk t q)) (if_pos off)

section

variable {s : Part}

theorem keyBack_of_released (released : s.power = .released) : s.keyBack = s.startUp ⟨true, false, false⟩ := by
  unfold Part.keyBack
  rw [released]
  rfl

theorem keyBack_of_off (off : s.power = .off) : s.keyBack = s := by
  unfold Part.keyBack
  rw [off]

/-- In no shutdown and in a commanded one KEY's return brings nothing. -/
theorem keyBack_of_running (on : s.power = .on) (running : ∀ d, s.shutdown ≠ some ⟨.keyOff, d⟩) : s.keyBack = s := by
  unfold Part.keyBack
  rw [on]
  cases closing : s.shutdown with
  | none => rfl
  | some x =>
    obtain ⟨kind, d⟩ := x
    cases kind with
    | keyOff => exact absurd closing (running d)
    | commanded => rfl

theorem not_writingRecord (other : ∀ op, s.store.op = some op → op.kind ≠ .positionWrite) : s.writingRecord = false := by
  unfold Part.writingRecord
  cases flight : s.store.op with
  | none => rfl
  | some op => exact decide_eq_false (other op flight)

/-- The conditions of R145, outside a shutdown. -/
theorem reliefBarred_eq_false_iff (running : s.shutdown = none) : s.reliefBarred = false ↔
    s.capture.engaged = true ∧ s.store.activePreset.relief.enable = true ∧ (s.motionOf .concave).referenced = true
      ∧ ∀ cause, (s.motionOf .concave).phase ≠ .faulted cause := by
  rw [← isFaulted_eq_false_iff]
  unfold Part.reliefBarred Part.params
  simp [running, and_assoc]

end

end Sys2Proof.Machine

open Sys2Proof Sys2Proof.Machine

/-- Settles O55: every restart is a start-up, whose reading of the store gives back what the pages were written from. -/
theorem startUpAndSupply : Obligations.StartUpAndSupply := by
  intro p q dt readsBack started
  have reads (s : Part) (causes : ResetCauses) : readsBack (s.startUp causes) := by
    have holds := holds_startUp s causes
    generalize s.startUp causes = t at holds
    refine ⟨fun n below => pageState_of_holds holds below, fun k lawful => ⟨fun written => ?plain, fun written => ?locked⟩,
      fun invalid => noCalibration_of_holds holds invalid, fun r lawful written => ?record, fun invalid => ?noRecord,
      fun c => mode_of_holds holds c⟩
    case plain =>
      have valid : judgePage 0 (t.store.memory.page 0) = .valid := written ▸ judgePage_calibrationPage lawful
      obtain ⟨active, pending, mark⟩ := calibration_of_holds holds valid (written ▸ readCalibration_calibrationPage lawful)
      refine ⟨active, pending, mark.trans (decide_eq_false ?_)⟩
      rw [show t.store.memory.page 0 = _ from written, lockWord_calibrationPage]
      decide
    case locked =>
      have valid : judgePage 0 (t.store.memory.page 0) = .valid := by
        rw [written]
        exact judgePage_set_lockWord (judgePage_calibrationPage lawful) (by decide) (image_length 0 _)
      obtain ⟨active, -, mark⟩ := calibration_of_holds holds valid (written ▸ readCalibration_locked lawful)
      refine ⟨active, mark.trans (decide_eq_true ?_)⟩
      rw [show t.store.memory.page 0 = _ from written, List.getD_eq_getElem?_getD,
        List.getElem?_set_self (by rw [calibrationPage, image_length]; decide)]
      rfl
    case record =>
      have valid : judgePage 1 (t.store.memory.page 1) = .valid := written ▸ judgePage_recordPage r
      have record : t.store.memory.startReading.record = some r :=
        (startReading_record_of_valid valid).trans (congrArg some (written ▸ readRecord_recordPage lawful))
      obtain ⟨number, channels, setpoints⟩ := record_of_holds holds record
      obtain ⟨-, -, slots, -⟩ := lawful
      refine ⟨number, channels, setpoints, fun n k slot lawful' image => ?_, fun invalid => ?_⟩
      · have found := loaded_of_page record slot (slots n slot) lawful' image
        exact preset_of_holds holds (by rw [found]; rfl) (startPreset_of_loaded found)
      · exact fallback_of_holds holds (loaded_of_invalid record slots invalid)
    case noRecord =>
      have record := startReading_record_of_invalid invalid
      obtain ⟨number, channels, setpoints⟩ := noRecord_of_holds holds record
      exact ⟨number, fallback_of_holds holds (loaded_of_noRecord record), channels, setpoints⟩
  refine ⟨?powerOn, fun supplied => ?dip, fun off => exec_supplyDip_of_off off q dt, fun released => ?released, fun idle => ?idle,
    fun d on closing other => ?cancelled, ?powerLoss, fun h tag received running => ?clear⟩
  case powerOn =>
    refine ⟨_, exec_powerOn p q dt, ⟨restarted_startUp (p.later dt) _, cutShort_startUp (p.later dt) _, reads _ _,
      noStoreDone_startUp _ _⟩, lines_startUp _ _, ?_⟩
    rw [shutdown_startUp]
    show (if p.lines.key = true then none else some _).isSome = true ↔ _
    cases p.lines.key <;> simp
  case dip =>
    exact ⟨_, exec_supplyDip_of_supplied supplied q dt, ⟨restarted_startUp (p.later dt) _, cutShort_startUp (p.later dt) _, reads _ _,
      noStoreDone_startUp _ _⟩, lines_startUp _ _⟩
  case released =>
    have effect := exec_keyReturns p q dt
    rw [keyBack_of_released (s := p.keyed dt) released] at effect
    exact ⟨_, effect, ⟨restarted_startUp (p.keyed dt) _, cutShort_startUp (p.keyed dt) _, reads _ _, noStoreDone_startUp _ _⟩,
      lines_startUp _ _, shutdown_startUp _ _⟩
  case idle =>
    rw [exec_keyReturns]
    rcases idle with off | ⟨on, running⟩
    · rw [keyBack_of_off (s := p.keyed dt) off]
      rfl
    · rw [keyBack_of_running (s := p.keyed dt) on running]
      rfl
  case cancelled =>
    intro watches cancelled becomes
    have effect : becomes cancelled.judgeRelief := by
      refine (exec_keyReturns p q dt).trans ?_
      rw [keyBack_of_keyOff (s := p.keyed dt) on closing (not_writingRecord (s := p.keyed dt) other)]
      rfl
    have judged : cancelled.reliefBarred = false ↔ watches := reliefBarred_eq_false_iff (s := cancelled) rfl
    refine ⟨fun disarmed fit => ?_, fun disarmed unfit => ?_, fun active fit => ?_, fun active unfit => ?_⟩
    · rwa [judgeRelief_arms (s := cancelled) (judged.2 fit) disarmed] at effect
    · have barred : cancelled.reliefBarred = true := by simpa using mt judged.1 unfit
      rwa [judgeRelief_of_disarmed barred disarmed] at effect
    · rwa [judgeRelief_stays (s := cancelled) (judged.2 fit) active] at effect
    · have barred : cancelled.reliefBarred = true := by simpa using mt judged.1 unfit
      obtain ⟨e, b, disarms⟩ := judgeRelief_disarms (s := cancelled) barred active
      rw [disarms] at effect
      exact ⟨_, effect, rfl, rfl, rfl, rfl, rfl, rfl, rfl⟩
  case powerLoss =>
    obtain ⟨m, k, dropped, kept⟩ := dropOp_eq (p.later dt)
    have short := (p.later dt).cutShort_dropOp
    rw [dropped] at short
    have effect : exec (.powerLoss dt) ⟨p, q⟩ = .next ⟨{ (p.later dt).dropOp with power := .off, phold := false }, q⟩ := rfl
    rw [dropped] at effect
    exact ⟨m, k, short, kept, effect⟩
  case clear =>
    have allowed : serves h 1 false = true := by
      obtain ⟨-, -, -, source, -⟩ := received
      simp [serves, source]
    refine congrArg (fun t => Host.Outcome.next (State.mk t q)) ((Part.onEvent_of_on received.1 dt _).trans ?_)
    rw [onService_of_received (s := p.later dt) received allowed]
    refine (if_neg (Option.not_isSome_iff_eq_none.2 running)).trans ?_
    rw [reply_service]
    rfl

end
